-- ==== Sys2Proof/Word.lean ====
section
/-! DEFINITION. Word.lean: bytes, words, and tables keyed by a number. Little-endian and bit helpers stand in Machine/Bits.lean. -/

namespace Sys2Proof

abbrev Byte := BitVec 8
abbrev Half := BitVec 16
abbrev Word := BitVec 32
abbrev DWord := BitVec 64

/-- A finite table: number and value pairs. Everything the part numbers (registers, queues, cores, entries) is held in one. -/
abbrev Tbl (α : Type) := List (Nat × α)

/-- The value listed at `k`, if one is. -/
def Tbl.get? {α : Type} : Tbl α → Nat → Option α
  | [], _ => none
  | (j, w) :: r, k => if k = j then some w else Tbl.get? r k

/-- The value at `k`, or `d` where none is listed. -/
def Tbl.getD {α : Type} (t : Tbl α) (k : Nat) (d : α) : α := (Tbl.get? t k).getD d

/-- Lists `v` at `k`, in ascending order of numbers. -/
def Tbl.set {α : Type} : Tbl α → Nat → α → Tbl α
  | [], k, v => [(k, v)]
  | (j, w) :: r, k, v =>
    if k = j then (k, v) :: r else if k < j then (k, v) :: (j, w) :: r else (j, w) :: Tbl.set r k v

/-- Removes what is listed at `k`. -/
def Tbl.erase {α : Type} (t : Tbl α) (k : Nat) : Tbl α := t.filter fun p => p.1 != k

/-- Changes the value at `k` by `f`, if one is listed. -/
def Tbl.modify {α : Type} : Tbl α → Nat → (α → α) → Tbl α
  | [], _, _ => []
  | (j, w) :: r, k, f => if k = j then (j, f w) :: r else (j, w) :: Tbl.modify r k f

/-- The lowest number below `bound` that satisfies `p`, counting up from `from_`. -/
def firstFrom (p : Nat → Bool) : Nat → Nat → Option Nat
  | 0, _ => none
  | fuel + 1, n => if p n then some n else firstFrom p fuel (n + 1)

end Sys2Proof
end

