-- ==== Sys2Proof/Syntax.lean ====
section
/-! DEFINITION. Syntax.lean: one constructor of Instr per row of spec/opcode_table.json: the Kweyn-N instructions with their operand
fields, and the events of the part's other agents with the numbers that say whose event it is. -/

namespace Sys2Proof

/-- The formats of R261 and R262. -/
inductive Fmt where
  | f64a | f64i | f96a | f96i | f128m | f128t
deriving DecidableEq, Repr

/-- The common fields of R260 that are no operand: the format (hence the length), STALL and YLD. -/
structure Com where
  fmt   : Fmt
  stall : BitVec 4
  yld   : Bool
deriving DecidableEq, Repr

/-- The operand crossbar's patterns (R163). -/
inductive Pat where
  | same                  -- identity
  | rot (n : Fin 32)      -- lane (i + n) mod 32
  | bc (n : Fin 32)       -- lane n
  | bf (n : Fin 5)        -- lane i XOR 2^n
  | mir (n : Fin 5)       -- groups of 2^(n+1) lanes, mirrored
  | scalar                -- the split's s register
deriving DecidableEq, Repr

/-- A vector source operand field (R163). -/
structure Src where
  pat : Pat
  reg : BitVec 8
deriving DecidableEq, Repr

/-- TYPE codes (R264). -/
inductive Ty where
  | i8 | i16 | i32 | i64 | n8 | n16 | n32 | n64 | f64 | f32 | f16 | bf16 | e4m3 | e5m2 | mx8 | mx4 | cb4
deriving DecidableEq, Repr

/-- Comparison codes (R264). -/
inductive Cond where
  | eq | ne | lt | le | gt | ge | un | ord
deriving DecidableEq, Repr

/-- OP codes of reductions (R269) and, with `xchg`, of atomics (R273). -/
inductive ROp where
  | add | min | max | and | or | xor | xchg
deriving DecidableEq, Repr

/-- RMO of the AR layout (R265): `cr` takes cr.RMODE.MODE. -/
inductive Rmo where
  | cr | rne | rz | ru | rd | rs
deriving DecidableEq, Repr

/-- The four data spaces (R113). -/
inductive Space where
  | g | sp | cl | bk
deriving DecidableEq, Repr

/-- Scopes (R248). -/
inductive Scope where
  | gang | core | cluster | part | dev | sys | ms
deriving DecidableEq, Repr

/-- MEM ORD (R265). -/
inductive MOrd where
  | plain | acq | rel | acqrel
deriving DecidableEq, Repr

/-- The MEM layout (R265). -/
structure MemMod where
  space : Space
  scope : Scope
  ord   : MOrd
deriving DecidableEq, Repr

/-- The CP layout (R265). -/
structure CpMod where
  dsp   : Space
  ssp   : Space
  scope : Scope
  nb    : BitVec 4
  nben  : Bool
deriving DecidableEq, Repr

/-- SVOTE's operations (R319). -/
inductive Vote where
  | any | all | ballot | count
deriving DecidableEq, Repr

/-- VLANE's operations (R330). -/
inductive LaneOp where
  | laneid | mask | rank
deriving DecidableEq, Repr

/-- BEWU's operations (R388). -/
inductive EwOp where
  | scadd | clamp | mul | moment
deriving DecidableEq, Repr

/-- CLBAR's operations (R357). -/
inductive ClOp where
  | arrive | wait | both
deriving DecidableEq, Repr

/-- A run of registers of a FLASH live-in set (R268). -/
structure Run where
  count : BitVec 5
  first : BitVec 8
deriving DecidableEq, Repr

/-- FLASH's raw fields (R268). -/
structure FlashSet where
  v0 : Run
  v1 : Run
  s0 : Run
  s1 : Run
  recipe : BitVec 16
deriving DecidableEq, Repr

/-- The tile-image fields that TLD and TST share (R369, R371, R376). -/
structure TileMem where
  xs    : BitVec 6
  imm   : BitVec 32
  space : Space
  lr    : Bool
  ty    : Ty
deriving DecidableEq, Repr

/-- TMMA's fields (R262, R275): `m`, `n`, `k` are the cap fields, capacity minus 1. -/
structure Mma where
  bw    : Bool
  trb   : Bool
  tra   : Bool
  zeroc : Bool
  negb  : Bool
  nega  : Bool
  ws    : BitVec 2
  tc    : BitVec 4
  tb    : BitVec 4
  ta    : BitVec 4
  ys    : BitVec 6
  m     : BitVec 6
  n     : BitVec 6
  k     : BitVec 8
  q     : BitVec 2
  rnd   : Rmo
  bf16  : Bool
deriving DecidableEq, Repr

/-- A cause that UNASSIGNED_MAJOR raises (R266): a major that is unassigned, one in 0xF0-0xFF, or length code 0b11. -/
inductive BadWord where
  | unassigned | future | length
deriving DecidableEq, Repr

/-- Header fields of a message of R74 and its body (types 0x1 to 0x6). -/
structure MsgHdr where
  mseq  : BitVec 32
  src   : Nat          -- sending package
  spart : Nat          -- sending partition
  dpart : Nat          -- destination partition (PART of R15)
  hidx  : Nat
  hgen  : Nat
  addressed : Bool
  host  : Bool
  pidx  : Nat
  pgen  : Nat
  cause : BitVec 8
  fidx  : Nat
  alen  : Nat
  aseq  : Nat
  args  : List Byte
  rva   : DWord
  rlen  : Word
deriving DecidableEq, Repr

/-- A copy flit of types 0x8 to 0xB (R74). -/
structure CopyFlit where
  src   : Nat          -- requesting (0x8, 0xA) or answering (0x9, 0xB) package
  spart : Nat
  dpart : Nat
  va    : DWord
  bytes : Nat
  tag   : Nat
  core  : Nat
  off   : Nat
  status : BitVec 8
  data  : List Byte
deriving DecidableEq, Repr

/-- The rows of spec/opcode_table.json: the Kweyn-N instructions, the events that come from outside with what they bring, and the
events of the part's own agents. A Kweyn-N instruction acts for the split that State.cur names; an event of the part's own agents acts
for the queue, gang, core or table entry that State.cur names (the comment beside it says which number is which). -/
inductive Instr where
  -- Control flow (R267)
  | ill (c : Com)
  | nop (c : Com)
  | bra (c : Com) (off : BitVec 16)
  | brc (c : Com) (cond : Cond) (a : BitVec 8) (off : BitVec 16)
  | call (c : Com) (d : BitVec 8) (off : BitVec 16)
  | ret (c : Com) (a : BitVec 8)
  | callx (c : Com) (d : BitVec 8) (a : Src)
  | jmpx (c : Com) (a : Src)
  | vbr (c : Com) (a : Src) (off : BitVec 16)
  | join (c : Com)
  | vif (c : Com) (inv : Bool) (a : Src)
  | velse (c : Com)
  | vendif (c : Com)
  | vloop (c : Com)
  | vbreak (c : Com) (inv : Bool) (a : Src)
  | vcont (c : Com) (inv : Bool) (a : Src)
  | vendl (c : Com) (inv : Bool) (a : Src) (off : BitVec 16)
  | exit (c : Com)
  | flash (c : Com) (f : FlashSet)
  | spawn (c : Com) (a : Src) (b : BitVec 8)
  | ovlcall (c : Com) (d : BitVec 8) (id : BitVec 16) (woff : BitVec 16)
  | trap (c : Com) (imm : BitVec 16)
  | bkpt (c : Com) (imm : BitVec 16)
  -- Scalar (R269)
  | sadd (c : Com) (d a b : BitVec 8)
  | ssub (c : Com) (d a b : BitVec 8)
  | smul (c : Com) (d a b : BitVec 8)
  | smulh (c : Com) (u : Bool) (d a b : BitVec 8)
  | sdiv (c : Com) (u : Bool) (d a b : BitVec 8)
  | srem (c : Com) (u : Bool) (d a b : BitVec 8)
  | sand (c : Com) (d a b : BitVec 8)
  | sor (c : Com) (d a b : BitVec 8)
  | sxor (c : Com) (d a b : BitVec 8)
  | sshl (c : Com) (d a b : BitVec 8)
  | sshr (c : Com) (d a b : BitVec 8)
  | ssra (c : Com) (d a b : BitVec 8)
  | smin (c : Com) (u : Bool) (d a b : BitVec 8)
  | smax (c : Com) (u : Bool) (d a b : BitVec 8)
  | scmp (c : Com) (u : Bool) (cond : Cond) (d a b : BitVec 8)
  | ssel (c : Com) (d a b x : BitVec 8)
  | saddi (c : Com) (d a : BitVec 8) (imm : BitVec 32)
  | smovi (c : Com) (d : BitVec 8) (imm : BitVec 32)
  | smovhi (c : Com) (d : BitVec 8) (imm : BitVec 32)
  | sclz (c : Com) (d a : BitVec 8)
  | spopc (c : Com) (d a : BitVec 8)
  | sbfx (c : Com) (u : Bool) (d a : BitVec 8) (pos : BitVec 6) (len : BitVec 7)
  | sbfi (c : Com) (d a : BitVec 8) (pos : BitVec 6) (len : BitVec 7)
  | srdv (c : Com) (d : BitVec 8) (a : Src) (lane : BitVec 5) (pair : Bool)
  | svote (c : Com) (op : Vote) (d : BitVec 8) (a : Src)
  | sredv (c : Com) (op : ROp) (ty : Ty) (d : BitVec 8) (a : Src)
  -- Vector integer and lane (R270)
  | vadd (c : Com) (ty : Ty) (sat : Bool) (d : BitVec 8) (a b : Src)
  | vsub (c : Com) (ty : Ty) (sat : Bool) (d : BitVec 8) (a b : Src)
  | vmul (c : Com) (ty : Ty) (d : BitVec 8) (a b : Src)
  | vmulh (c : Com) (ty : Ty) (d : BitVec 8) (a b : Src)
  | vmad (c : Com) (ty : Ty) (d : BitVec 8) (a b x : Src)
  | vand (c : Com) (ty : Ty) (d : BitVec 8) (a b : Src)
  | vor (c : Com) (ty : Ty) (d : BitVec 8) (a b : Src)
  | vxor (c : Com) (ty : Ty) (d : BitVec 8) (a b : Src)
  | vshl (c : Com) (ty : Ty) (d : BitVec 8) (a b : Src)
  | vshr (c : Com) (ty : Ty) (d : BitVec 8) (a b : Src)
  | vsra (c : Com) (ty : Ty) (d : BitVec 8) (a b : Src)
  | vmin (c : Com) (ty : Ty) (d : BitVec 8) (a b : Src)
  | vmax (c : Com) (ty : Ty) (d : BitVec 8) (a b : Src)
  | vabs (c : Com) (ty : Ty) (sat : Bool) (d : BitVec 8) (a : Src)
  | vclz (c : Com) (ty : Ty) (d : BitVec 8) (a : Src)
  | vpopc (c : Com) (ty : Ty) (d : BitVec 8) (a : Src)
  | vbfx (c : Com) (ty : Ty) (d : BitVec 8) (a : Src) (pos : BitVec 5) (len : BitVec 6)
  | vbfi (c : Com) (d : BitVec 8) (a : Src) (pos : BitVec 5) (len : BitVec 6)
  | vsel (c : Com) (ty : Ty) (d : BitVec 8) (a b x : Src)
  | vcmp (c : Com) (cond : Cond) (ty : Ty) (d : BitVec 8) (a b : Src)
  | vaddi (c : Com) (ty : Ty) (d : BitVec 8) (a : Src) (imm : BitVec 32)
  | vmov (c : Com) (pair : Bool) (d : BitVec 8) (a : Src)
  | vmovi (c : Com) (d : BitVec 8) (imm : BitVec 32)
  | vshuf (c : Com) (pair : Bool) (d : BitVec 8) (a b : Src)
  | vscan (c : Com) (op : ROp) (ty : Ty) (excl : Bool) (d : BitVec 8) (a : Src)
  | vsegred (c : Com) (op : ROp) (ty : Ty) (d : BitVec 8) (a b : Src)
  | vlane (c : Com) (op : LaneOp) (d : BitVec 8)
  -- Vector floating point and VRNG (R271)
  | vfadd (c : Com) (r : Rmo) (d : BitVec 8) (a b : Src)
  | vfsub (c : Com) (r : Rmo) (d : BitVec 8) (a b : Src)
  | vfmul (c : Com) (r : Rmo) (d : BitVec 8) (a b : Src)
  | vfdiv (c : Com) (r : Rmo) (d : BitVec 8) (a b : Src)
  | vffma (c : Com) (r : Rmo) (negp negc : Bool) (d : BitVec 8) (a b x : Src)
  | vfsqrt (c : Com) (r : Rmo) (d : BitVec 8) (a : Src)
  | vfmin (c : Com) (d : BitVec 8) (a b : Src)
  | vfmax (c : Com) (d : BitVec 8) (a b : Src)
  | vfcmp (c : Com) (cond : Cond) (d : BitVec 8) (a b : Src)
  | vfrcp (c : Com) (d : BitVec 8) (a : Src)
  | vfrsq (c : Com) (d : BitVec 8) (a : Src)
  | vfexp2 (c : Com) (d : BitVec 8) (a : Src)
  | vflog2 (c : Com) (d : BitVec 8) (a : Src)
  | vfrnd (c : Com) (r : Rmo) (d : BitVec 8) (a : Src)
  | vfcvt (c : Com) (r : Rmo) (dty sty : Ty) (d : BitVec 8) (a : Src)
  | vfcls (c : Com) (d : BitVec 8) (a : Src)
  | vdadd (c : Com) (r : Rmo) (d : BitVec 8) (a b : Src)
  | vdsub (c : Com) (r : Rmo) (d : BitVec 8) (a b : Src)
  | vdmul (c : Com) (r : Rmo) (d : BitVec 8) (a b : Src)
  | vdfma (c : Com) (r : Rmo) (negp negc : Bool) (d : BitVec 8) (a b x : Src)
  | vdcvt (c : Com) (r : Rmo) (dty sty : Ty) (d : BitVec 8) (a : Src)
  | vdcmp (c : Com) (cond : Cond) (d : BitVec 8) (a b : Src)
  | vrng (c : Com) (d : BitVec 8) (a : Src) (b : BitVec 8)
  -- Memory (R272)
  | sld (c : Com) (ty : Ty) (m : MemMod) (d a : BitVec 8) (off : BitVec 32)
  | sst (c : Com) (ty : Ty) (m : MemMod) (a b : BitVec 8) (off : BitVec 32)
  | vld (c : Com) (ty : Ty) (m : MemMod) (d a : BitVec 8) (off : BitVec 32)
  | vst (c : Com) (ty : Ty) (m : MemMod) (a : BitVec 8) (b : Src) (off : BitVec 32)
  | vlds (c : Com) (ty : Ty) (m : MemMod) (d a x : BitVec 8) (off : BitVec 32)
  | vsts (c : Com) (ty : Ty) (m : MemMod) (a : BitVec 8) (b : Src) (x : BitVec 8) (off : BitVec 32)
  | vldx (c : Com) (ty : Ty) (m : MemMod) (d a : BitVec 8) (x : Src) (off : BitVec 32)
  | vstx (c : Com) (ty : Ty) (m : MemMod) (a : BitVec 8) (b x : Src) (off : BitVec 32)
  | vldt (c : Com) (ty : Ty) (space : Space) (d a x : BitVec 8) (off : BitVec 32)
  | waitl (c : Com) (n : BitVec 6)
  | pref (c : Com) (a : BitVec 8) (off : BitVec 32)
  | cflush (c : Com) (a : BitVec 8) (off : BitVec 32)
  -- Atomics and synchronisation (R273)
  | vatom (c : Com) (op : ROp) (ty : Ty) (m : MemMod) (nr : Bool) (d a : BitVec 8) (b x : Src) (off : BitVec 32)
  | vcas (c : Com) (ty : Ty) (m : MemMod) (d a : BitVec 8) (b x : Src) (off : BitVec 32)
  | satom (c : Com) (op : ROp) (ty : Ty) (m : MemMod) (nr : Bool) (d a b : BitVec 8) (off : BitVec 32)
  | scas (c : Com) (ty : Ty) (m : MemMod) (d a b : BitVec 8) (off : BitVec 32)
  | fence (c : Com) (sc : Scope)
  | bars (c : Com) (a : BitVec 8) (n : BitVec 4)
  | bara (c : Com) (n : BitVec 4)
  | barw (c : Com) (n : BitVec 4)
  | bart (c : Com) (n : BitVec 4)
  | clbar (c : Com) (op : ClOp) (n : BitVec 3)
  -- Copies (R274)
  | cpy (c : Com) (m : CpMod) (d a b x : BitVec 8) (cap : BitVec 32)
  | cpyt (c : Com) (m : CpMod) (d a b x : BitVec 8) (srec drec : BitVec 12)
  | cpyg (c : Com) (m : CpMod) (lw : BitVec 2) (d a b x : BitVec 8) (cap : BitVec 14) (list : BitVec 18)
  | cpyd (c : Com) (m : CpMod) (sty : Option Ty) (d a b x : BitVec 8) (cap : BitVec 24) (slot : BitVec 8)
  | cstage (c : Com)
  | lfence (c : Com)
  | lrec (c : Com) (a : Src) (r : BitVec 12)
  | ovld (c : Com) (m : CpMod) (d a b x : BitVec 8) (id : BitVec 16) (entry : BitVec 4)
  | cbld (c : Com) (m : CpMod) (d b : BitVec 8) (slot : BitVec 8)
  | ckpt (c : Com)
  -- Tiles, graph and weights (R275)
  | tld (c : Com) (d : BitVec 8) (ys : BitVec 6) (m n : BitVec 6) (t : TileMem)
  | tldv (c : Com) (d : BitVec 8) (ys : BitVec 6) (f : BitVec 8) (m n : BitVec 6) (ty : Ty)
  | tmma (c : Com) (d : BitVec 8) (m : Mma)
  | ttrn (c : Com) (d : BitVec 8) (ta : BitVec 4)
  | tcvt (c : Com) (d : BitVec 8) (ta : BitVec 4) (ty : Ty) (rnd : Rmo)
  | tforce (c : Com) (n : BitVec 4)
  | tbatch (c : Com) (d : BitVec 8)
  | twait (c : Com) (a : BitVec 8)
  | tst (c : Com) (ta : BitVec 4) (t : TileMem)
  | trdv (c : Com) (d : BitVec 8) (ta : BitVec 4) (row0 rows col0 cols : BitVec 6) (ty : Ty)
  | tdrop (c : Com) (n : BitVec 4)
  | tfence (c : Com)
  | wld (c : Com) (d : BitVec 8) (ws : BitVec 2) (xs ys : BitVec 6) (imm : BitVec 32) (ty : Ty) (sparse : Bool) (slot : BitVec 8)
  | wswap (c : Com) (n : BitVec 2)
  | tplan (c : Com) (d : BitVec 8) (w : BitVec 2)
  | wver (c : Com) (a : BitVec 8) (n : BitVec 2)
  -- Banks and sketches (R276)
  | bred (c : Com) (op : ROp) (ty : Ty) (a : BitVec 8) (b x : Src)
  | bxadd (c : Com) (d a : BitVec 8) (b x : Src)
  | bxrd (c : Com) (f64 : Bool) (msacq : Bool) (d a : BitVec 8) (b : Src)
  | bxclr (c : Com) (d a : BitVec 8) (b : Src)
  | baxpy (c : Com) (d a b x : BitVec 8) (n : BitVec 6) (cap : BitVec 32)
  | bewu (c : Com) (op : EwOp) (d a b x : BitVec 8) (n m : BitVec 6) (cap : BitVec 32)
  | ksinit (c : Com) (d a b : BitVec 8) (sigma dep w : BitVec 8)
  | ksupd (c : Com) (e : Option (BitVec 8)) (d a : BitVec 8) (b x : Src)
  | ksqry (c : Com) (msacq : Bool) (d a : BitVec 8) (b : Src)
  | ksadd (c : Com) (d a b : BitVec 8)
  -- Lockets and system (R277)
  | lkrel (c : Com) (a : BitVec 8)
  | lkstat (c : Com) (d a : BitVec 8)
  | invk (c : Com) (d a : BitVec 8) (b : Src) (fn : BitVec 16) (nb : BitVec 7)
  | invka (c : Com) (d a : BitVec 8) (b : Src) (fn : BitVec 16) (nb : BitVec 7)
  | lkwait (c : Com) (d a : BitVec 8)
  | lkget (c : Com) (sc : Scope) (dsp : Space) (d a b : BitVec 8)
  | sysrd (c : Com) (d : BitVec 8) (n : BitVec 8)
  | syswr (c : Com) (a : BitVec 8) (n : BitVec 8)
  | eret (c : Com)
  | fltrd (c : Com) (d : BitVec 8) (w : BitVec 4)
  | clasp (c : Com) (tag : BitVec 16)
  -- Words that are no instruction
  | unassignedMajor (w : BadWord)
  -- Package, management processor and security engine
  | coldReset
  | lifecycleFuse (retired : Bool) (seed : List Byte) (dbgHash : List Byte)
  | mpWatchdogReset
  | limranStart
  | ucieModuleTrainingFailure (m : Nat)
  | powerSample (mw : Nat)
  | junctionTemperature105 (above : Bool)
  | thermalTrip
  | claspTrigger (src : BitVec 16) (tag : BitVec 16)
  | snapshotLatch
  | snapshotRearm
  | uncorrectableCoreError (core : Nat)
  | poisonError (addr : Nat)
  | correctableError (setting : Nat) (slot : Option (Nat × Nat))
  | quarantinedCoreTest (core : Nat) (pass : Bool)
  | fencedSlotTest (core : Nat) (slot : Nat) (pass : Bool)
  -- Queues and the mapper
  | qassignWrite (q : Nat) (v : DWord)
  | queueEnable (f : Nat) (q : Nat)
  | queueDisable (f : Nat) (q : Nat) (qreset : Bool)
  | qreset (f : Nat) (q : Nat)
  | notifyWrite (f : Nat) (q : Nat) (v : DWord) (size : Nat) (off : Nat)
  -- Layout, context, function-level reset
  | layctlGo
  | contextSave (f : Nat)
  | contextRestore (f : Nat)
  | flr (f : Nat)
  | vfEnableClear
  -- Attestation and debug
  | attestationGo (f : Nat)
  | challengeRead (fresh : List Byte)
  | debugUnlock (token : List Byte)
  -- Registers with behaviour of their own
  | pkgidWrite (v : DWord)
  | rtbaseWrite (v : DWord)
  | tlbinvRange (f : Nat) (v : DWord)
  | tlbinvAll (f : Nat) (v : DWord)
  | gangctlResume (f : Nat) (v : DWord)
  | gangctlKill (f : Nat) (v : DWord)
  | pfqreplayRetry (f : Nat) (v : DWord)
  | pfqreplayCancel (f : Nat) (v : DWord)
  | registerWrite (f : Nat) (off : Nat) (v : DWord)
  | hostBar4Access (f : Nat) (va : DWord) (write : Bool) (data : List Byte)
  -- Torc links and messages
  | flitCrcFailure (link : Nat)
  | linkDown (link : Nat)
  | idleFlit (link : Nat) (src : Nat)
  | invocationRequest (m : MsgHdr)
  | forwardedInvocation (m : MsgHdr)
  | accept (m : MsgHdr)
  | resolve (m : MsgHdr)
  | tarnish (m : MsgHdr)
  | release (m : MsgHdr)
  | acknowledgement (src : Nat) (mseq : BitVec 32)
  | keepAlive (src : Nat)
  | copyReadRequest (m : CopyFlit)
  | copyReadData (m : CopyFlit)
  | copyWriteData (m : CopyFlit)
  | copyCompletion (m : CopyFlit)
  | managementFlit (src : Nat) (payload : List Byte)
  -- Rows added last
  | linkUp (link : Nat)
  | reservedFlitType (link : Nat) (vc : Nat) (ty : Nat)
  -- Events of the part's own agents, each of the subject that State.cur names
  -- Queues and the mapper
  | mapperBind
  | slotIdleFree            -- q: cur.g
  | slotBindLimit           -- q: cur.g
  -- Commands
  | launch                  -- q: cur.g
  | regionCreate            -- q: cur.g
  | regionSet               -- q: cur.g
  | regionDestroy           -- q: cur.g
  | invoke                  -- q: cur.g
  | capture                 -- q: cur.g
  | signal                  -- q: cur.g
  | signalWrite             -- q: cur.g
  | queueFence              -- q: cur.g
  | fencePoll               -- q: cur.g
  | usageWriteback          -- p: cur.g, r: cur.t
  -- Layout, context, function-level reset
  | scrubComplete           -- setting: cur.g
  | contextSaveComplete     -- f: cur.g
  | flrDrainEnd             -- f: cur.g
  | flrComplete             -- f: cur.g
  -- Attestation and debug
  | attestationReportDone   -- f: cur.g
  -- Registers with behaviour of their own
  | tlbinvComplete          -- p: cur.g
  -- Torc links and messages
  | messageRetransmit       -- peer: cur.g, mseq: cur.t
  | keepAliveSend           -- peer: cur.g
  | unreachableDeclaration  -- peer: cur.g
  | addressedInvocationStart-- p: cur.g, idx: cur.t
  -- Admission, placement, pre-emption
  | gangAdmission           -- g: cur.g
  | gangPlacement           -- g: cur.g
  | overlayLoadComplete     -- g: cur.g
  | translationComplete     -- p: cur.g, image: cur.t
  | drainToFitMark          -- g: cur.g
  | sliceExpiry             -- g: cur.g
  | preemptionTrigger       -- g: cur.g
  | runToFlashTimeout       -- g: cur.g
  | gangSave                -- g: cur.g
  | gangSaveComplete        -- g: cur.g
  | gangResume              -- g: cur.g
  | checkpoint              -- g: cur.g
  | spawnBinTimer           -- core: cur.g, bin: cur.t
  | spawnBinLaunch          -- core: cur.g, bin: cur.t
  | spawnStarvation         -- core: cur.g, bin: cur.t
  | strandRelease           -- g: cur.g, t: cur.t
  | gangExit                -- g: cur.g
  -- Engines of a core
  | loadReturn              -- core: cur.g, id: cur.t
  | granuleRefill           -- g: cur.g, granule: cur.t
  | copyDescriptorStart     -- core: cur.g, id: cur.t
  | faultQueueEntry         -- p: cur.g
  | copyComplete            -- core: cur.g, id: cur.t
  | bankRequest             -- core: cur.g, id: cur.t
  | bankCommandComplete     -- core: cur.g, id: cur.t
  | evaluationStart         -- core: cur.g
  | evaluationComplete      -- core: cur.g
  | weightLoadComplete      -- core: cur.g, g: cur.t, slot: cur.x
  | clusterBarrierArrival   -- grp: cur.g, n: cur.t
  | clusterBarrierRelease   -- grp: cur.g, n: cur.t
  | locketResultWrite       -- id: cur.g
  | captureStart            -- p: cur.g
  | capturePageCopy         -- p: cur.g
  -- Rows added last
  | opNotDefined            -- q: cur.g
  | contextRestoreComplete  -- f: cur.g
  | poolPageNotPresent      -- core: cur.g, id: cur.t
deriving DecidableEq, Repr

end Sys2Proof
end

