-- ==== Sys2Proof/WellFormed.lean ====
section
/-! DEFINITION. WellFormed.lean: which terms of Instr are instructions the encoding admits (R259-R277), check by check of R266: the
formats of a row, fields that must be zero (subcode 0x04), listed MINOR values (0x05), values that are not reserved (0x06), scopes
accepted (0x09). Events are well-formed with no check: nothing encodes them. -/

namespace Sys2Proof

/-- The types T of R270. -/
def Ty.isT : Ty → Bool
  | .i32 | .n32 | .i64 | .n64 => true
  | _ => false

/-- 64-bit types. -/
def Ty.is64 : Ty → Bool
  | .i64 | .n64 | .f64 => true
  | _ => false

/-- The OP and TYPE combinations of SREDV, VSCAN and VSEGRED (R269, R270). -/
def redOk (op : ROp) (ty : Ty) : Bool :=
  match op with
  | .xchg => false
  | .add | .min | .max => ty.isT || ty == .f32 || ty == .f64
  | _ => ty.isT

/-- The types of the other side of VFCVT, and with `.f32` of VDCVT (R271). -/
def Ty.isCvt : Ty → Bool
  | .i8 | .i16 | .i32 | .i64 | .n8 | .n16 | .n32 | .n64 | .f16 | .bf16 | .e4m3 | .e5m2 => true
  | _ => false

/-- Types of SLD and SST: .i8 to .n64, .f32, .f64 (R272). -/
def Ty.isScalarMem : Ty → Bool
  | .i8 | .i16 | .i32 | .i64 | .n8 | .n16 | .n32 | .n64 | .f32 | .f64 => true
  | _ => false

/-- TYPE 0x00-0x0D (R272). -/
def Ty.isVecMem : Ty → Bool
  | .mx8 | .mx4 | .cb4 => false
  | _ => true

/-- TYPE of a RAW tile image (R371). -/
def Ty.isTile : Ty → Bool
  | .f32 | .f16 | .bf16 | .e4m3 | .e5m2 => true
  | _ => false

/-- TYPE of WLD (R379). -/
def Ty.isWld : Ty → Bool
  | .f32 | .f16 | .bf16 | .e4m3 | .e5m2 | .mx8 | .mx4 | .cb4 => true
  | _ => false

def Cond.ordered : Cond → Bool
  | .un | .ord => false
  | _ => true

/-- The formats a row of the opcode map lists (R267-R277); none for an event. -/
def Instr.fmts : Instr → List Fmt
  | .ill _ | .nop _ => [.f64a, .f96a, .f128m]
  | .bra .. | .brc .. | .call .. | .vbr .. | .vendl .. | .trap .. | .bkpt .. | .sbfx .. | .sbfi .. | .srdv .. | .vbfx .. | .vbfi ..
  | .waitl .. | .fence .. | .bars .. | .bara .. | .barw .. | .bart .. | .clbar .. | .lrec .. | .tforce .. | .tdrop .. | .wswap ..
  | .tplan .. | .wver .. | .sysrd .. | .syswr .. | .fltrd .. | .clasp .. => [.f64i]
  | .ret .. | .callx .. | .jmpx .. | .join .. | .vif .. | .velse .. | .vendif .. | .vloop .. | .vbreak .. | .vcont .. | .exit ..
  | .spawn .. | .sadd .. | .ssub .. | .smul .. | .smulh .. | .sdiv .. | .srem .. | .sand .. | .sor .. | .sxor .. | .sshl .. | .sshr ..
  | .ssra .. | .smin .. | .smax .. | .scmp .. | .sclz .. | .spopc .. | .svote .. | .sredv .. | .vmul .. | .vmulh .. | .vand ..
  | .vor .. | .vxor .. | .vshl .. | .vshr .. | .vsra .. | .vmin .. | .vmax .. | .vclz .. | .vpopc .. | .vcmp .. | .vmov .. | .vshuf ..
  | .vsegred .. | .vlane .. | .vfmin .. | .vfmax .. | .vfcmp .. | .vfrcp .. | .vfrsq .. | .vfexp2 .. | .vflog2 .. | .vfcls ..
  | .vdcmp .. | .vrng .. | .cstage .. | .lfence .. | .ckpt .. | .tbatch .. | .twait .. | .tfence .. | .ksadd .. | .lkrel ..
  | .lkstat .. | .lkwait .. | .eret .. => [.f64a]
  | .vadd .. | .vsub .. | .vabs .. | .vscan .. | .vfadd .. | .vfsub .. | .vfmul .. | .vfdiv .. | .vfsqrt .. | .vfrnd .. | .vdadd ..
  | .vdsub .. | .vdmul .. => [.f64a, .f96a]
  | .ssel .. | .vmad .. | .vsel .. | .vffma .. | .vfcvt .. | .vdfma .. | .vdcvt .. | .bred .. | .bxadd .. | .bxrd .. | .bxclr ..
  | .ksupd .. | .ksqry .. | .lkget .. => [.f96a]
  | .saddi .. | .vaddi .. => [.f64i, .f96i]
  | .smovi .. | .smovhi .. | .vmovi .. | .ovlcall .. => [.f96i]
  | .sld .. | .sst .. | .vld .. | .vst .. | .vlds .. | .vsts .. | .vldx .. | .vstx .. | .vldt .. | .pref .. | .cflush .. | .vatom ..
  | .vcas .. | .satom .. | .scas .. => [.f96a, .f128m]
  | .flash .. | .cpy .. | .cpyt .. | .cpyg .. | .cpyd .. | .ovld .. | .cbld .. | .baxpy .. | .bewu .. | .ksinit .. | .invk ..
  | .invka .. => [.f128m]
  | .tld .. | .tldv .. | .tmma .. | .ttrn .. | .tcvt .. | .tst .. | .trdv .. | .wld .. => [.f128t]
  | _ => []

/-- The common fields; none for an event. -/
def Instr.com : Instr → Option Com
  | .ill c | .nop c | .join c | .velse c | .vendif c | .vloop c | .exit c | .cstage c | .lfence c | .ckpt c | .tfence c
  | .eret c => some c
  | .bra c _ | .ret c _ | .jmpx c _ | .flash c _ | .trap c _ | .bkpt c _ | .waitl c _ | .fence c _ | .bara c _ | .barw c _ | .bart c _
  | .tforce c _ | .tbatch c _ | .twait c _ | .tdrop c _ | .wswap c _ | .lkrel c _ | .clasp c _ => some c
  | .call c _ _ | .callx c _ _ | .vbr c _ _ | .vif c _ _ | .vbreak c _ _ | .vcont c _ _ | .spawn c _ _ | .smovi c _ _ | .smovhi c _ _
  | .sclz c _ _ | .spopc c _ _ | .vmovi c _ _ | .vlane c _ _ | .vfrcp c _ _ | .vfrsq c _ _ | .vfexp2 c _ _ | .vflog2 c _ _
  | .vfcls c _ _ | .pref c _ _ | .cflush c _ _ | .bars c _ _ | .clbar c _ _ | .lrec c _ _ | .tmma c _ _ | .ttrn c _ _ | .tst c _ _
  | .tplan c _ _ | .wver c _ _ | .lkstat c _ _ | .lkwait c _ _ | .sysrd c _ _ | .syswr c _ _ | .fltrd c _ _ => some c
  | .brc c _ _ _ | .vendl c _ _ _ | .ovlcall c _ _ _ | .sadd c _ _ _ | .ssub c _ _ _ | .smul c _ _ _ | .sand c _ _ _ | .sor c _ _ _
  | .sxor c _ _ _ | .sshl c _ _ _ | .sshr c _ _ _ | .ssra c _ _ _ | .saddi c _ _ _ | .svote c _ _ _ | .vmov c _ _ _ | .vclz c _ _ _
  | .vpopc c _ _ _ | .vfsqrt c _ _ _ | .vfmin c _ _ _ | .vfmax c _ _ _ | .vfrnd c _ _ _ | .vrng c _ _ _ | .bxclr c _ _ _
  | .ksadd c _ _ _ => some c
  | .smulh c _ _ _ _ | .sdiv c _ _ _ _ | .srem c _ _ _ _ | .smin c _ _ _ _ | .smax c _ _ _ _ | .ssel c _ _ _ _ | .srdv c _ _ _ _
  | .sredv c _ _ _ _ | .vmul c _ _ _ _ | .vmulh c _ _ _ _ | .vand c _ _ _ _ | .vor c _ _ _ _ | .vxor c _ _ _ _ | .vshl c _ _ _ _
  | .vshr c _ _ _ _ | .vsra c _ _ _ _ | .vmin c _ _ _ _ | .vmax c _ _ _ _ | .vabs c _ _ _ _ | .vbfi c _ _ _ _ | .vaddi c _ _ _ _
  | .vshuf c _ _ _ _ | .vfadd c _ _ _ _ | .vfsub c _ _ _ _ | .vfmul c _ _ _ _ | .vfdiv c _ _ _ _ | .vfcmp c _ _ _ _
  | .vdadd c _ _ _ _ | .vdsub c _ _ _ _ | .vdmul c _ _ _ _ | .vdcmp c _ _ _ _
  | .bxadd c _ _ _ _ | .ksqry c _ _ _ _ | .sbfi c _ _ _ _ | .cbld c _ _ _ _ | .tcvt c _ _ _ _ => some c
  | .vfcvt c _ _ _ _ _ | .vdcvt c _ _ _ _ _ | .scmp c _ _ _ _ _ | .sbfx c _ _ _ _ _ | .vadd c _ _ _ _ _ | .vsub c _ _ _ _ _ | .vmad c _ _ _ _ _ | .vbfx c _ _ _ _ _
  | .vsel c _ _ _ _ _ | .vcmp c _ _ _ _ _ | .vscan c _ _ _ _ _ | .vsegred c _ _ _ _ _ | .sld c _ _ _ _ _ | .sst c _ _ _ _ _
  | .vld c _ _ _ _ _ | .vst c _ _ _ _ _ | .bred c _ _ _ _ _ | .bxrd c _ _ _ _ _ | .ksupd c _ _ _ _ _ | .invk c _ _ _ _ _
  | .invka c _ _ _ _ _ | .lkget c _ _ _ _ _ | .tld c _ _ _ _ _ => some c
  | .vffma c _ _ _ _ _ _ _ | .vdfma c _ _ _ _ _ _ _ | .vcas c _ _ _ _ _ _ _ | .scas c _ _ _ _ _ _ | .vlds c _ _ _ _ _ _
  | .vsts c _ _ _ _ _ _ | .vldx c _ _ _ _ _ _ | .vstx c _ _ _ _ _ _ | .vldt c _ _ _ _ _ _ | .cpy c _ _ _ _ _ _
  | .baxpy c _ _ _ _ _ _ | .ksinit c _ _ _ _ _ _ | .tldv c _ _ _ _ _ _ => some c
  | .satom c _ _ _ _ _ _ _ _ | .vatom c _ _ _ _ _ _ _ _ _ | .cpyt c _ _ _ _ _ _ _ | .cpyg c _ _ _ _ _ _ _ _
  | .cpyd c _ _ _ _ _ _ _ _ | .ovld c _ _ _ _ _ _ _ | .trdv c _ _ _ _ _ _ _ | .wld c _ _ _ _ _ _ _ _ | .bewu c _ _ _ _ _ _ _ _ =>
    some c
  | _ => none

/-- A form without a field leaves what the field would say at its default (R261, R265, R269, R341). -/
def Instr.fmtFit : Instr → Bool
  | .saddi c _ _ imm | .vaddi c _ _ _ imm => c.fmt != .f64i || (imm == (imm.truncate 16).signExtend 32)
  | .vadd c _ sat _ _ _ | .vsub c _ sat _ _ _ | .vabs c _ sat _ _ => c.fmt != .f64a || !sat
  | .vscan c _ _ ex _ _ => c.fmt != .f64a || !ex
  | .vfadd c r _ _ _ | .vfsub c r _ _ _ | .vfmul c r _ _ _ | .vfdiv c r _ _ _ | .vdadd c r _ _ _ | .vdsub c r _ _ _
  | .vdmul c r _ _ _ => c.fmt != .f64a || r == .cr
  | .vfsqrt c r _ _ | .vfrnd c r _ _ => c.fmt != .f64a || r == .cr
  | .sld c _ _ _ _ o | .sst c _ _ _ _ o | .vld c _ _ _ _ o | .vst c _ _ _ _ o | .vlds c _ _ _ _ _ o | .vsts c _ _ _ _ _ o
  | .vldx c _ _ _ _ _ o | .vstx c _ _ _ _ _ o | .vldt c _ _ _ _ _ o | .pref c _ o | .cflush c _ o | .vatom c _ _ _ _ _ _ _ _ o
  | .vcas c _ _ _ _ _ _ o | .satom c _ _ _ _ _ _ _ o | .scas c _ _ _ _ _ o => c.fmt != .f96a || o == 0
  | _ => true

/-- Fields that must be zero: bits [7:4] of a tile destination, and fields that another field's value rules out (subcode 0x04: R263, R369,
R373, R388). -/
def Instr.zeroOk : Instr → Bool
  | .tmma _ d f => decide (d.toNat < 16) && (!f.bw || f.tb == 0) && (f.bw || f.ws == 0) && (!f.zeroc || f.tc == 0)
  | .tld _ d _ _ _ t => decide (d.toNat < 16) && (!t.lr || (decide (t.imm.toNat < 4096) && t.space == .g))
  | .tst _ _ t => !t.lr || (decide (t.imm.toNat < 4096) && t.space == .g)
  | .tldv _ d _ _ _ _ _ | .ttrn _ d _ | .tcvt _ d _ _ _ => decide (d.toNat < 16)
  | .bewu _ op _ a _ x _ m _ =>
    (match op with
     | .mul => m == 0 && x == 0
     | .clamp => a == 0
     | .moment => a == 0 && x == 0
     | .scadd => true)
  | _ => true

/-- MINOR values the row lists (subcode 0x05). -/
def Instr.minorOk : Instr → Bool
  | .brc _ c _ _ | .scmp _ _ c _ _ _ => c.ordered
  | .vcmp _ c ty _ _ _ => c.ordered && ty.isT
  | .sredv _ op ty _ _ | .vscan _ op ty _ _ _ | .vsegred _ op ty _ _ _ => redOk op ty
  | .vadd _ ty _ _ _ _ | .vsub _ ty _ _ _ _ => ty.isT
  | .vmul _ ty _ _ _ | .vmulh _ ty _ _ _ | .vand _ ty _ _ _ | .vor _ ty _ _ _ | .vxor _ ty _ _ _ | .vshl _ ty _ _ _ | .vshr _ ty _ _ _
  | .vsra _ ty _ _ _ | .vmin _ ty _ _ _ | .vmax _ ty _ _ _ => ty.isT
  | .vmad _ ty _ _ _ _ => ty.isT
  | .vclz _ ty _ _ | .vpopc _ ty _ _ => ty.isT
  | .vabs _ ty _ _ _ => ty == .i32 || ty == .i64
  | .vbfx _ ty _ _ _ _ | .vaddi _ ty _ _ _ => ty == .i32 || ty == .n32
  | .vsel _ ty _ _ _ _ => ty.isT || ty == .f32
  | .vfcvt _ _ d s _ _ => (d == .f32 && s.isCvt) || (s == .f32 && d.isCvt)
  | .vdcvt _ _ d s _ _ => (d == .f64 && (s.isCvt || s == .f32)) || (s == .f64 && (d.isCvt || d == .f32))
  | .sld _ ty _ _ _ _ | .sst _ ty _ _ _ _ => ty.isScalarMem
  | .vld _ ty _ _ _ _ | .vst _ ty _ _ _ _ => ty.isVecMem
  | .vlds _ ty _ _ _ _ _ | .vsts _ ty _ _ _ _ _ => ty.isVecMem
  | .vldx _ ty _ _ _ _ _ | .vstx _ ty _ _ _ _ _ => ty.isVecMem
  | .vldt _ ty _ _ _ _ _ => ty == .i32 || ty == .n32 || ty == .f32
  | .vatom _ op ty _ _ _ _ _ _ _ => ty.isT || (ty == .f32 && op == .xchg)
  | .vcas _ ty _ _ _ _ _ _ => ty.isT
  | .satom _ _ ty _ _ _ _ _ _ => ty.isT
  | .scas _ ty _ _ _ _ _ => ty.isT
  | .bred _ op ty _ _ _ => op != .xchg && (ty.isT || (ty == .f32 && (op == .min || op == .max)))
  | .cpyd _ _ sty _ _ _ _ _ _ =>
    (match sty with
     | none => true
     | some t => t == .f16 || t == .e4m3 || t == .e5m2 || t == .cb4)
  | _ => true

/-- ORD values of a load or of a store (R265). -/
def MOrd.load (o : MOrd) : Bool := o == .plain || o == .acq
def MOrd.store (o : MOrd) : Bool := o == .plain || o == .rel

/-- Values that are not reserved (subcode 0x06). -/
def Instr.valueOk : Instr → Bool
  | .sbfx _ _ _ _ p l | .sbfi _ _ _ p l => decide (l.toNat ≠ 0 ∧ p.toNat + l.toNat ≤ 64)
  | .vbfx _ _ _ _ p l | .vbfi _ _ _ p l => decide (l.toNat ≠ 0 ∧ p.toNat + l.toNat ≤ 32)
  | .sld _ _ m _ _ _ | .vld _ _ m _ _ _ | .vlds _ _ m _ _ _ _ | .vldx _ _ m _ _ _ _ => m.ord.load
  | .sst _ _ m _ _ _ | .vst _ _ m _ _ _ | .vsts _ _ m _ _ _ _ | .vstx _ _ m _ _ _ _ => m.ord.store
  | .flash _ f =>
    decide (f.v0.count.toNat + f.v1.count.toNat ≤ 16 ∧ f.s0.count.toNat + f.s1.count.toNat ≤ 8 ∧
      f.s0.count.toNat < 16 ∧ f.s1.count.toNat < 16 ∧ f.s0.first.toNat < 64 ∧ f.s1.first.toNat < 64)
  | .cpy _ m _ _ _ _ cap => decide (cap ≠ 0) && (m.nben || m.nb == 0)
  | .cpyt _ m _ _ _ _ _ _ => m.dsp == .g && m.ssp == .g && (m.nben || m.nb == 0)
  | .cpyg _ m _ _ _ _ _ cap _ => decide (cap ≠ 0) && (m.nben || m.nb == 0)
  | .cpyd _ m sty _ _ _ _ cap slot => decide (cap ≠ 0) && (m.nben || m.nb == 0) && (slot == 0 || sty == some .cb4)
  | .ovld _ m _ _ _ _ _ _ => m.dsp == .g && (m.ssp == .g || m.ssp == .sp) && !m.nben && m.nb == 0
  | .cbld _ m _ _ _ => m.dsp == .g && (m.ssp == .g || m.ssp == .sp) && !m.nben && m.nb == 0
  | .baxpy _ _ _ _ _ _ cap => decide (1 ≤ cap.toNat ∧ cap.toNat ≤ 2 ^ 24)
  | .bewu _ _ _ _ _ _ _ _ cap => decide (1 ≤ cap.toNat ∧ cap.toNat ≤ 2 ^ 24)
  | .tld _ _ _ _ _ t | .tst _ _ t => (t.space == .g || t.space == .sp) && t.ty.isTile
  | .tldv _ _ _ _ _ _ ty => ty == .f32 || ty == .bf16
  | .tmma _ _ f => (f.q == 0 || (f.bw && f.trb)) && (!(f.bw && f.trb) || decide (f.k.toNat ≤ 63)) && f.rnd != .cr
  | .tcvt _ _ _ ty rnd => (ty == .bf16 || ty == .f16 || ty == .e4m3 || ty == .e5m2) && rnd != .cr
  | .trdv _ _ _ r0 rs c0 cs ty =>
    decide (r0.toNat + rs.toNat + 1 ≤ 64 ∧ c0.toNat + cs.toNat + 1 ≤ 64) && (ty == .f32 || ty == .bf16)
  | .wld _ _ _ _ _ _ ty sp slot => ty.isWld && !(sp && (ty == .f32 || ty == .f16)) && (slot == 0 || ty == .cb4)
  | .invk _ _ _ _ _ nb | .invka _ _ _ _ _ nb => decide (nb.toNat ≤ 64)
  | _ => true

/-- ORD 0 takes SCOPE 0; SCOPE 6 only on an acquiring `.bk` load (R265). -/
def memScope (load : Bool) (m : MemMod) : Bool :=
  (m.ord != .plain || m.scope == .gang) && (m.scope != .ms || (load && m.ord == .acq && m.space == .bk))

/-- Scopes the instruction accepts (subcode 0x09). -/
def Instr.scopeOk : Instr → Bool
  | .sld _ _ m _ _ _ | .vld _ _ m _ _ _ | .vlds _ _ m _ _ _ _ | .vldx _ _ m _ _ _ _ => memScope true m
  | .sst _ _ m _ _ _ | .vst _ _ m _ _ _ | .vsts _ _ m _ _ _ _ | .vstx _ _ m _ _ _ _ => memScope false m
  | .vatom _ _ _ m _ _ _ _ _ _ | .vcas _ _ m _ _ _ _ _ | .satom _ _ _ m _ _ _ _ _ | .scas _ _ m _ _ _ _ => memScope false m
  | .cpy _ m _ _ _ _ _ | .cpyt _ m _ _ _ _ _ _ | .cpyg _ m _ _ _ _ _ _ _ | .cpyd _ m _ _ _ _ _ _ _ | .ovld _ m _ _ _ _ _ _
  | .cbld _ m _ _ _ => m.scope != .ms
  | .lkget _ sc _ _ _ _ => sc != .ms
  | _ => true

/-- Well-formed: a term that some word of the encoding stands for, or an event. -/
def Instr.wf (i : Instr) : Bool :=
  (match i.com with
   | some c => i.fmts.contains c.fmt
   | none => true) && i.fmtFit && i.zeroOk && i.minorOk && i.valueOk && i.scopeOk

abbrev WellFormed (i : Instr) : Prop := i.wf = true

end Sys2Proof
end

