-- ==== Sys2Proof/Decode.lean ====
section
/-! DEFINITION. Decode.lean: the decoder of R259-R277 in the order of R266, total on any bytes and rejecting by name, and the encoder
written from the same tables. -/

namespace Sys2Proof

/-- Why a word is no instruction, in the order of R266. LENGTH, FUTURE and unassigned majors decode to `unassignedMajor`, the row of the
table that stands for them. -/
inductive DecErr where
  | crossesGroup | formatNotAdmitted | mustBeZero | minorNotListed | reservedValue | patternNotAccepted | scopeNotAccepted | patternCode
deriving DecidableEq, Repr

/-- The fields of R260 and R261 as they lie in 128 bits; those a shorter word lacks are zero. F64I has IMM16 in `b`, F96I has MOD16 in
`b` and IMM32 in `m` and `c`, F128T has R262 in `b` and `a` and MOD32 in `m` and `c`. -/
structure Raw where
  len   : BitVec 2
  major : BitVec 8
  stall : BitVec 4
  yld   : BitVec 1
  b15   : BitVec 1
  dst   : BitVec 8
  minor : BitVec 8
  a     : BitVec 16
  b     : BitVec 16
  c     : BitVec 16
  m     : BitVec 16
  imm   : BitVec 32
deriving DecidableEq, Repr

/-- The 128 bits of the fields. -/
def Raw.pack (r : Raw) : BitVec 128 :=
  r.imm ++ r.m ++ r.c ++ r.b ++ r.a ++ r.minor ++ r.dst ++ r.b15 ++ r.yld ++ r.stall ++ r.major ++ r.len

/-- The fields of 128 bits. -/
def Raw.unpack (w : BitVec 128) : Raw :=
  { len := w.extractLsb' 0 2, major := w.extractLsb' 2 8, stall := w.extractLsb' 10 4, yld := w.extractLsb' 14 1,
    b15 := w.extractLsb' 15 1, dst := w.extractLsb' 16 8, minor := w.extractLsb' 24 8, a := w.extractLsb' 32 16,
    b := w.extractLsb' 48 16, c := w.extractLsb' 64 16, m := w.extractLsb' 80 16, imm := w.extractLsb' 96 32 }

/-- Bytes of a length code (R259). -/
def lenBytes (l : BitVec 2) : Nat := if l = 0 then 8 else if l = 1 then 12 else 16

def Fmt.len : Fmt → BitVec 2
  | .f64a | .f64i => 0
  | .f96a | .f96i => 1
  | .f128m | .f128t => 2

/-! ## Codes of the tables of R163, R248, R264 and R265 -/

def Ty.code : Ty → BitVec 5
  | .i8 => 0 | .i16 => 1 | .i32 => 2 | .i64 => 3 | .n8 => 4 | .n16 => 5 | .n32 => 6 | .n64 => 7 | .f64 => 8 | .f32 => 9 | .f16 => 10
  | .bf16 => 11 | .e4m3 => 12 | .e5m2 => 13 | .mx8 => 14 | .mx4 => 15 | .cb4 => 16

def tyOf (x : BitVec 5) : Option Ty :=
  match x.toNat with
  | 0 => some .i8 | 1 => some .i16 | 2 => some .i32 | 3 => some .i64 | 4 => some .n8 | 5 => some .n16 | 6 => some .n32
  | 7 => some .n64 | 8 => some .f64 | 9 => some .f32 | 10 => some .f16 | 11 => some .bf16 | 12 => some .e4m3 | 13 => some .e5m2
  | 14 => some .mx8 | 15 => some .mx4 | 16 => some .cb4 | _ => none

def Cond.code : Cond → BitVec 3
  | .eq => 0 | .ne => 1 | .lt => 2 | .le => 3 | .gt => 4 | .ge => 5 | .un => 6 | .ord => 7

def condOf (x : BitVec 3) : Cond :=
  match x.toNat with
  | 0 => .eq | 1 => .ne | 2 => .lt | 3 => .le | 4 => .gt | 5 => .ge | 6 => .un | _ => .ord

def ROp.code : ROp → BitVec 3
  | .add => 0 | .min => 1 | .max => 2 | .and => 3 | .or => 4 | .xor => 5 | .xchg => 6

def opOf (x : BitVec 3) : Option ROp :=
  match x.toNat with
  | 0 => some .add | 1 => some .min | 2 => some .max | 3 => some .and | 4 => some .or | 5 => some .xor | 6 => some .xchg | _ => none

def Rmo.code : Rmo → BitVec 3
  | .cr => 0 | .rne => 1 | .rz => 2 | .ru => 3 | .rd => 4 | .rs => 5

def rmoOf (x : BitVec 3) : Option Rmo :=
  match x.toNat with
  | 0 => some .cr | 1 => some .rne | 2 => some .rz | 3 => some .ru | 4 => some .rd | 5 => some .rs | _ => none

/-- Rounding codes of TMMA and TCVT (R275): 0 RNE to 4 RS. -/
def Rmo.tcode : Rmo → BitVec 3
  | .cr | .rne => 0 | .rz => 1 | .ru => 2 | .rd => 3 | .rs => 4

def trndOf (x : BitVec 3) : Option Rmo :=
  match x.toNat with
  | 0 => some .rne | 1 => some .rz | 2 => some .ru | 3 => some .rd | 4 => some .rs | _ => none

def Space.code : Space → BitVec 3
  | .g => 0 | .sp => 1 | .cl => 2 | .bk => 3

def spaceOf (x : BitVec 3) : Option Space :=
  match x.toNat with
  | 0 => some .g | 1 => some .sp | 2 => some .cl | 3 => some .bk | _ => none

def Scope.code : Scope → BitVec 3
  | .gang => 0 | .core => 1 | .cluster => 2 | .part => 3 | .dev => 4 | .sys => 5 | .ms => 6

def scopeOf (x : BitVec 3) : Option Scope :=
  match x.toNat with
  | 0 => some .gang | 1 => some .core | 2 => some .cluster | 3 => some .part | 4 => some .dev | 5 => some .sys | 6 => some .ms
  | _ => none

def MOrd.code : MOrd → BitVec 2
  | .plain => 0 | .acq => 1 | .rel => 2 | .acqrel => 3

def ordOf (x : BitVec 2) : MOrd :=
  match x.toNat with
  | 0 => .plain | 1 => .acq | 2 => .rel | _ => .acqrel

def Vote.code : Vote → BitVec 2
  | .any => 0 | .all => 1 | .ballot => 2 | .count => 3

def voteOf (x : BitVec 2) : Vote :=
  match x.toNat with
  | 0 => .any | 1 => .all | 2 => .ballot | _ => .count

def EwOp.code : EwOp → BitVec 2
  | .scadd => 0 | .clamp => 1 | .mul => 2 | .moment => 3

def ewOf (x : BitVec 2) : EwOp :=
  match x.toNat with
  | 0 => .scadd | 1 => .clamp | 2 => .mul | _ => .moment

def LaneOp.code : LaneOp → BitVec 8
  | .laneid => 0 | .mask => 1 | .rank => 2

def laneOpOf (x : BitVec 8) : Option LaneOp :=
  if x = 0 then some .laneid else if x = 1 then some .mask else if x = 2 then some .rank else none

def ClOp.code : ClOp → BitVec 8
  | .arrive => 0 | .wait => 1 | .both => 2

def clOpOf (x : BitVec 8) : Option ClOp :=
  if x = 0 then some .arrive else if x = 1 then some .wait else if x = 2 then some .both else none

/-- AMT and code of a pattern (R163). -/
def Pat.amt : Pat → BitVec 5
  | .same | .scalar => 0
  | .rot n | .bc n => BitVec.ofNat 5 n.val
  | .bf n => BitVec.ofNat 5 n.val
  | .mir n => BitVec.ofNat 5 (n.val + 1)

def Pat.code : Pat → BitVec 3
  | .same => 0 | .rot _ => 1 | .bc _ => 2 | .bf _ => 3 | .mir _ => 4 | .scalar => 7

/-- The pattern of a code and an AMT; none outside the limits of R163. -/
def patOf (code : BitVec 3) (amt : BitVec 5) : Option Pat :=
  match code.toNat with
  | 0 => if amt = 0 then some .same else none
  | 1 => some (.rot ⟨amt.toNat, amt.isLt⟩)
  | 2 => some (.bc ⟨amt.toNat, amt.isLt⟩)
  | 3 => if h : amt.toNat < 5 then some (.bf ⟨amt.toNat, h⟩) else none
  | 4 => if h : 1 ≤ amt.toNat ∧ amt.toNat ≤ 5 then some (.mir ⟨amt.toNat - 1, by omega⟩) else none
  | 7 => if amt = 0 then some .scalar else none
  | _ => none

/-- An operand field: [7:0] register, [10:8] pattern, [15:11] AMT. -/
def Src.enc (s : Src) : BitVec 16 := s.pat.amt ++ s.pat.code ++ s.reg

def fieldPat (f : BitVec 16) : Option Pat := patOf (f.extractLsb' 8 3) (f.extractLsb' 11 5)

def fieldReg (f : BitVec 16) : BitVec 8 := f.extractLsb' 0 8

def srcOf (f : BitVec 16) : Src := { pat := (fieldPat f).getD .same, reg := fieldReg f }

/-- A class s field: pattern 0b111, AMT 0. -/
def encS (reg : BitVec 8) : BitVec 16 := 0x07#8 ++ reg

/-- A class vr field: pattern 0b000, AMT 0. -/
def encVr (reg : BitVec 8) : BitVec 16 := 0x00#8 ++ reg

/-- Position classes that take patterns (R263); class p is v with pairs. -/
inductive Cls where
  | v | s | vr
deriving DecidableEq, Repr

def Cls.accepts (k : Cls) (p : Pat) : Bool :=
  match k with
  | .v => true
  | .s => p == .scalar
  | .vr => p == .same

/-- MINOR of a typed row: cat(OP, TYPE). -/
def typed (op : BitVec 3) (ty : Ty) : BitVec 8 := op ++ ty.code

def minorTy (x : BitVec 8) : Option Ty := tyOf (x.extractLsb' 0 5)
def minorOp (x : BitVec 8) : BitVec 3 := x.extractLsb' 5 3

/-- MOD16 in the MEM layout. -/
def MemMod.enc (m : MemMod) (nr : Bool) : BitVec 16 :=
  0#7 ++ BitVec.ofBool nr ++ m.ord.code ++ m.scope.code ++ m.space.code

def memOf (x : BitVec 16) : MemMod :=
  { space := (spaceOf (x.extractLsb' 0 3)).getD .g, scope := (scopeOf (x.extractLsb' 3 3)).getD .gang, ord := ordOf (x.extractLsb' 6 2) }

/-- MEM values that are not reserved; NR only where the row lists it. -/
def memRaw (nr : Bool) (x : BitVec 16) : Bool :=
  (spaceOf (x.extractLsb' 0 3)).isSome && x.extractLsb' 9 7 == 0#7 && (nr || x.extractLsb' 8 1 == 0#1)

def memScopeRaw (x : BitVec 16) : Bool := (scopeOf (x.extractLsb' 3 3)).isSome

/-- MOD16 in the CP layout. -/
def CpMod.enc (m : CpMod) : BitVec 16 :=
  0#2 ++ BitVec.ofBool m.nben ++ m.nb ++ m.scope.code ++ m.ssp.code ++ m.dsp.code

def cpOf (x : BitVec 16) : CpMod :=
  { dsp := (spaceOf (x.extractLsb' 0 3)).getD .g, ssp := (spaceOf (x.extractLsb' 3 3)).getD .g,
    scope := (scopeOf (x.extractLsb' 6 3)).getD .gang, nb := x.extractLsb' 9 4, nben := x.extractLsb' 13 1 == 1#1 }

def cpRaw (x : BitVec 16) : Bool :=
  (spaceOf (x.extractLsb' 0 3)).isSome && (spaceOf (x.extractLsb' 3 3)).isSome && x.extractLsb' 14 2 == 0#2

def cpScopeRaw (x : BitVec 16) : Bool := (scopeOf (x.extractLsb' 6 3)).isSome

/-! ## The opcode map: formats by major -/

/-- Formats that a major admits (R267-R277); none for an unassigned major. -/
def majorFmts (m : Nat) : Option (List Fmt) :=
  if m ≤ 0x01 then some [.f64a, .f96a, .f128m]
  else if m ≤ 0x04 ∨ m = 0x08 ∨ m = 0x10 ∨ m = 0x15 ∨ m = 0x16 then some [.f64i]
  else if m = 0x12 then some [.f128m]
  else if m = 0x14 then some [.f96i]
  else if m ≤ 0x13 then some [.f64a]
  else if m < 0x20 then none
  else if m ≤ 0x2E then some [.f64a]
  else if m = 0x2F then some [.f96a]
  else if m = 0x30 then some [.f64i, .f96i]
  else if m ≤ 0x32 then some [.f96i]
  else if m ≤ 0x34 ∨ m = 0x38 ∨ m = 0x39 then some [.f64a]
  else if m ≤ 0x37 then some [.f64i]
  else if m < 0x40 then none
  else if m ≤ 0x41 ∨ m = 0x4D ∨ m = 0x58 then some [.f64a, .f96a]
  else if m = 0x44 ∨ m = 0x52 then some [.f96a]
  else if m = 0x50 ∨ m = 0x51 then some [.f64i]
  else if m = 0x54 then some [.f64i, .f96i]
  else if m = 0x56 then some [.f96i]
  else if m ≤ 0x5A then some [.f64a]
  else if m < 0x60 then none
  else if m ≤ 0x62 ∨ m = 0x69 ∨ m = 0x6A ∨ m = 0x6E then some [.f64a, .f96a]
  else if m = 0x63 ∨ m = 0x6D then some [.f96a]
  else if m ≤ 0x6F then some [.f64a]
  else if m ≤ 0x72 then some [.f64a, .f96a]
  else if m ≤ 0x74 then some [.f96a]
  else if m ≤ 0x76 then some [.f64a]
  else if m < 0x80 then none
  else if m ≤ 0x88 then some [.f96a, .f128m]
  else if m = 0x89 then some [.f64i]
  else if m ≤ 0x8B then some [.f96a, .f128m]
  else if m < 0xA0 then none
  else if m ≤ 0xA3 then some [.f96a, .f128m]
  else if m ≤ 0xA9 then some [.f64i]
  else if m < 0xB0 then none
  else if m ≤ 0xB3 ∨ m = 0xB7 ∨ m = 0xB8 then some [.f128m]
  else if m = 0xB5 then some [.f64i]
  else if m ≤ 0xB9 then some [.f64a]
  else if m < 0xC0 then none
  else if m ≤ 0xC4 ∨ m = 0xC8 ∨ m = 0xC9 ∨ m = 0xCC then some [.f128t]
  else if m = 0xC6 ∨ m = 0xC7 ∨ m = 0xCB then some [.f64a]
  else if m ≤ 0xCF then some [.f64i]
  else if m ≤ 0xD3 ∨ m = 0xD7 ∨ m = 0xD8 then some [.f96a]
  else if m ≤ 0xD6 then some [.f128m]
  else if m ≤ 0xDB ∨ m = 0xDE ∨ m = 0xE2 then some [.f64a]
  else if m ≤ 0xDD then some [.f128m]
  else if m = 0xDF then some [.f96a]
  else if m ≤ 0xE4 then some [.f64i]
  else none

/-- What one row of the opcode map makes of the fields: whether each check on the fields holds (must be zero, MINOR listed, values not
reserved, scope assigned), the positions that take patterns, and the instruction. -/
structure Arm where
  zero  : Bool := true
  minor : Bool := true
  value : Bool := true
  scope : Bool := true
  pats  : List (Cls × BitVec 16) := []
  ins   : Instr

/-- Everything above SRCA zero; above SRCB; above SRCC. -/
def Raw.za (r : Raw) : Bool := r.b == 0 && r.c == 0 && r.m == 0 && r.imm == 0
def Raw.zb (r : Raw) : Bool := r.c == 0 && r.m == 0 && r.imm == 0

/-- IMM32 of F96I, MOD32 of F128T. -/
def Raw.hi32 (r : Raw) : BitVec 32 := r.m ++ r.c

/-- Bits [63:32] of F128T. -/
def Raw.t32 (r : Raw) : BitVec 32 := r.b ++ r.a

def Raw.com (r : Raw) (f : Fmt) : Com := { fmt := f, stall := r.stall, yld := r.yld == 1#1 }

def inv (r : Raw) : Bool := r.minor == 1
def bit0 (x : BitVec 8) : Bool := x == 0 || x == 1

/-- Control rows (R267, R268). -/
def armControl (m : Nat) (f : Fmt) (r : Raw) : Arm :=
  let c := r.com f
  let none_ := r.dst == 0 && r.a == 0 && r.za
  let m0 := r.minor == 0
  match m with
  | 0x00 => { ins := .ill c }
  | 0x01 => { zero := none_ && m0, ins := .nop c }
  | 0x02 => { zero := r.dst == 0 && r.a == 0, minor := m0, ins := .bra c r.b }
  | 0x03 =>
    { zero := r.dst == 0, minor := r.minor.extractLsb' 3 5 == 0#5, pats := [(.s, r.a)],
      ins := .brc c (condOf (r.minor.extractLsb' 0 3)) (fieldReg r.a) r.b }
  | 0x04 => { zero := r.a == 0, minor := m0, ins := .call c r.dst r.b }
  | 0x05 => { zero := r.dst == 0 && r.za, minor := m0, pats := [(.s, r.a)], ins := .ret c (fieldReg r.a) }
  | 0x06 => { zero := r.za, minor := m0, pats := [(.v, r.a)], ins := .callx c r.dst (srcOf r.a) }
  | 0x07 => { zero := r.dst == 0 && r.za, minor := m0, pats := [(.v, r.a)], ins := .jmpx c (srcOf r.a) }
  | 0x08 => { zero := r.dst == 0, minor := m0, pats := [(.v, r.a)], ins := .vbr c (srcOf r.a) r.b }
  | 0x09 => { zero := none_, minor := m0, ins := .join c }
  | 0x0A => { zero := r.dst == 0 && r.za, minor := bit0 r.minor, pats := [(.v, r.a)], ins := .vif c (inv r) (srcOf r.a) }
  | 0x0B => { zero := none_, minor := m0, ins := .velse c }
  | 0x0C => { zero := none_, minor := m0, ins := .vendif c }
  | 0x0D => { zero := none_, minor := m0, ins := .vloop c }
  | 0x0E => { zero := r.dst == 0 && r.za, minor := bit0 r.minor, pats := [(.v, r.a)], ins := .vbreak c (inv r) (srcOf r.a) }
  | 0x0F => { zero := r.dst == 0 && r.za, minor := bit0 r.minor, pats := [(.v, r.a)], ins := .vcont c (inv r) (srcOf r.a) }
  | 0x10 => { zero := r.dst == 0, minor := bit0 r.minor, pats := [(.v, r.a)], ins := .vendl c (inv r) (srcOf r.a) r.b }
  | 0x11 => { zero := none_, minor := m0, ins := .exit c }
  | 0x12 =>
    { zero := r.dst == 0 && r.imm.extractLsb' 10 22 == 0#22 && r.m.extractLsb' 10 6 == 0#6 && r.b.extractLsb' 13 3 == 0#3 &&
        r.a.extractLsb' 13 3 == 0#3,
      minor := m0,
      ins := .flash c
        { v0 := { count := r.a.extractLsb' 8 5, first := r.a.extractLsb' 0 8 },
          v1 := { count := r.b.extractLsb' 8 5, first := r.b.extractLsb' 0 8 },
          s0 := { count := (r.m.extractLsb' 6 4).zeroExtend 5, first := (r.m.extractLsb' 0 6).zeroExtend 8 },
          s1 := { count := (r.imm.extractLsb' 6 4).zeroExtend 5, first := (r.imm.extractLsb' 0 6).zeroExtend 8 },
          recipe := r.c } }
  | 0x13 => { zero := r.dst == 0 && r.zb, minor := m0, pats := [(.v, r.a), (.vr, r.b)], ins := .spawn c (srcOf r.a) (fieldReg r.b) }
  | 0x14 =>
    { zero := r.a == 0 && r.b == 0, minor := m0, ins := .ovlcall c r.dst r.c r.m }
  | 0x15 => { zero := r.dst == 0 && r.a == 0, minor := m0, ins := .trap c r.b }
  | _ => { zero := r.dst == 0 && r.a == 0, minor := m0, ins := .bkpt c r.b }

/-- Scalar rows (R269). -/
def armScalar (m : Nat) (f : Fmt) (r : Raw) : Arm :=
  let c := r.com f
  let d := r.dst
  let a := fieldReg r.a
  let b := fieldReg r.b
  let m0 := r.minor == 0
  let u := r.minor == 1
  let sss (i : Instr) : Arm := { zero := r.zb, minor := m0, pats := [(.s, r.a), (.s, r.b)], ins := i }
  let sssu (i : Instr) : Arm := { zero := r.zb, minor := bit0 r.minor, pats := [(.s, r.a), (.s, r.b)], ins := i }
  match m with
  | 0x20 => sss (.sadd c d a b)
  | 0x21 => sss (.ssub c d a b)
  | 0x22 => sss (.smul c d a b)
  | 0x23 => sssu (.smulh c u d a b)
  | 0x24 => sssu (.sdiv c u d a b)
  | 0x25 => sssu (.srem c u d a b)
  | 0x26 => sss (.sand c d a b)
  | 0x27 => sss (.sor c d a b)
  | 0x28 => sss (.sxor c d a b)
  | 0x29 => sss (.sshl c d a b)
  | 0x2A => sss (.sshr c d a b)
  | 0x2B => sss (.ssra c d a b)
  | 0x2C => sssu (.smin c u d a b)
  | 0x2D => sssu (.smax c u d a b)
  | 0x2E =>
    { zero := r.zb, minor := r.minor.extractLsb' 4 4 == 0#4, pats := [(.s, r.a), (.s, r.b)],
      ins := .scmp c (r.minor.extractLsb' 0 1 == 1#1) (condOf (r.minor.extractLsb' 1 3)) d a b }
  | 0x2F =>
    { zero := r.m == 0 && r.imm == 0, minor := m0, pats := [(.s, r.a), (.s, r.b), (.s, r.c)], ins := .ssel c d a b (fieldReg r.c) }
  | 0x30 =>
    { zero := f == .f64i || r.b == 0, minor := m0, pats := [(.s, r.a)],
      ins := .saddi c d a (if f == .f64i then r.b.signExtend 32 else r.hi32) }
  | 0x31 => { zero := r.a == 0 && r.b == 0, minor := m0, ins := .smovi c d r.hi32 }
  | 0x32 => { zero := r.a == 0 && r.b == 0, minor := m0, ins := .smovhi c d r.hi32 }
  | 0x33 => { zero := r.za, minor := m0, pats := [(.s, r.a)], ins := .sclz c d a }
  | 0x34 => { zero := r.za, minor := m0, pats := [(.s, r.a)], ins := .spopc c d a }
  | 0x35 =>
    { zero := r.b.extractLsb' 13 3 == 0#3, minor := bit0 r.minor, pats := [(.s, r.a)],
      ins := .sbfx c u d a (r.b.extractLsb' 0 6) (r.b.extractLsb' 6 7) }
  | 0x36 =>
    { zero := r.b.extractLsb' 13 3 == 0#3, minor := m0, pats := [(.s, r.a)],
      ins := .sbfi c d a (r.b.extractLsb' 0 6) (r.b.extractLsb' 6 7) }
  | 0x37 =>
    { zero := r.b.extractLsb' 6 10 == 0#10, minor := m0, pats := [(.v, r.a)],
      ins := .srdv c d (srcOf r.a) (r.b.extractLsb' 0 5) (r.b.extractLsb' 5 1 == 1#1) }
  | 0x38 =>
    { zero := r.za, minor := r.minor.extractLsb' 2 6 == 0#6, pats := [(.v, r.a)],
      ins := .svote c (voteOf (r.minor.extractLsb' 0 2)) d (srcOf r.a) }
  | _ =>
    { zero := r.za, minor := (minorTy r.minor).isSome && (opOf (minorOp r.minor)).isSome, pats := [(.v, r.a)],
      ins := .sredv c ((opOf (minorOp r.minor)).getD .xchg) ((minorTy r.minor).getD .i8) d (srcOf r.a) }

/-- Vector integer and lane rows (R270). -/
def armVector (m : Nat) (f : Fmt) (r : Raw) : Arm :=
  let c := r.com f
  let d := r.dst
  let a := srcOf r.a
  let b := srcOf r.b
  let ty := (minorTy r.minor).getD .i8
  let t0 := (minorTy r.minor).isSome && minorOp r.minor == 0
  let op := (opOf (minorOp r.minor)).getD .xchg
  let vv (i : Instr) : Arm := { zero := r.zb, minor := t0, pats := [(.v, r.a), (.v, r.b)], ins := i }
  let sat := r.m.extractLsb' 3 1 == 1#1
  let satv := r.m.extractLsb' 0 3 == 0#3 && r.m.extractLsb' 4 12 == 0#12
  match m with
  | 0x40 => { zero := r.c == 0 && r.imm == 0, minor := t0, value := satv, pats := [(.v, r.a), (.v, r.b)], ins := .vadd c ty sat d a b }
  | 0x41 => { zero := r.c == 0 && r.imm == 0, minor := t0, value := satv, pats := [(.v, r.a), (.v, r.b)], ins := .vsub c ty sat d a b }
  | 0x42 => vv (.vmul c ty d a b)
  | 0x43 => vv (.vmulh c ty d a b)
  | 0x44 =>
    { zero := r.m == 0 && r.imm == 0, minor := t0, pats := [(.v, r.a), (.v, r.b), (.v, r.c)], ins := .vmad c ty d a b (srcOf r.c) }
  | 0x45 => vv (.vand c ty d a b)
  | 0x46 => vv (.vor c ty d a b)
  | 0x47 => vv (.vxor c ty d a b)
  | 0x48 => vv (.vshl c ty d a b)
  | 0x49 => vv (.vshr c ty d a b)
  | 0x4A => vv (.vsra c ty d a b)
  | 0x4B => vv (.vmin c ty d a b)
  | 0x4C => vv (.vmax c ty d a b)
  | 0x4D =>
    { zero := r.b == 0 && r.c == 0 && r.imm == 0, minor := t0, value := satv, pats := [(.v, r.a)], ins := .vabs c ty sat d a }
  | 0x4E => { zero := r.za, minor := t0, pats := [(.v, r.a)], ins := .vclz c ty d a }
  | 0x4F => { zero := r.za, minor := t0, pats := [(.v, r.a)], ins := .vpopc c ty d a }
  | 0x50 =>
    { zero := r.b.extractLsb' 11 5 == 0#5, minor := t0, pats := [(.v, r.a)],
      ins := .vbfx c ty d a (r.b.extractLsb' 0 5) (r.b.extractLsb' 5 6) }
  | 0x51 =>
    { zero := r.b.extractLsb' 11 5 == 0#5, minor := r.minor == typed 0 .n32, pats := [(.v, r.a)],
      ins := .vbfi c d a (r.b.extractLsb' 0 5) (r.b.extractLsb' 5 6) }
  | 0x52 =>
    { zero := r.m == 0 && r.imm == 0, minor := t0, pats := [(.v, r.a), (.v, r.b), (.v, r.c)], ins := .vsel c ty d a b (srcOf r.c) }
  | 0x53 =>
    { zero := r.zb, minor := (minorTy r.minor).isSome, pats := [(.v, r.a), (.v, r.b)], ins := .vcmp c (condOf (minorOp r.minor)) ty d a b }
  | 0x54 =>
    { zero := f == .f64i || r.b == 0, minor := t0, pats := [(.v, r.a)],
      ins := .vaddi c ty d a (if f == .f64i then r.b.signExtend 32 else r.hi32) }
  | 0x55 => { zero := r.za, minor := bit0 r.minor, pats := [(.v, r.a)], ins := .vmov c (r.minor == 1) d a }
  | 0x56 => { zero := r.a == 0 && r.b == 0, minor := r.minor == 0, ins := .vmovi c d r.hi32 }
  | 0x57 => { zero := r.zb, minor := bit0 r.minor, pats := [(.v, r.a), (.v, r.b)], ins := .vshuf c (r.minor == 1) d a b }
  | 0x58 =>
    { zero := r.b == 0 && r.c == 0 && r.imm == 0, minor := (minorTy r.minor).isSome && (opOf (minorOp r.minor)).isSome,
      value := r.m.extractLsb' 0 6 == 0#6 && r.m.extractLsb' 7 9 == 0#9, pats := [(.v, r.a)],
      ins := .vscan c op ty (r.m.extractLsb' 6 1 == 1#1) d a }
  | 0x59 =>
    { zero := r.zb, minor := (minorTy r.minor).isSome && (opOf (minorOp r.minor)).isSome, pats := [(.v, r.a), (.v, r.b)],
      ins := .vsegred c op ty d a b }
  | _ =>
    { zero := r.a == 0 && r.za, minor := (laneOpOf r.minor).isSome, ins := .vlane c ((laneOpOf r.minor).getD .laneid) d }

/-- Vector floating-point rows and VRNG (R271). -/
def armFloat (m : Nat) (f : Fmt) (r : Raw) : Arm :=
  let c := r.com f
  let d := r.dst
  let a := srcOf r.a
  let b := srcOf r.b
  let f32 := r.minor == typed 0 .f32
  let f64 := r.minor == typed 0 .f64
  let rmo := (rmoOf (r.m.extractLsb' 0 3)).getD .cr
  let rm := (rmoOf (r.m.extractLsb' 0 3)).isSome && r.m.extractLsb' 3 13 == 0#13
  let fma := (rmoOf (r.m.extractLsb' 0 3)).isSome && r.m.extractLsb' 3 1 == 0#1 && r.m.extractLsb' 6 10 == 0#10
  let cvt := (rmoOf (r.m.extractLsb' 0 3)).isSome && r.m.extractLsb' 3 5 == 0#5 && r.m.extractLsb' 13 3 == 0#3
  let negp := r.m.extractLsb' 4 1 == 1#1
  let negc := r.m.extractLsb' 5 1 == 1#1
  let sty := (tyOf (r.m.extractLsb' 8 5)).getD .i8
  let dty := (minorTy r.minor).getD .i8
  let tys := (minorTy r.minor).isSome && minorOp r.minor == 0 && (tyOf (r.m.extractLsb' 8 5)).isSome
  let vv (ok : Bool) (i : Instr) : Arm :=
    { zero := r.c == 0 && r.imm == 0, minor := ok, value := rm, pats := [(.v, r.a), (.v, r.b)], ins := i }
  let v1 (i : Instr) : Arm := { zero := r.za, minor := f32, pats := [(.v, r.a)], ins := i }
  match m with
  | 0x60 => vv f32 (.vfadd c rmo d a b)
  | 0x61 => vv f32 (.vfsub c rmo d a b)
  | 0x62 => vv f32 (.vfmul c rmo d a b)
  | 0x63 =>
    { zero := r.imm == 0, minor := f32, value := fma, pats := [(.v, r.a), (.v, r.b), (.v, r.c)],
      ins := .vffma c rmo negp negc d a b (srcOf r.c) }
  | 0x64 => { zero := r.zb, minor := f32, pats := [(.v, r.a), (.v, r.b)], ins := .vfmin c d a b }
  | 0x65 => { zero := r.zb, minor := f32, pats := [(.v, r.a), (.v, r.b)], ins := .vfmax c d a b }
  | 0x66 =>
    { zero := r.zb, minor := minorTy r.minor == some .f32, pats := [(.v, r.a), (.v, r.b)],
      ins := .vfcmp c (condOf (minorOp r.minor)) d a b }
  | 0x67 => v1 (.vfrcp c d a)
  | 0x68 => v1 (.vfrsq c d a)
  | 0x69 => { zero := r.b == 0 && r.c == 0 && r.imm == 0, minor := f32, value := rm, pats := [(.v, r.a)], ins := .vfsqrt c rmo d a }
  | 0x6A => vv f32 (.vfdiv c rmo d a b)
  | 0x6B => v1 (.vfexp2 c d a)
  | 0x6C => v1 (.vflog2 c d a)
  | 0x6D =>
    { zero := r.b == 0 && r.c == 0 && r.imm == 0, minor := tys, value := cvt, pats := [(.v, r.a)], ins := .vfcvt c rmo dty sty d a }
  | 0x6E => { zero := r.b == 0 && r.c == 0 && r.imm == 0, minor := f32, value := rm, pats := [(.v, r.a)], ins := .vfrnd c rmo d a }
  | 0x6F => v1 (.vfcls c d a)
  | 0x70 => vv f64 (.vdadd c rmo d a b)
  | 0x71 => vv f64 (.vdsub c rmo d a b)
  | 0x72 => vv f64 (.vdmul c rmo d a b)
  | 0x73 =>
    { zero := r.imm == 0, minor := f64, value := fma, pats := [(.v, r.a), (.v, r.b), (.v, r.c)],
      ins := .vdfma c rmo negp negc d a b (srcOf r.c) }
  | 0x74 =>
    { zero := r.b == 0 && r.c == 0 && r.imm == 0, minor := tys, value := cvt, pats := [(.v, r.a)], ins := .vdcvt c rmo dty sty d a }
  | 0x75 =>
    { zero := r.zb, minor := minorTy r.minor == some .f64, pats := [(.v, r.a), (.v, r.b)],
      ins := .vdcmp c (condOf (minorOp r.minor)) d a b }
  | _ => { zero := r.zb, minor := r.minor == 0, pats := [(.v, r.a), (.s, r.b)], ins := .vrng c d a (fieldReg r.b) }

/-- Memory rows (R272). -/
def armMem (m : Nat) (f : Fmt) (r : Raw) : Arm :=
  let c := r.com f
  let d := r.dst
  let a := fieldReg r.a
  let t0 := (minorTy r.minor).isSome && minorOp r.minor == 0
  let ty := (minorTy r.minor).getD .i8
  let mm := memOf r.m
  let o := r.imm
  let ld (z : Bool) (ps : List (Cls × BitVec 16)) (i : Instr) : Arm :=
    { zero := z, minor := t0, value := memRaw false r.m, scope := memScopeRaw r.m, pats := (.s, r.a) :: ps, ins := i }
  match m with
  | 0x80 => ld (r.b == 0 && r.c == 0) [] (.sld c ty mm d a o)
  | 0x81 => ld (d == 0 && r.c == 0) [(.s, r.b)] (.sst c ty mm a (fieldReg r.b) o)
  | 0x82 => ld (r.b == 0 && r.c == 0) [] (.vld c ty mm d a o)
  | 0x83 => ld (d == 0 && r.c == 0) [(.v, r.b)] (.vst c ty mm a (srcOf r.b) o)
  | 0x84 => ld (r.b == 0) [(.s, r.c)] (.vlds c ty mm d a (fieldReg r.c) o)
  | 0x85 => ld (d == 0) [(.v, r.b), (.s, r.c)] (.vsts c ty mm a (srcOf r.b) (fieldReg r.c) o)
  | 0x86 => ld (r.b == 0) [(.v, r.c)] (.vldx c ty mm d a (srcOf r.c) o)
  | 0x87 => ld (d == 0) [(.v, r.b), (.v, r.c)] (.vstx c ty mm a (srcOf r.b) (srcOf r.c) o)
  | 0x88 =>
    { zero := r.b == 0, minor := t0, value := memRaw false r.m && r.m.extractLsb' 6 2 == 0#2,
      scope := r.m.extractLsb' 3 3 == 0#3, pats := [(.s, r.a), (.s, r.c)], ins := .vldt c ty mm.space d a (fieldReg r.c) o }
  | 0x89 =>
    { zero := d == 0 && r.a == 0, minor := r.minor == 0, value := r.b.extractLsb' 6 10 == 0#10, ins := .waitl c (r.b.extractLsb' 0 6) }
  | 0x8A => { zero := d == 0 && r.b == 0 && r.c == 0, minor := r.minor == 0, value := r.m == 0, pats := [(.s, r.a)], ins := .pref c a o }
  | _ => { zero := d == 0 && r.b == 0 && r.c == 0, minor := r.minor == 0, value := r.m == 0, pats := [(.s, r.a)], ins := .cflush c a o }

/-- Atomic and synchronisation rows (R273). -/
def armAtomic (m : Nat) (f : Fmt) (r : Raw) : Arm :=
  let c := r.com f
  let d := r.dst
  let a := fieldReg r.a
  let t0 := (minorTy r.minor).isSome && minorOp r.minor == 0
  let ty := (minorTy r.minor).getD .i8
  let opOk := (minorTy r.minor).isSome && (opOf (minorOp r.minor)).isSome
  let op := (opOf (minorOp r.minor)).getD .add
  let mm := memOf r.m
  let nr := r.m.extractLsb' 8 1 == 1#1
  let m0 := r.minor == 0
  match m with
  | 0xA0 =>
    { minor := opOk, value := memRaw true r.m, scope := memScopeRaw r.m, pats := [(.s, r.a), (.v, r.b), (.v, r.c)],
      ins := .vatom c op ty mm nr d a (srcOf r.b) (srcOf r.c) r.imm }
  | 0xA1 =>
    { minor := t0, value := memRaw false r.m, scope := memScopeRaw r.m, pats := [(.s, r.a), (.v, r.b), (.v, r.c)],
      ins := .vcas c ty mm d a (srcOf r.b) (srcOf r.c) r.imm }
  | 0xA2 =>
    { zero := r.c == 0, minor := opOk, value := memRaw true r.m, scope := memScopeRaw r.m, pats := [(.s, r.a), (.s, r.b)],
      ins := .satom c op ty mm nr d a (fieldReg r.b) r.imm }
  | 0xA3 =>
    { zero := r.c == 0, minor := t0, value := memRaw false r.m, scope := memScopeRaw r.m, pats := [(.s, r.a), (.s, r.b)],
      ins := .scas c ty mm d a (fieldReg r.b) r.imm }
  | 0xA4 =>
    { zero := d == 0 && r.a == 0 && r.b.extractLsb' 3 13 == 0#13, minor := m0, scope := (scopeOf (r.b.extractLsb' 0 3)).isSome,
      ins := .fence c ((scopeOf (r.b.extractLsb' 0 3)).getD .gang) }
  | 0xA5 =>
    { zero := d == 0 && r.b.extractLsb' 4 12 == 0#12, minor := m0, pats := [(.s, r.a)], ins := .bars c a (r.b.extractLsb' 0 4) }
  | 0xA6 => { zero := d == 0 && r.a == 0 && r.b.extractLsb' 4 12 == 0#12, minor := m0, ins := .bara c (r.b.extractLsb' 0 4) }
  | 0xA7 => { zero := d == 0 && r.a == 0 && r.b.extractLsb' 4 12 == 0#12, minor := m0, ins := .barw c (r.b.extractLsb' 0 4) }
  | 0xA8 => { zero := d == 0 && r.a == 0 && r.b.extractLsb' 4 12 == 0#12, minor := m0, ins := .bart c (r.b.extractLsb' 0 4) }
  | _ =>
    { zero := d == 0 && r.a == 0 && r.b.extractLsb' 3 13 == 0#13, minor := (clOpOf r.minor).isSome,
      ins := .clbar c ((clOpOf r.minor).getD .arrive) (r.b.extractLsb' 0 3) }

/-- Source TYPE of CPYD: 0x1F is the page's FMT. -/
def cpydTy (x : BitVec 8) : Option Ty := if x = 0x1F then none else some ((minorTy x).getD .i8)

/-- Copy rows (R274). -/
def armCopy (m : Nat) (f : Fmt) (r : Raw) : Arm :=
  let c := r.com f
  let d := r.dst
  let a := fieldReg r.a
  let b := fieldReg r.b
  let x := fieldReg r.c
  let cp := cpOf r.m
  let m0 := r.minor == 0
  let abc : List (Cls × BitVec 16) := [(.s, r.a), (.s, r.b), (.s, r.c)]
  match m with
  | 0xB0 => { minor := m0, value := cpRaw r.m, scope := cpScopeRaw r.m, pats := abc, ins := .cpy c cp d a b x r.imm }
  | 0xB1 =>
    { zero := r.imm.extractLsb' 24 8 == 0#8, minor := m0, value := cpRaw r.m, scope := cpScopeRaw r.m, pats := abc,
      ins := .cpyt c cp d a b x (r.imm.extractLsb' 0 12) (r.imm.extractLsb' 12 12) }
  | 0xB2 =>
    { minor := r.minor.extractLsb' 2 6 == 0#6, value := cpRaw r.m, scope := cpScopeRaw r.m, pats := abc,
      ins := .cpyg c cp (r.minor.extractLsb' 0 2) d a b x (r.imm.extractLsb' 0 14) (r.imm.extractLsb' 14 18) }
  | 0xB3 =>
    { minor := r.minor == 0x1F || ((minorTy r.minor).isSome && minorOp r.minor == 0), value := cpRaw r.m, scope := cpScopeRaw r.m,
      pats := abc, ins := .cpyd c cp (cpydTy r.minor) d a b x (r.imm.extractLsb' 0 24) (r.imm.extractLsb' 24 8) }
  | 0xB4 => { zero := d == 0 && r.a == 0 && r.za, minor := m0, ins := .cstage c }
  | 0xB5 =>
    { zero := d == 0 && r.b.extractLsb' 12 4 == 0#4, minor := m0, pats := [(.v, r.a)], ins := .lrec c (srcOf r.a) (r.b.extractLsb' 0 12) }
  | 0xB6 => { zero := d == 0 && r.a == 0 && r.za, minor := m0, ins := .lfence c }
  | 0xB7 =>
    { zero := r.imm.extractLsb' 20 12 == 0#12, minor := m0, value := cpRaw r.m, scope := cpScopeRaw r.m, pats := abc,
      ins := .ovld c cp d a b x (r.imm.extractLsb' 0 16) (r.imm.extractLsb' 16 4) }
  | 0xB8 =>
    { zero := r.a == 0 && r.c == 0 && r.imm.extractLsb' 8 24 == 0#24, minor := m0, value := cpRaw r.m, scope := cpScopeRaw r.m,
      pats := [(.s, r.b)], ins := .cbld c cp d b (r.imm.extractLsb' 0 8) }
  | _ => { zero := d == 0 && r.a == 0 && r.za, minor := m0, ins := .ckpt c }

/-- A t field (R263): tile number in [3:0], [7:4] zero. -/
def tileDst (d : BitVec 8) : Bool := d.extractLsb' 4 4 == 0#4

/-- The tile-image fields that TLD and TST share. -/
def tileMemOf (r : Raw) : TileMem :=
  { xs := r.t32.extractLsb' 0 6, imm := r.imm, space := (spaceOf (r.hi32.extractLsb' 12 3)).getD .bk,
    lr := r.hi32.extractLsb' 15 1 == 1#1, ty := (tyOf (r.hi32.extractLsb' 16 5)).getD .i8 }

/-- SPACE of a tile access is zero where a record governs (R369). -/
def tileSpace (h : BitVec 32) : Bool := h.extractLsb' 15 1 == 0#1 || h.extractLsb' 12 3 == 0#3

/-- Tile, graph and weight rows (R262, R275). -/
def armTile (m : Nat) (f : Fmt) (r : Raw) : Arm :=
  let c := r.com f
  let d := r.dst
  let t := r.t32
  let h := r.hi32
  let m0 := r.minor == 0
  let xs := t.extractLsb' 0 6
  let ys := t.extractLsb' 6 6
  let ta := t.extractLsb' 12 4
  match m with
  | 0xC0 =>
    { zero := tileDst d && t.extractLsb' 12 20 == 0#20 && h.extractLsb' 21 11 == 0#11 && tileSpace h, minor := m0,
      value := (spaceOf (h.extractLsb' 12 3)).isSome && (tyOf (h.extractLsb' 16 5)).isSome,
      ins := .tld c d ys (h.extractLsb' 0 6) (h.extractLsb' 6 6) (tileMemOf r) }
  | 0xC1 =>
    { zero := tileDst d && xs == 0 && t.extractLsb' 12 20 == 0#20 && h.extractLsb' 25 7 == 0#7 && r.imm == 0, minor := m0,
      value := (tyOf (h.extractLsb' 20 5)).isSome,
      ins := .tldv c d ys (h.extractLsb' 0 8) (h.extractLsb' 8 6) (h.extractLsb' 14 6) ((tyOf (h.extractLsb' 20 5)).getD .i8) }
  | 0xC2 =>
    { zero := tileDst d && xs == 0 && h.extractLsb' 26 6 == 0#6 && r.imm == 0, minor := m0,
      value := (trndOf (h.extractLsb' 22 3)).isSome,
      ins := .tmma c d
        { bw := t.extractLsb' 31 1 == 1#1, trb := t.extractLsb' 30 1 == 1#1, tra := t.extractLsb' 29 1 == 1#1,
          zeroc := t.extractLsb' 28 1 == 1#1, negb := t.extractLsb' 27 1 == 1#1, nega := t.extractLsb' 26 1 == 1#1,
          ws := t.extractLsb' 24 2, tc := t.extractLsb' 20 4, tb := t.extractLsb' 16 4, ta := ta, ys := ys,
          m := h.extractLsb' 0 6, n := h.extractLsb' 6 6, k := h.extractLsb' 12 8, q := h.extractLsb' 20 2,
          rnd := (trndOf (h.extractLsb' 22 3)).getD .cr, bf16 := h.extractLsb' 25 1 == 1#1 } }
  | 0xC3 =>
    { zero := tileDst d && t.extractLsb' 0 12 == 0#12 && t.extractLsb' 16 16 == 0#16 && h == 0 && r.imm == 0, minor := m0,
      ins := .ttrn c d ta }
  | 0xC4 =>
    { zero := tileDst d && t.extractLsb' 0 12 == 0#12 && t.extractLsb' 16 16 == 0#16 && h.extractLsb' 8 24 == 0#24 && r.imm == 0,
      minor := m0, value := (tyOf (h.extractLsb' 0 5)).isSome && (trndOf (h.extractLsb' 5 3)).isSome,
      ins := .tcvt c d ta ((tyOf (h.extractLsb' 0 5)).getD .i8) ((trndOf (h.extractLsb' 5 3)).getD .cr) }
  | 0xC5 => { zero := d == 0 && r.a == 0 && r.b.extractLsb' 4 12 == 0#12, minor := m0, ins := .tforce c (r.b.extractLsb' 0 4) }
  | 0xC6 => { zero := r.a == 0 && r.za, minor := m0, ins := .tbatch c d }
  | 0xC7 => { zero := d == 0 && r.za, minor := m0, pats := [(.s, r.a)], ins := .twait c (fieldReg r.a) }
  | 0xC8 =>
    { zero := d == 0 && t.extractLsb' 6 6 == 0#6 && t.extractLsb' 16 16 == 0#16 && h.extractLsb' 0 12 == 0#12 &&
        h.extractLsb' 21 11 == 0#11 && tileSpace h, minor := m0,
      value := (spaceOf (h.extractLsb' 12 3)).isSome && (tyOf (h.extractLsb' 16 5)).isSome, ins := .tst c ta (tileMemOf r) }
  | 0xC9 =>
    { zero := t.extractLsb' 0 12 == 0#12 && t.extractLsb' 16 16 == 0#16 && h.extractLsb' 29 3 == 0#3 && r.imm == 0, minor := m0,
      value := (tyOf (h.extractLsb' 24 5)).isSome,
      ins := .trdv c d ta (h.extractLsb' 0 6) (h.extractLsb' 6 6) (h.extractLsb' 12 6) (h.extractLsb' 18 6)
        ((tyOf (h.extractLsb' 24 5)).getD .i8) }
  | 0xCA => { zero := d == 0 && r.a == 0 && r.b.extractLsb' 4 12 == 0#12, minor := m0, ins := .tdrop c (r.b.extractLsb' 0 4) }
  | 0xCB => { zero := d == 0 && r.a == 0 && r.za, minor := m0, ins := .tfence c }
  | 0xCC =>
    { zero := t.extractLsb' 12 12 == 0#12 && t.extractLsb' 26 6 == 0#6 && h.extractLsb' 14 18 == 0#18, minor := m0,
      value := (tyOf (h.extractLsb' 0 5)).isSome,
      ins := .wld c d (t.extractLsb' 24 2) xs ys r.imm ((tyOf (h.extractLsb' 0 5)).getD .i8) (h.extractLsb' 5 1 == 1#1)
        (h.extractLsb' 6 8) }
  | 0xCD => { zero := d == 0 && r.a == 0 && r.b.extractLsb' 2 14 == 0#14, minor := m0, ins := .wswap c (r.b.extractLsb' 0 2) }
  | 0xCE =>
    { zero := r.a == 0, minor := m0, value := r.b.extractLsb' 2 14 == 0#14, ins := .tplan c d (r.b.extractLsb' 0 2) }
  | _ =>
    { zero := d == 0 && r.b.extractLsb' 2 14 == 0#14, minor := m0, pats := [(.s, r.a)], ins := .wver c (fieldReg r.a) (r.b.extractLsb' 0 2) }

/-- The fields that R388 marks `s0` hold it. -/
def ewS0 (op : EwOp) (r : Raw) : Bool :=
  match op with
  | .scadd => true
  | .clamp => r.a == encS 0
  | .mul => r.c == encS 0
  | .moment => r.a == encS 0 && r.c == encS 0

/-- Bank and sketch rows (R276). -/
def armBank (m : Nat) (f : Fmt) (r : Raw) : Arm :=
  let c := r.com f
  let d := r.dst
  let a := fieldReg r.a
  let b := srcOf r.b
  let x := srcOf r.c
  let m0 := r.minor == 0
  let msacq := r.m.extractLsb' 9 1 == 1#1
  let ms0 := r.m.extractLsb' 0 9 == 0#9 && r.m.extractLsb' 10 6 == 0#6
  match m with
  | 0xD0 =>
    { zero := d == 0 && r.m == 0, minor := (minorTy r.minor).isSome && (opOf (minorOp r.minor)).isSome,
      pats := [(.s, r.a), (.v, r.b), (.v, r.c)], ins := .bred c ((opOf (minorOp r.minor)).getD .xchg) ((minorTy r.minor).getD .i8) a b x }
  | 0xD1 =>
    { zero := r.m == 0, minor := r.minor == typed 0 .f32, pats := [(.s, r.a), (.v, r.b), (.v, r.c)], ins := .bxadd c d a b x }
  | 0xD2 =>
    { zero := r.c == 0 && ms0, minor := r.minor == typed 0 .f32 || r.minor == typed 0 .f64, pats := [(.s, r.a), (.v, r.b)],
      ins := .bxrd c (r.minor == typed 0 .f64) msacq d a b }
  | 0xD3 => { zero := r.c == 0 && r.m == 0, minor := m0, pats := [(.s, r.a), (.v, r.b)], ins := .bxclr c d a b }
  | 0xD4 =>
    { zero := r.m.extractLsb' 6 10 == 0#10, minor := m0, pats := [(.s, r.a), (.s, r.b), (.s, r.c)],
      ins := .baxpy c d a (fieldReg r.b) (fieldReg r.c) (r.m.extractLsb' 0 6) r.imm }
  | 0xD5 =>
    { zero := r.m.extractLsb' 12 4 == 0#4 && ewS0 (ewOf (r.minor.extractLsb' 0 2)) r, minor := r.minor.extractLsb' 2 6 == 0#6, pats := [(.s, r.a), (.s, r.b), (.s, r.c)],
      ins := .bewu c (ewOf (r.minor.extractLsb' 0 2)) d a (fieldReg r.b) (fieldReg r.c) (r.m.extractLsb' 0 6) (r.m.extractLsb' 6 6) r.imm }
  | 0xD6 =>
    { zero := r.c == 0 && r.m == 0 && r.imm.extractLsb' 24 8 == 0#8 && m0, pats := [(.s, r.a), (.s, r.b)],
      ins := .ksinit c d a (fieldReg r.b) (r.imm.extractLsb' 0 8) (r.imm.extractLsb' 8 8) (r.imm.extractLsb' 16 8) }
  | 0xD7 =>
    { zero := r.m.extractLsb' 9 7 == 0#7 && (r.m.extractLsb' 8 1 == 1#1 || r.m.extractLsb' 0 8 == 0#8), minor := m0,
      pats := [(.s, r.a), (.v, r.b), (.v, r.c)],
      ins := .ksupd c (if r.m.extractLsb' 8 1 == 1#1 then some (r.m.extractLsb' 0 8) else none) d a b x }
  | 0xD8 => { zero := r.c == 0 && ms0, minor := m0, pats := [(.s, r.a), (.v, r.b)], ins := .ksqry c msacq d a b }
  | _ => { zero := r.zb, minor := m0, pats := [(.s, r.a), (.s, r.b)], ins := .ksadd c d a (fieldReg r.b) }

/-- Invocation and system rows (R277). -/
def armSystem (m : Nat) (f : Fmt) (r : Raw) : Arm :=
  let c := r.com f
  let d := r.dst
  let a := fieldReg r.a
  let m0 := r.minor == 0
  match m with
  | 0xDA => { zero := d == 0 && r.za, minor := m0, pats := [(.s, r.a)], ins := .lkrel c a }
  | 0xDB => { zero := r.za, minor := m0, pats := [(.s, r.a)], ins := .lkstat c d a }
  | 0xDC =>
    { zero := r.c == 0 && r.m == 0 && r.imm.extractLsb' 23 9 == 0#9, minor := m0, pats := [(.s, r.a), (.v, r.b)],
      ins := .invk c d a (srcOf r.b) (r.imm.extractLsb' 0 16) (r.imm.extractLsb' 16 7) }
  | 0xDD =>
    { zero := r.c == 0 && r.m == 0 && r.imm.extractLsb' 23 9 == 0#9, minor := m0, pats := [(.s, r.a), (.v, r.b)],
      ins := .invka c d a (srcOf r.b) (r.imm.extractLsb' 0 16) (r.imm.extractLsb' 16 7) }
  | 0xDE => { zero := r.za, minor := m0, pats := [(.s, r.a)], ins := .lkwait c d a }
  | 0xDF =>
    { zero := r.c == 0, minor := m0,
      value := (spaceOf (r.m.extractLsb' 0 3)).isSome && r.m.extractLsb' 3 3 == 0#3 && r.m.extractLsb' 9 7 == 0#7, scope := cpScopeRaw r.m,
      pats := [(.s, r.a), (.s, r.b)],
      ins := .lkget c ((scopeOf (r.m.extractLsb' 6 3)).getD .gang) ((spaceOf (r.m.extractLsb' 0 3)).getD .g) d a (fieldReg r.b) }
  | 0xE0 => { zero := r.a == 0 && r.b.extractLsb' 8 8 == 0#8, minor := m0, ins := .sysrd c d (r.b.extractLsb' 0 8) }
  | 0xE1 =>
    { zero := d == 0 && r.b.extractLsb' 8 8 == 0#8, minor := m0, pats := [(.s, r.a)], ins := .syswr c a (r.b.extractLsb' 0 8) }
  | 0xE2 => { zero := d == 0 && r.a == 0 && r.za, minor := m0, ins := .eret c }
  | 0xE3 => { zero := r.a == 0 && r.b.extractLsb' 4 12 == 0#12, minor := m0, ins := .fltrd c d (r.b.extractLsb' 0 4) }
  | _ => { zero := d == 0 && r.a == 0, minor := m0, ins := .clasp c r.b }

def arm (m : Nat) (f : Fmt) (r : Raw) : Arm :=
  if m < 0x20 then armControl m f r
  else if m < 0x40 then armScalar m f r
  else if m < 0x60 then armVector m f r
  else if m < 0x80 then armFloat m f r
  else if m < 0xA0 then armMem m f r
  else if m < 0xB0 then armAtomic m f r
  else if m < 0xC0 then armCopy m f r
  else if m < 0xD0 then armTile m f r
  else if m < 0xDA then armBank m f r
  else armSystem m f r

/-- Whether a position's pattern, where it is a valid one, is accepted there; and whether it is a valid one. -/
def patAccepted (p : Cls × BitVec 16) : Bool :=
  match fieldPat p.2 with
  | some q => p.1.accepts q
  | none => true

/-- The checks of R266 after the format, in their order. -/
def Arm.check (b15 : BitVec 1) (a : Arm) : Except DecErr Instr :=
  if b15 ≠ 0 ∨ ¬(a.zero && a.ins.zeroOk) then .error .mustBeZero
  else if ¬(a.minor && a.ins.minorOk) then .error .minorNotListed
  else if ¬(a.value && a.ins.valueOk) then .error .reservedValue
  else if ¬(a.pats.all patAccepted) then .error .patternNotAccepted
  else if ¬(a.scope && a.ins.scopeOk) then .error .scopeNotAccepted
  else if ¬(a.pats.all fun p => (fieldPat p.2).isSome) then .error .patternCode
  else .ok a.ins

/-- CheckEncoding of R266 on the fields, for an instruction at byte `pos` of its fetch group. ILL is a row of the table and decodes;
its meaning raises the trap. -/
def decodeRaw (pos : Nat) (r : Raw) : Except DecErr Instr :=
  if r.len = 3 then .ok (.unassignedMajor .length)
  else if pos + lenBytes r.len > 32 then .error .crossesGroup
  else if r.major.toNat ≥ 0xF0 then .ok (.unassignedMajor .future)
  else
    match majorFmts r.major.toNat with
    | none => .ok (.unassignedMajor .unassigned)
    | some fs =>
      match fs.find? fun f => f.len = r.len with
      | none => .error .formatNotAdmitted
      | some f => if r.major = 0 then .ok (.ill (r.com f)) else (arm r.major.toNat f r).check r.b15

/-- The bits of a word whose first two bits give its length; bits beyond the length are not the instruction's. -/
def trimWord (w : BitVec 128) : BitVec 128 :=
  match lenBytes (w.extractLsb' 0 2) with
  | 8 => (w.truncate 64 : BitVec 64).zeroExtend 128
  | 12 => (w.truncate 96 : BitVec 96).zeroExtend 128
  | _ => w

/-- The 128-bit little-endian word at the head of a list of bytes (R3, R259); bytes past its end are zero. -/
def wordOfBytes : Nat → List Byte → Nat
  | 0, _ => 0
  | _ + 1, [] => 0
  | n + 1, b :: r => b.toNat + 256 * wordOfBytes n r

/-- Decodes the bytes of the code space from a PC on. -/
def decode (pos : Nat) (bytes : List Byte) : Except DecErr Instr :=
  decodeRaw pos (Raw.unpack (trimWord (BitVec.ofNat 128 (wordOfBytes 16 bytes))))

/-- The bytes an instruction takes, from its first byte (R259). -/
def bytesAt (first : Byte) : Nat := lenBytes (first.extractLsb' 0 2)

/-- What the decoder reads from the low `nbits` bits of `w`, at the start of a fetch group, the bits above zero. -/
def decodeTableWord (nbits w : Nat) : Option Instr :=
  match decodeRaw 0 (Raw.unpack (trimWord (BitVec.ofNat 128 (w % 2 ^ nbits)))) with
  | .ok i => some i
  | .error _ => none

/-! ## The encoder -/

/-- Common fields and operand fields of a row. -/
def Com.raw (c : Com) (major : BitVec 8) (dst minor : BitVec 8) (a b x m : BitVec 16) (imm : BitVec 32) : Raw :=
  { len := c.fmt.len, major := major, stall := c.stall, yld := BitVec.ofBool c.yld, b15 := 0, dst := dst, minor := minor, a := a, b := b,
    c := x, m := m, imm := imm }

def ofU (u : Bool) : BitVec 8 := if u then 1 else 0

/-- MOD16 in the AR layout. -/
def arMod (r : Rmo) (sat negp negc excl : Bool) : BitVec 16 :=
  0#9 ++ BitVec.ofBool excl ++ BitVec.ofBool negc ++ BitVec.ofBool negp ++ BitVec.ofBool sat ++ r.code

def cvtMod (r : Rmo) (sty : Ty) : BitVec 16 := 0#3 ++ sty.code ++ 0#5 ++ r.code

/-- MOD16 of F64I and F96I rows with IMM32: high and low half. -/
def immHi (i : BitVec 32) : BitVec 16 := i.extractLsb' 16 16
def immLo (i : BitVec 32) : BitVec 16 := i.extractLsb' 0 16

/-- An F128T row: bits [63:32], MOD32, IMM32. -/
def Com.tile (c : Com) (major : BitVec 8) (dst : BitVec 8) (t h imm : BitVec 32) : Raw :=
  c.raw major dst 0 (immLo t) (immHi t) (immLo h) (immHi h) imm

def encTileMem (c : Com) (major : BitVec 8) (dst : BitVec 8) (top : BitVec 26) (shape : BitVec 12) (t : TileMem) : Raw :=
  c.tile major dst (top ++ t.xs) (0#11 ++ t.ty.code ++ BitVec.ofBool t.lr ++ t.space.code ++ shape) t.imm

/-- The fields of an instruction's word; none for an event and for a word that is no instruction. -/
def Instr.enc : Instr → Option Raw
  | .ill c => some (c.raw 0x00 0 0 0 0 0 0 0)
  | .nop c => some (c.raw 0x01 0 0 0 0 0 0 0)
  | .bra c o => some (c.raw 0x02 0 0 0 o 0 0 0)
  | .brc c k a o => some (c.raw 0x03 0 (0#5 ++ k.code) (encS a) o 0 0 0)
  | .call c d o => some (c.raw 0x04 d 0 0 o 0 0 0)
  | .ret c a => some (c.raw 0x05 0 0 (encS a) 0 0 0 0)
  | .callx c d a => some (c.raw 0x06 d 0 a.enc 0 0 0 0)
  | .jmpx c a => some (c.raw 0x07 0 0 a.enc 0 0 0 0)
  | .vbr c a o => some (c.raw 0x08 0 0 a.enc o 0 0 0)
  | .join c => some (c.raw 0x09 0 0 0 0 0 0 0)
  | .vif c v a => some (c.raw 0x0A 0 (ofU v) a.enc 0 0 0 0)
  | .velse c => some (c.raw 0x0B 0 0 0 0 0 0 0)
  | .vendif c => some (c.raw 0x0C 0 0 0 0 0 0 0)
  | .vloop c => some (c.raw 0x0D 0 0 0 0 0 0 0)
  | .vbreak c v a => some (c.raw 0x0E 0 (ofU v) a.enc 0 0 0 0)
  | .vcont c v a => some (c.raw 0x0F 0 (ofU v) a.enc 0 0 0 0)
  | .vendl c v a o => some (c.raw 0x10 0 (ofU v) a.enc o 0 0 0)
  | .exit c => some (c.raw 0x11 0 0 0 0 0 0 0)
  | .flash c f =>
    some (c.raw 0x12 0 0 (0#3 ++ f.v0.count ++ f.v0.first) (0#3 ++ f.v1.count ++ f.v1.first) f.recipe
      (0#6 ++ (f.s0.count.truncate 4 : BitVec 4) ++ (f.s0.first.truncate 6 : BitVec 6))
      (0#22 ++ (f.s1.count.truncate 4 : BitVec 4) ++ (f.s1.first.truncate 6 : BitVec 6)))
  | .spawn c a b => some (c.raw 0x13 0 0 a.enc (encVr b) 0 0 0)
  | .ovlcall c d id w => some (c.raw 0x14 d 0 0 0 id w 0)
  | .trap c n => some (c.raw 0x15 0 0 0 n 0 0 0)
  | .bkpt c n => some (c.raw 0x16 0 0 0 n 0 0 0)
  | .sadd c d a b => some (c.raw 0x20 d 0 (encS a) (encS b) 0 0 0)
  | .ssub c d a b => some (c.raw 0x21 d 0 (encS a) (encS b) 0 0 0)
  | .smul c d a b => some (c.raw 0x22 d 0 (encS a) (encS b) 0 0 0)
  | .smulh c u d a b => some (c.raw 0x23 d (ofU u) (encS a) (encS b) 0 0 0)
  | .sdiv c u d a b => some (c.raw 0x24 d (ofU u) (encS a) (encS b) 0 0 0)
  | .srem c u d a b => some (c.raw 0x25 d (ofU u) (encS a) (encS b) 0 0 0)
  | .sand c d a b => some (c.raw 0x26 d 0 (encS a) (encS b) 0 0 0)
  | .sor c d a b => some (c.raw 0x27 d 0 (encS a) (encS b) 0 0 0)
  | .sxor c d a b => some (c.raw 0x28 d 0 (encS a) (encS b) 0 0 0)
  | .sshl c d a b => some (c.raw 0x29 d 0 (encS a) (encS b) 0 0 0)
  | .sshr c d a b => some (c.raw 0x2A d 0 (encS a) (encS b) 0 0 0)
  | .ssra c d a b => some (c.raw 0x2B d 0 (encS a) (encS b) 0 0 0)
  | .smin c u d a b => some (c.raw 0x2C d (ofU u) (encS a) (encS b) 0 0 0)
  | .smax c u d a b => some (c.raw 0x2D d (ofU u) (encS a) (encS b) 0 0 0)
  | .scmp c u k d a b => some (c.raw 0x2E d (0#4 ++ k.code ++ BitVec.ofBool u) (encS a) (encS b) 0 0 0)
  | .ssel c d a b x => some (c.raw 0x2F d 0 (encS a) (encS b) (encS x) 0 0)
  | .saddi c d a i =>
    some (if c.fmt = .f64i then c.raw 0x30 d 0 (encS a) (immLo i) 0 0 0 else c.raw 0x30 d 0 (encS a) 0 (immLo i) (immHi i) 0)
  | .smovi c d i => some (c.raw 0x31 d 0 0 0 (immLo i) (immHi i) 0)
  | .smovhi c d i => some (c.raw 0x32 d 0 0 0 (immLo i) (immHi i) 0)
  | .sclz c d a => some (c.raw 0x33 d 0 (encS a) 0 0 0 0)
  | .spopc c d a => some (c.raw 0x34 d 0 (encS a) 0 0 0 0)
  | .sbfx c u d a p l => some (c.raw 0x35 d (ofU u) (encS a) (0#3 ++ l ++ p) 0 0 0)
  | .sbfi c d a p l => some (c.raw 0x36 d 0 (encS a) (0#3 ++ l ++ p) 0 0 0)
  | .srdv c d a l p => some (c.raw 0x37 d 0 a.enc (0#10 ++ BitVec.ofBool p ++ l) 0 0 0)
  | .svote c k d a => some (c.raw 0x38 d (0#6 ++ k.code) a.enc 0 0 0 0)
  | .sredv c k t d a => some (c.raw 0x39 d (typed k.code t) a.enc 0 0 0 0)
  | .vadd c t s d a b => some (c.raw 0x40 d (typed 0 t) a.enc b.enc 0 (arMod .cr s false false false) 0)
  | .vsub c t s d a b => some (c.raw 0x41 d (typed 0 t) a.enc b.enc 0 (arMod .cr s false false false) 0)
  | .vmul c t d a b => some (c.raw 0x42 d (typed 0 t) a.enc b.enc 0 0 0)
  | .vmulh c t d a b => some (c.raw 0x43 d (typed 0 t) a.enc b.enc 0 0 0)
  | .vmad c t d a b x => some (c.raw 0x44 d (typed 0 t) a.enc b.enc x.enc 0 0)
  | .vand c t d a b => some (c.raw 0x45 d (typed 0 t) a.enc b.enc 0 0 0)
  | .vor c t d a b => some (c.raw 0x46 d (typed 0 t) a.enc b.enc 0 0 0)
  | .vxor c t d a b => some (c.raw 0x47 d (typed 0 t) a.enc b.enc 0 0 0)
  | .vshl c t d a b => some (c.raw 0x48 d (typed 0 t) a.enc b.enc 0 0 0)
  | .vshr c t d a b => some (c.raw 0x49 d (typed 0 t) a.enc b.enc 0 0 0)
  | .vsra c t d a b => some (c.raw 0x4A d (typed 0 t) a.enc b.enc 0 0 0)
  | .vmin c t d a b => some (c.raw 0x4B d (typed 0 t) a.enc b.enc 0 0 0)
  | .vmax c t d a b => some (c.raw 0x4C d (typed 0 t) a.enc b.enc 0 0 0)
  | .vabs c t s d a => some (c.raw 0x4D d (typed 0 t) a.enc 0 0 (arMod .cr s false false false) 0)
  | .vclz c t d a => some (c.raw 0x4E d (typed 0 t) a.enc 0 0 0 0)
  | .vpopc c t d a => some (c.raw 0x4F d (typed 0 t) a.enc 0 0 0 0)
  | .vbfx c t d a p l => some (c.raw 0x50 d (typed 0 t) a.enc (0#5 ++ l ++ p) 0 0 0)
  | .vbfi c d a p l => some (c.raw 0x51 d (typed 0 .n32) a.enc (0#5 ++ l ++ p) 0 0 0)
  | .vsel c t d a b x => some (c.raw 0x52 d (typed 0 t) a.enc b.enc x.enc 0 0)
  | .vcmp c k t d a b => some (c.raw 0x53 d (typed k.code t) a.enc b.enc 0 0 0)
  | .vaddi c t d a i =>
    some (if c.fmt = .f64i then c.raw 0x54 d (typed 0 t) a.enc (immLo i) 0 0 0 else c.raw 0x54 d (typed 0 t) a.enc 0 (immLo i) (immHi i) 0)
  | .vmov c p d a => some (c.raw 0x55 d (ofU p) a.enc 0 0 0 0)
  | .vmovi c d i => some (c.raw 0x56 d 0 0 0 (immLo i) (immHi i) 0)
  | .vshuf c p d a b => some (c.raw 0x57 d (ofU p) a.enc b.enc 0 0 0)
  | .vscan c k t e d a => some (c.raw 0x58 d (typed k.code t) a.enc 0 0 (arMod .cr false false false e) 0)
  | .vsegred c k t d a b => some (c.raw 0x59 d (typed k.code t) a.enc b.enc 0 0 0)
  | .vlane c k d => some (c.raw 0x5A d k.code 0 0 0 0 0)
  | .vfadd c r d a b => some (c.raw 0x60 d (typed 0 .f32) a.enc b.enc 0 (arMod r false false false false) 0)
  | .vfsub c r d a b => some (c.raw 0x61 d (typed 0 .f32) a.enc b.enc 0 (arMod r false false false false) 0)
  | .vfmul c r d a b => some (c.raw 0x62 d (typed 0 .f32) a.enc b.enc 0 (arMod r false false false false) 0)
  | .vffma c r np nc d a b x => some (c.raw 0x63 d (typed 0 .f32) a.enc b.enc x.enc (arMod r false np nc false) 0)
  | .vfmin c d a b => some (c.raw 0x64 d (typed 0 .f32) a.enc b.enc 0 0 0)
  | .vfmax c d a b => some (c.raw 0x65 d (typed 0 .f32) a.enc b.enc 0 0 0)
  | .vfcmp c k d a b => some (c.raw 0x66 d (typed k.code .f32) a.enc b.enc 0 0 0)
  | .vfrcp c d a => some (c.raw 0x67 d (typed 0 .f32) a.enc 0 0 0 0)
  | .vfrsq c d a => some (c.raw 0x68 d (typed 0 .f32) a.enc 0 0 0 0)
  | .vfsqrt c r d a => some (c.raw 0x69 d (typed 0 .f32) a.enc 0 0 (arMod r false false false false) 0)
  | .vfdiv c r d a b => some (c.raw 0x6A d (typed 0 .f32) a.enc b.enc 0 (arMod r false false false false) 0)
  | .vfexp2 c d a => some (c.raw 0x6B d (typed 0 .f32) a.enc 0 0 0 0)
  | .vflog2 c d a => some (c.raw 0x6C d (typed 0 .f32) a.enc 0 0 0 0)
  | .vfcvt c r dt st d a => some (c.raw 0x6D d (typed 0 dt) a.enc 0 0 (cvtMod r st) 0)
  | .vfrnd c r d a => some (c.raw 0x6E d (typed 0 .f32) a.enc 0 0 (arMod r false false false false) 0)
  | .vfcls c d a => some (c.raw 0x6F d (typed 0 .f32) a.enc 0 0 0 0)
  | .vdadd c r d a b => some (c.raw 0x70 d (typed 0 .f64) a.enc b.enc 0 (arMod r false false false false) 0)
  | .vdsub c r d a b => some (c.raw 0x71 d (typed 0 .f64) a.enc b.enc 0 (arMod r false false false false) 0)
  | .vdmul c r d a b => some (c.raw 0x72 d (typed 0 .f64) a.enc b.enc 0 (arMod r false false false false) 0)
  | .vdfma c r np nc d a b x => some (c.raw 0x73 d (typed 0 .f64) a.enc b.enc x.enc (arMod r false np nc false) 0)
  | .vdcvt c r dt st d a => some (c.raw 0x74 d (typed 0 dt) a.enc 0 0 (cvtMod r st) 0)
  | .vdcmp c k d a b => some (c.raw 0x75 d (typed k.code .f64) a.enc b.enc 0 0 0)
  | .vrng c d a b => some (c.raw 0x76 d 0 a.enc (encS b) 0 0 0)
  | .sld c t m d a o => some (c.raw 0x80 d (typed 0 t) (encS a) 0 0 (m.enc false) o)
  | .sst c t m a b o => some (c.raw 0x81 0 (typed 0 t) (encS a) (encS b) 0 (m.enc false) o)
  | .vld c t m d a o => some (c.raw 0x82 d (typed 0 t) (encS a) 0 0 (m.enc false) o)
  | .vst c t m a b o => some (c.raw 0x83 0 (typed 0 t) (encS a) b.enc 0 (m.enc false) o)
  | .vlds c t m d a x o => some (c.raw 0x84 d (typed 0 t) (encS a) 0 (encS x) (m.enc false) o)
  | .vsts c t m a b x o => some (c.raw 0x85 0 (typed 0 t) (encS a) b.enc (encS x) (m.enc false) o)
  | .vldx c t m d a x o => some (c.raw 0x86 d (typed 0 t) (encS a) 0 x.enc (m.enc false) o)
  | .vstx c t m a b x o => some (c.raw 0x87 0 (typed 0 t) (encS a) b.enc x.enc (m.enc false) o)
  | .vldt c t q d a x o => some (c.raw 0x88 d (typed 0 t) (encS a) 0 (encS x) (0#13 ++ q.code) o)
  | .waitl c n => some (c.raw 0x89 0 0 0 (0#10 ++ n) 0 0 0)
  | .pref c a o => some (c.raw 0x8A 0 0 (encS a) 0 0 0 o)
  | .cflush c a o => some (c.raw 0x8B 0 0 (encS a) 0 0 0 o)
  | .vatom c k t m nr d a b x o => some (c.raw 0xA0 d (typed k.code t) (encS a) b.enc x.enc (m.enc nr) o)
  | .vcas c t m d a b x o => some (c.raw 0xA1 d (typed 0 t) (encS a) b.enc x.enc (m.enc false) o)
  | .satom c k t m nr d a b o => some (c.raw 0xA2 d (typed k.code t) (encS a) (encS b) 0 (m.enc nr) o)
  | .scas c t m d a b o => some (c.raw 0xA3 d (typed 0 t) (encS a) (encS b) 0 (m.enc false) o)
  | .fence c s => some (c.raw 0xA4 0 0 0 (0#13 ++ s.code) 0 0 0)
  | .bars c a n => some (c.raw 0xA5 0 0 (encS a) (0#12 ++ n) 0 0 0)
  | .bara c n => some (c.raw 0xA6 0 0 0 (0#12 ++ n) 0 0 0)
  | .barw c n => some (c.raw 0xA7 0 0 0 (0#12 ++ n) 0 0 0)
  | .bart c n => some (c.raw 0xA8 0 0 0 (0#12 ++ n) 0 0 0)
  | .clbar c k n => some (c.raw 0xA9 0 k.code 0 (0#13 ++ n) 0 0 0)
  | .cpy c m d a b x cap => some (c.raw 0xB0 d 0 (encS a) (encS b) (encS x) m.enc cap)
  | .cpyt c m d a b x s t => some (c.raw 0xB1 d 0 (encS a) (encS b) (encS x) m.enc (0#8 ++ t ++ s))
  | .cpyg c m lw d a b x cap l => some (c.raw 0xB2 d (0#6 ++ lw) (encS a) (encS b) (encS x) m.enc (l ++ cap))
  | .cpyd c m t d a b x cap s =>
    some (c.raw 0xB3 d (match t with | none => 0x1F | some t => typed 0 t) (encS a) (encS b) (encS x) m.enc (s ++ cap))
  | .cstage c => some (c.raw 0xB4 0 0 0 0 0 0 0)
  | .lrec c a n => some (c.raw 0xB5 0 0 a.enc (0#4 ++ n) 0 0 0)
  | .lfence c => some (c.raw 0xB6 0 0 0 0 0 0 0)
  | .ovld c m d a b x id e => some (c.raw 0xB7 d 0 (encS a) (encS b) (encS x) m.enc (0#12 ++ e ++ id))
  | .cbld c m d b s => some (c.raw 0xB8 d 0 0 (encS b) 0 m.enc (0#24 ++ s))
  | .ckpt c => some (c.raw 0xB9 0 0 0 0 0 0 0)
  | .tld c d ys m n t => some (encTileMem c 0xC0 d (0#20 ++ ys) (n ++ m) t)
  | .tldv c d ys f m n t => some (c.tile 0xC1 d (0#20 ++ ys ++ 0#6) (0#7 ++ t.code ++ n ++ m ++ f) 0)
  | .tmma c d f =>
    some (c.tile 0xC2 d
      (BitVec.ofBool f.bw ++ BitVec.ofBool f.trb ++ BitVec.ofBool f.tra ++ BitVec.ofBool f.zeroc ++ BitVec.ofBool f.negb ++
        BitVec.ofBool f.nega ++ f.ws ++ f.tc ++ f.tb ++ f.ta ++ f.ys ++ 0#6)
      (0#6 ++ BitVec.ofBool f.bf16 ++ f.rnd.tcode ++ f.q ++ f.k ++ f.n ++ f.m) 0)
  | .ttrn c d ta => some (c.tile 0xC3 d (0#16 ++ ta ++ 0#12) 0 0)
  | .tcvt c d ta t r => some (c.tile 0xC4 d (0#16 ++ ta ++ 0#12) (0#24 ++ r.tcode ++ t.code) 0)
  | .tforce c n => some (c.raw 0xC5 0 0 0 (0#12 ++ n) 0 0 0)
  | .tbatch c d => some (c.raw 0xC6 d 0 0 0 0 0 0)
  | .twait c a => some (c.raw 0xC7 0 0 (encS a) 0 0 0 0)
  | .tst c ta t => some (encTileMem c 0xC8 0 (0#16 ++ ta ++ 0#6) 0 t)
  | .trdv c d ta r0 rs c0 cs t => some (c.tile 0xC9 d (0#16 ++ ta ++ 0#12) (0#3 ++ t.code ++ cs ++ c0 ++ rs ++ r0) 0)
  | .tdrop c n => some (c.raw 0xCA 0 0 0 (0#12 ++ n) 0 0 0)
  | .tfence c => some (c.raw 0xCB 0 0 0 0 0 0 0)
  | .wld c d ws xs ys i t p s =>
    some (c.tile 0xCC d (0#6 ++ ws ++ 0#12 ++ ys ++ xs) (0#18 ++ s ++ BitVec.ofBool p ++ t.code) i)
  | .wswap c n => some (c.raw 0xCD 0 0 0 (0#14 ++ n) 0 0 0)
  | .tplan c d w => some (c.raw 0xCE d 0 0 (0#14 ++ w) 0 0 0)
  | .wver c a n => some (c.raw 0xCF 0 0 (encS a) (0#14 ++ n) 0 0 0)
  | .bred c k t a b x => some (c.raw 0xD0 0 (typed k.code t) (encS a) b.enc x.enc 0 0)
  | .bxadd c d a b x => some (c.raw 0xD1 d (typed 0 .f32) (encS a) b.enc x.enc 0 0)
  | .bxrd c w ms d a b =>
    some (c.raw 0xD2 d (typed 0 (if w then .f64 else .f32)) (encS a) b.enc 0 (0#6 ++ BitVec.ofBool ms ++ 0#9) 0)
  | .bxclr c d a b => some (c.raw 0xD3 d 0 (encS a) b.enc 0 0 0)
  | .baxpy c d a b x n cap => some (c.raw 0xD4 d 0 (encS a) (encS b) (encS x) (0#10 ++ n) cap)
  | .bewu c k d a b x n m cap => some (c.raw 0xD5 d (0#6 ++ k.code) (encS a) (encS b) (encS x) (0#4 ++ m ++ n) cap)
  | .ksinit c d a b sg dp w => some (c.raw 0xD6 d 0 (encS a) (encS b) 0 0 (0#8 ++ w ++ dp ++ sg))
  | .ksupd c e d a b x =>
    some (c.raw 0xD7 d 0 (encS a) b.enc x.enc (match e with | none => 0 | some e => 0#7 ++ 1#1 ++ e) 0)
  | .ksqry c ms d a b => some (c.raw 0xD8 d 0 (encS a) b.enc 0 (0#6 ++ BitVec.ofBool ms ++ 0#9) 0)
  | .ksadd c d a b => some (c.raw 0xD9 d 0 (encS a) (encS b) 0 0 0)
  | .lkrel c a => some (c.raw 0xDA 0 0 (encS a) 0 0 0 0)
  | .lkstat c d a => some (c.raw 0xDB d 0 (encS a) 0 0 0 0)
  | .invk c d a b fn nb => some (c.raw 0xDC d 0 (encS a) b.enc 0 0 (0#9 ++ nb ++ fn))
  | .invka c d a b fn nb => some (c.raw 0xDD d 0 (encS a) b.enc 0 0 (0#9 ++ nb ++ fn))
  | .lkwait c d a => some (c.raw 0xDE d 0 (encS a) 0 0 0 0)
  | .lkget c sc q d a b => some (c.raw 0xDF d 0 (encS a) (encS b) 0 (0#7 ++ sc.code ++ 0#3 ++ q.code) 0)
  | .sysrd c d n => some (c.raw 0xE0 d 0 0 (0#8 ++ n) 0 0 0)
  | .syswr c a n => some (c.raw 0xE1 0 0 (encS a) (0#8 ++ n) 0 0 0)
  | .eret c => some (c.raw 0xE2 0 0 0 0 0 0 0)
  | .fltrd c d w => some (c.raw 0xE3 d 0 0 (0#12 ++ w) 0 0 0)
  | .clasp c t => some (c.raw 0xE4 0 0 0 t 0 0 0)
  | _ => none

/-- The words of an instruction, as one number whose low bits come first in memory, with its length in bytes. -/
def encode (i : Instr) : Option (Nat × Nat) :=
  match i.enc with
  | some r => some (r.pack.toNat, lenBytes r.len)
  | none => none

/-- The bytes of an instruction in memory order (R3). -/
def encodeBytes (i : Instr) : List Byte :=
  match encode i with
  | some (w, n) => (List.range n).map fun k => BitVec.ofNat 8 (w / 256 ^ k)
  | none => []

end Sys2Proof
end

