-- ==== Sys2Proof/Config.lean ====
section
/-! DEFINITION. Config.lean: what one implementation fixes, the values the manual leaves open (constants with no body), and named constants. -/

namespace Sys2Proof.Config

/-- Cycles that pass in the step numbered by the argument (R5, R414: times depend on traffic; DESIGN CHOICE, log entry 2). -/
opaque elapsed : Nat → Nat
/-- Which of the candidates that may move next does, by step number (no rule orders the agents; DESIGN CHOICE, log entry 1). -/
opaque pick : Nat → Nat
/-- Whether an early reader of a fixed-latency result sees the old value (R168; DEDUCED, log entry 8). -/
opaque earlyOld : Nat → Bool
/-- Whether an access uses a cached translation that has not been invalidated (R120; DEDUCED, log entry 9). -/
opaque tlbHit : Nat → Bool
/-- Whether an ordinary `.bk` load finds its line still buffered (R135 leaves eviction open; DEDUCED, log entry 10). -/
opaque bufferHit : Nat → Bool
/-- A byte of HBM under a key other than the one it was written with: key epoch, address (R46; DESIGN CHOICE, log entry 6). -/
opaque staleByte : Nat → Nat → BitVec 8
/-- What a pool byte reads as under a key other than the one its sector was last written with: writing key (0 for none), reading key, the
sector's 32 bytes as written, address (R47; DESIGN CHOICE, log entry 6). -/
opaque poolStale : Nat → Nat → Nat → Nat → BitVec 8
/-- The bytes of the context image numbered by the argument, from byte 8 on (R51 gives them no form; DESIGN CHOICE, log entry 28). -/
opaque imageBytes : Nat → List (BitVec 8)
/-- CRC-64 of a flit (R14 gives no polynomial; DESIGN CHOICE, log entry 29). -/
opaque crc64 : List (BitVec 8) → BitVec 64
/-- A bit the manual leaves open, fresh at each use (DESIGN CHOICE, log entry 11). -/
opaque freeBit : Nat → Bool
/-- A number the manual leaves open, fresh at each use (DESIGN CHOICE, log entry 11). -/
opaque freeNat : Nat → Nat
/-- The Ed448 public key that the management processor holds for a fused hash (R59 gives the token no key; PRESUMED, log entry 12). -/
opaque debugKey : List (BitVec 8) → List (BitVec 8)
/-- The boot ROM image, the Limran image and its configuration block, as measured (R55; PRESUMED, log entry 12). -/
opaque bootImages : Nat → List (BitVec 8)
/-- MAJOR, MINOR and MOD16 that `volend` gives the Kweyn-P instruction of these bits, none where it has no native counterpart (R175 gives no
opcode map; DESIGN CHOICE, log entry 13). -/
opaque volend : BitVec 128 → Option (BitVec 8 × BitVec 8 × BitVec 16)
/-- The source mask of a clasp trigger that a core's CLASP issues (R17 gives the mask no layout; DESIGN CHOICE, log entry 11). -/
opaque claspSource : Nat → BitVec 16
/-- Whether a host physical address lies in the pool windows that Limran configures (R119; DESIGN CHOICE, log entry 14). -/
opaque poolWindow : Nat → Bool
/-- The answer of the host completer to a request at an address: false is UR or CA (R121 0x0A; DESIGN CHOICE, log entry 14). -/
opaque completerAnswers : Nat → Bool

/-- Whether a partition admits copies of a partition of another package: package, partition, own partition (R74 names the admission and gives
it no register; DESIGN CHOICE, log entry 29). -/
opaque admitsRemote : Nat → Nat → Nat → Bool

def cores : Nat := 2048
def functions : Nat := 64
def queues : Nat := 4096
def activeSlots : Nat := 64
def settings : Nat := 16
def lrtEntries : Nat := 65536
def forwardStore : Nat := 16384

end Sys2Proof.Config
end

