-- ==== Sys2Proof/Machine/Bits.lean ====
section
/-! DEFINITION. Machine/Bits.lean: bit fields, extensions, little-endian bytes (R3, R278) and active-lane sets. -/

namespace Sys2Proof.Machine

open Sys2Proof

/-- Bits [hi:lo] of a number. -/
def field (n hi lo : Nat) : Nat := (n >>> lo) % 2 ^ (hi + 1 - lo)

/-- Sext of R278: the low n bits of x, sign-extended to 64 bits. -/
def sextN (x n : Nat) : DWord :=
  let y := x % 2 ^ n
  if n ≠ 0 ∧ y ≥ 2 ^ (n - 1) then BitVec.ofInt 64 ((y : Int) - 2 ^ n) else BitVec.ofNat 64 y

def sext32 (x : Word) : DWord := x.signExtend 64
def sext16 (x : BitVec 16) : DWord := x.signExtend 64
def zext32 (x : Word) : DWord := x.zeroExtend 64
def low32 (x : DWord) : Word := x.truncate 32
def high32 (x : DWord) : Word := (x >>> 32).truncate 32
/-- A pair's 64 bits: the even register holds bits [31:0] (R158). -/
def cat32 (hi lo : Word) : DWord := hi ++ lo

/-- The little-endian bytes of a number (R3). -/
def leBytes : Nat → Nat → List Byte
  | 0, _ => []
  | k + 1, n => BitVec.ofNat 8 n :: leBytes k (n / 256)

/-- The number whose little-endian bytes are given. -/
def ofLe : List Byte → Nat
  | [] => 0
  | b :: r => b.toNat + 256 * ofLe r

/-- `n` bytes of a list of bytes from offset `o`, zero beyond its end. -/
def sliceB (l : List Byte) (o n : Nat) : List Byte :=
  let t := (l.drop o).take n
  t ++ List.replicate (n - t.length) 0

/-- The little-endian number at bytes [o + n - 1 : o]. -/
def leAt (l : List Byte) (o n : Nat) : Nat := ofLe (sliceB l o n)

/-- The bytes `lo` to `lo + n - 1` of a sparse byte table, unlisted bytes zero. -/
def tblBytes (t : Tbl Byte) (lo : Nat) : Nat → List Byte
  | 0 => []
  | n + 1 => t.getD lo 0 :: tblBytes t (lo + 1) n

/-- Lists bytes in a sparse byte table from `lo` up; zero bytes stay unlisted. -/
def tblPut (t : Tbl Byte) : Nat → List Byte → Tbl Byte
  | _, [] => t
  | lo, b :: r => tblPut (if b = 0 then t.erase lo else t.set lo b) (lo + 1) r

/-- The distinct numbers of a list, ascending. -/
def insertNat (x : Nat) : List Nat → List Nat
  | [] => [x]
  | y :: r => if x < y then x :: y :: r else if x = y then y :: r else y :: insertNat x r

def distinct (l : List Nat) : List Nat := l.foldl (fun a x => insertNat x a) []

/-- Whether bit `i` of a lane set is set. -/
def bit (m : Word) (i : Nat) : Bool := m.getLsbD i

/-- The lanes of a set, ascending. -/
def lanesOf (m : Word) : List Nat := (List.range 32).filter fun i => bit m i

/-- The lane set of those lanes that satisfy `p`. -/
def laneSet (p : Nat → Bool) : Word := BitVec.ofNat 32 ((List.range 32).foldl (fun a i => if p i then a + 2 ^ i else a) 0)

/-- The lane set with the lanes of a list. -/
def setOfLanes (l : List Nat) : Word := laneSet fun i => l.contains i

def popCount (w : Nat) : Nat → Nat
  | 0 => 0
  | k + 1 => popCount w k + (w >>> k) % 2

/-- Leading zero bits of the low n bits of x. -/
def clz (n x : Nat) : Nat := if x % 2 ^ n = 0 then n else n - 1 - Nat.log2 (x % 2 ^ n)

/-- BranchTarget (R278). -/
def branchTarget (pc off : BitVec 16) : BitVec 16 := pc + 4#16 * off

/-- Whether a comparison code holds of two integers; UN and ORD are for floats (R264). -/
def condInt (c : Cond) (a b : Int) : Bool :=
  match c with
  | .eq => a = b
  | .ne => a ≠ b
  | .lt => a < b
  | .le => a ≤ b
  | .gt => a > b
  | .ge => a ≥ b
  | .un => false
  | .ord => true

/-- Value of the low `w` bits of x, signed or unsigned. -/
def intOf (signed : Bool) (w x : Nat) : Int :=
  let y := x % 2 ^ w
  if signed && decide (y ≥ 2 ^ (w - 1)) then (y : Int) - 2 ^ w else y

/-- An integer modulo 2^w. -/
def wrap (w : Nat) (x : Int) : Nat := (x % (2 ^ w : Int)).toNat

/-- An integer clamped to a type's range, modulo 2^w. -/
def clampW (signed : Bool) (w : Nat) (x : Int) : Nat :=
  let lo : Int := if signed then -(2 ^ (w - 1)) else 0
  let hi : Int := if signed then 2 ^ (w - 1) - 1 else 2 ^ w - 1
  wrap w (max lo (min hi x))

end Sys2Proof.Machine
end

