-- ==== Sys2Proof/Machine/Hash.lean ====
section
/-! DEFINITION. Machine/Hash.lean: SHAKE256 and Ed448, the functions that R54, R55 and R57 name, as FIPS 202 and RFC 8032 define them
(PRESUMED, log entry 12). -/

namespace Sys2Proof.Machine

open Sys2Proof

/-! ## SHAKE256

The sponge's state is one number of 1600 bits, bit z of lane (x, y) at 64 (x + 5 y) + z, so that a block of bytes enters and leaves it as a
little-endian number. Rotations and round constants are computed as FIPS 202 defines them. -/

def spongeLane (a : BitVec 1600) (x y : Nat) : DWord := a.extractLsb' (64 * (x % 5 + 5 * (y % 5))) 64

/-- The state whose lanes are as given. -/
def ofLanes (f : Nat → Nat → DWord) : BitVec 1600 :=
  BitVec.ofNat 1600 ((List.range 25).foldl (fun n i => n + (f (i % 5) (i / 5)).toNat * 2 ^ (64 * i)) 0)

/-- Mixes each lane with the parities of the columns beside it. -/
def thetaStep (a : BitVec 1600) : BitVec 1600 :=
  let parity := fun x => (List.range 5).foldl (fun p y => p ^^^ spongeLane a x y) 0
  ofLanes fun x y => spongeLane a x y ^^^ parity (x + 4) ^^^ (parity (x + 1)).rotateLeft 1

/-- Rotates the lanes and moves each to its place: the walk from (1, 0) meets the lanes other than (0, 0) one after another, the t-th being
rotated by the (t + 1)-th triangular number and put where the walk goes next. -/
def rhoPiStep (a : BitVec 1600) : Nat → Nat → Nat × Nat → BitVec 1600 → BitVec 1600
  | 0, _, _, b => b
  | n + 1, t, (x, y), b =>
    let to_ := (y, (2 * x + 3 * y) % 5)
    let lane := (spongeLane a x y).rotateLeft ((t + 1) * (t + 2) / 2 % 64)
    rhoPiStep a n (t + 1) to_ (b ||| BitVec.ofNat 1600 (lane.toNat * 2 ^ (64 * (to_.1 + 5 * to_.2))))

/-- The nonlinear step, along each row. -/
def chiStep (a : BitVec 1600) : BitVec 1600 :=
  ofLanes fun x y => spongeLane a x y ^^^ (spongeLane a (x + 2) y &&& ~~~(spongeLane a (x + 1) y))

/-- The shift register whose low bits make the round constants. -/
def rcBit : Nat → Nat
  | 0 => 1
  | t + 1 => let r := 2 * rcBit t; if r ≥ 256 then (r - 256) ^^^ 0x71 else r

/-- The constant of a round: bit 2^j - 1 is the register's after 7 × round + j shifts. -/
def roundConst (n : Nat) : Nat := (List.range 7).foldl (fun c j => c + rcBit (7 * n + j) % 2 * 2 ^ (2 ^ j - 1)) 0

/-- The permutation of 24 rounds. -/
def permute (a : BitVec 1600) : BitVec 1600 :=
  (List.range 24).foldl (fun s n =>
    let u := thetaStep s
    chiStep (rhoPiStep u 24 0 (1, 0) (u &&& 0xFFFFFFFFFFFFFFFF)) ^^^ BitVec.ofNat 1600 (roundConst n)) a

/-- The bytes that the sponge gives, 136 at a time. -/
def squeeze : Nat → BitVec 1600 → List Byte
  | 0, _ => []
  | n + 1, a => leBytes 136 a.toNat ++ squeeze n (permute a)

/-- SHAKE256 of a message, to `n` bytes: the message as a number, with the suffix of a SHAKE and the padding's last bit, goes in block by block. -/
def shake256 (msg : List Byte) (n : Nat) : List Byte :=
  let k := msg.length / 136 + 1
  let m := ofLe msg + 0x1F * 2 ^ (8 * msg.length) + 2 ^ (1088 * k - 1)
  let full := (List.range k).foldl (fun a i => permute (a ^^^ BitVec.ofNat 1600 (m / 2 ^ (1088 * i) % 2 ^ 1088))) 0
  (squeeze (n / 136 + 1) full).take n

/-! ## Ed448 -/

def edP : Nat := 2 ^ 448 - 2 ^ 224 - 1
/-- The order of the base point. -/
def edL : Nat := 2 ^ 446 - 0x8335DC163BB124B65129C96FDE933D8D723A70AADC873D6D54A7BB0D

/-- A point of the curve x² + y² = 1 - 39081 x² y² as (X, Y, Z), with x = X / Z and y = Y / Z modulo p. -/
def edBase : Nat × Nat × Nat :=
  (224580040295924300187604334099896036246789641632564134246125461686950415467406032909029192869357953282578032075146446173674602635247710,
   298819210078481492676017930443930673437544040154080242095928241372331506189835876003536878655418784733982303233503462500531545062832660, 1)

/-- The sum of two points. -/
def edAdd (u v : Nat × Nat × Nat) : Nat × Nat × Nat :=
  let a := u.2.2 * v.2.2 % edP
  let b := a * a % edP
  let c := u.1 * v.1 % edP
  let d := u.2.1 * v.2.1 % edP
  let e := (edP - 39081) * (c * d % edP) % edP
  let f := (b + edP - e) % edP
  let g := (b + e) % edP
  let h := (u.1 + u.2.1) * (v.1 + v.2.1) % edP
  (a * f % edP * ((h + 2 * edP - c - d) % edP) % edP, a * g % edP * ((d + edP - c) % edP) % edP, f * g % edP)

/-- The multiple of a point by the low bits of a number. -/
def edMul : Nat → Nat → Nat × Nat × Nat → Nat × Nat × Nat
  | 0, _, _ => (0, 1, 1)
  | n + 1, k, u => let r := edMul n (k / 2) (edAdd u u); if k % 2 = 1 then edAdd u r else r

/-- A power modulo p, by the low bits of the exponent. -/
def edPow : Nat → Nat → Nat → Nat
  | 0, _, _ => 1
  | n + 1, k, x => let r := edPow n (k / 2) (x * x % edP); if k % 2 = 1 then x * r % edP else r

/-- The 57 bytes of a point: y, and the low bit of x in the top bit of the last byte. -/
def edEncode (u : Nat × Nat × Nat) : List Byte :=
  let z := edPow 448 (edP - 2) u.2.2
  leBytes 56 (u.2.1 * z % edP) ++ [BitVec.ofNat 8 (u.1 * z % edP % 2 * 128)]

/-- The secret scalar of a private key: 114 bytes of its hash, the first 57 pruned. -/
def edScalar (h : List Byte) : Nat := ofLe (h.take 56) % 2 ^ 447 / 4 * 4 + 2 ^ 447

/-- The public key of a private key. -/
def ed448Public (key : List Byte) : List Byte := edEncode (edMul 448 (edScalar (shake256 key 114)) edBase)

/-- The signature by a private key of a message under a context string of at most 255 bytes. -/
def ed448Sign (key msg ctx : List Byte) : List Byte :=
  let h := shake256 key 114
  let s := edScalar h
  let dom := [0x53, 0x69, 0x67, 0x45, 0x64, 0x34, 0x34, 0x38, 0x00, BitVec.ofNat 8 ctx.length] ++ ctx
  let r := ofLe (shake256 (dom ++ h.drop 57 ++ msg) 114) % edL
  let big := edEncode (edMul 448 r edBase)
  let k := ofLe (shake256 (dom ++ big ++ edEncode (edMul 448 s edBase) ++ msg) 114) % edL
  big ++ leBytes 57 ((r + k * s) % edL)

/-- The point that 57 bytes encode: none where y is no residue, or no x has the sign. -/
def edDecode (l : List Byte) : Option (Nat × Nat × Nat) :=
  let y := ofLe (l.take 57) % 2 ^ 455
  let sign := ofLe (l.take 57) / 2 ^ 455
  let u := (y * y + edP - 1) % edP
  let v := ((edP - 39081) * (y * y % edP) + edP - 1) % edP
  let u3v := u * u % edP * u % edP * v % edP
  let x := u3v * edPow 448 ((edP - 3) / 4) (u3v * (u * u % edP) % edP * (v * v % edP) % edP) % edP
  if l.length ≠ 57 ∨ y ≥ edP ∨ v * (x * x % edP) % edP ≠ u ∨ (x = 0 ∧ sign = 1) then none
  else some (if x % 2 = sign then x else edP - x, y, 1)

/-- Whether a signature verifies under a public key: [4][S]B = [4]R + [4][k]A. -/
def ed448Verify (key msg ctx sig : List Byte) : Bool :=
  let dom := [0x53, 0x69, 0x67, 0x45, 0x64, 0x34, 0x34, 0x38, 0x00, BitVec.ofNat 8 ctx.length] ++ ctx
  let s := ofLe (sig.drop 57)
  match edDecode key, edDecode (sig.take 57) with
  | some a, some r =>
    let k := ofLe (shake256 (dom ++ sig.take 57 ++ key ++ msg) 114) % edL
    let four := fun u => edAdd (edAdd u u) (edAdd u u)
    let x := four (edMul 448 s edBase)
    let y := edAdd (four r) (four (edMul 448 k a))
    sig.length == 114 && decide (s < edL) && x.1 * y.2.2 % edP == y.1 * x.2.2 % edP && x.2.1 * y.2.2 % edP == y.2.1 * x.2.2 % edP
  | _, _ => false

end Sys2Proof.Machine
end

