-- ==== Sys2Proof/Machine/State.lean ====
section
/-! DEFINITION. Machine/State.lean: the state of one GS-FX1 package as plain data, the reasons a step can stop, and the state after
cold reset. A structure's docstring names the rules that give its fields. -/

namespace Sys2Proof.Machine

open Sys2Proof

/-- An exact value: what a float code denotes (R177, R178), as sign, significand and power of two. -/
inductive Num where
  | nan (sig : Bool)
  | inf (neg : Bool)
  | fin (neg : Bool) (m : Nat) (e : Int)
deriving DecidableEq, Repr

/-- Memory by physical byte, in one canonical form; `epoch` counts the keys each setting's HBM has had (R46), `pool` names the key under
which each 32-byte sector of the CXL pool was last written (R47), `poison` lists the poisoned 32-byte sectors of HBM and 64-byte lines of the
banks by their first byte (R110). `log` lists the bytes written, the newest first, while a tile evaluation is outstanding whose leaves they may
overtake (R215); it is the model's own. -/
structure Mem where
  cells  : List Host.Cell
  epoch  : Tbl Nat
  pool   : Tbl Nat
  poison : List Nat
  log    : Option (List Nat)
deriving DecidableEq, Repr

/-- A fixed-latency write that has not landed: register key, landing cycle, old value, and whether it marks its register because
cr.CHK.STALL was 1 (R168, R169). -/
structure Fly where
  key   : Nat
  lands : Nat
  old   : DWord
  chk   : Bool
deriving DecidableEq, Repr

/-- The same for lanes of one vector register (R168, R323): `old` holds all 32 words as they were. -/
structure VFly where
  reg   : Nat
  lanes : List Nat
  lands : Nat
  old   : List Word
  chk   : Bool
deriving DecidableEq, Repr

/-- A poison mark of a register: ADDR and DETAIL of the POISON it will raise (R166, R387, R391). -/
structure Mark where
  addr   : DWord
  detail : DWord
deriving DecidableEq, Repr

/-- A split's view (R154, R157, R158, R160): scalars, control registers by number (1-9, 0x10-0x13), the keys written since the
division, scoreboard bits, poison marks, writes in flight; `pend` are flags with the cycle in which their instruction completes and cr.FSTAT gets them
(R162). Key n is scalar n, key 256 + n control register n. -/
structure View where
  s       : Tbl DWord
  cr      : Tbl DWord
  written : List Nat
  busy    : List Nat
  marks   : Tbl Mark
  fly     : List Fly
  pend    : List (Nat × DWord)
deriving DecidableEq, Repr

inductive SplitSt where
  | free | run | join | wait | exited
deriving DecidableEq, Repr

/-- What a split in WAIT waits for. -/
inductive Wait where
  | bar (n : Nat)
  | clbar (n : Nat)
  | ckpt
deriving DecidableEq, Repr

/-- A thread that a SPAWN deposits: entry index, the entry's TARGET and blocks, and the argument words (R84). -/
structure Thread where
  idx    : Nat
  target : BitVec 16
  vblk   : Nat
  args   : List Word
deriving DecidableEq, Repr

/-- One split-table entry (R87): `readyAt` is the cycle its stall count ends (R168), `barP` the phases recorded at its last arrivals
(R356; cluster barrier n at 16 + n), `todo` the threads a SPAWN has still to deposit (R84), `ready` its place in the order in which splits became
eligible (R90). -/
structure Split where
  st      : SplitSt
  pc      : BitVec 16
  mask    : Word
  view    : View
  readyAt : Nat
  yld     : Bool
  ready   : Option Nat
  wait    : Option Wait
  barP    : Tbl Word
  todo    : Option (List Thread)
deriving DecidableEq, Repr

/-- The dispatch record (R302). -/
structure Disp where
  cpc   : BitVec 16
  defer : Word
  held  : Word
deriving DecidableEq, Repr

/-- The ERET state (R105). -/
structure Eret where
  split    : Nat
  mask     : Word
  counters : Tbl Byte
deriving DecidableEq, Repr

/-- A flash state (R93): FLASH's PC, live-ins, recipe index, restartable copies by id. -/
structure Flash where
  pc     : BitVec 16
  next   : BitVec 16
  vset   : List Nat
  sset   : List Nat
  recipe : Nat
  copies : List Nat
deriving DecidableEq, Repr

/-- A tile register's state (R196). -/
inductive TileSt where
  | value | pending (node : Nat) | forced (force : Nat) | poisoned
deriving DecidableEq, Repr

/-- A physical tile: shape, source format of its elements, and the elements that are not +0, at 64 × row + column. -/
structure Tile where
  rows  : Nat
  cols  : Nat
  fmt   : Ty
  elems : Tbl Num
deriving DecidableEq, Repr

/-- A tile register; `src` is the force that last wrote it or will, while its flags and faults are unreported (R213, R214). -/
structure TileReg where
  st   : TileSt
  tile : Tile
  src  : Option Nat
deriving DecidableEq, Repr

/-- An operand reference of a node (R197): a node; the value of a register; the value that a force will write to a register, with its shape;
the value of a register whose force faulted (R205); a slot. -/
inductive Ref where
  | node (n : Nat)
  | tile (t : Nat) (v : Tile)
  | fut (t force rows cols : Nat)
  | bad (t rows cols : Nat)
  | slot (w : Nat)
deriving DecidableEq, Repr

/-- A product's flags (R373). `kv` is the valid K count, `kcap` its capacity. -/
structure ProdF where
  nega : Bool
  negb : Bool
  tra  : Bool
  trb  : Bool
  q    : Nat
  rnd  : Rmo
  bf16 : Bool
  kv   : Nat
  kcap : Nat
deriving DecidableEq, Repr

/-- A node's kind (R197). -/
inductive NodeKind where
  | tld (space : Space) (addr : DWord) (rec : Option Nat) (ty : Ty) (ver : Nat)
  | tldv (id : Nat) (t : Tile)
  | prod (f : ProdF) (a b : Ref) (c : Option Ref)
  | trn (a : Ref)
  | cvt (ty : Ty) (rnd : Rmo) (nosat : Bool) (a : Ref)
  | wld (slot : Nat)
deriving DecidableEq, Repr

/-- A node (R197); its key in the graph buffer is its creation sequence number. -/
structure Node where
  kind : NodeKind
  rows : Nat
  cols : Nat
  pc   : BitVec 16
deriving DecidableEq, Repr

/-- A fault of an evaluation, as R214 reports it. -/
structure GFault where
  cause : Byte
  sub   : BitVec 16
  addr  : DWord
  opc   : BitVec 16
deriving DecidableEq, Repr

/-- What one element of a leaf gives to an evaluation (R215): the bytes it is read from, and the rows and columns, or single elements at
64 × row + column, of the evaluated tile that it is a term of. -/
structure Feed where
  bytes : List Nat
  rows  : List Nat
  cols  : List Nat
  cells : List Nat
deriving DecidableEq, Repr

/-- What a strand keeps of a force it issued until it is reported (R203, R213, R214): the register, the root node and its shape, whether
it has completed and how, its batch once closed, whether it was explicit, whether the instruction now held issued it, and the subrange
that a TRDV's force of one computed (R204); `feeds` are its leaves' elements, and `since` the length of the memory's log when it was issued
(R215). -/
structure ForceRec where
  tile  : Nat
  root  : Nat
  rows  : Nat
  cols  : Nat
  done  : Bool
  fault : Option GFault
  flags : DWord
  batch : Option Nat
  carry : Bool
  sub   : Option Tile
  feeds : List Feed
  since : Nat
deriving DecidableEq, Repr

/-- A force in a core's queue (R203) with the subgraph it evaluates: the demanded region, the contract and the control registers it reads,
its slots, the nodes that are named or referenced outside the subgraph (R210), the length of the memory's log when it was issued, and memory as it
stood at the strand's last TFENCE before that (R215). -/
structure Force where
  id       : Nat
  gang     : Nat
  strand   : Nat
  gen      : BitVec 16
  tile     : Nat
  root     : Nat
  nodes    : Tbl Node
  r0       : Nat
  nr       : Nat
  c0       : Nat
  nc       : Nat
  whole    : Bool
  contract : Nat
  rmode    : DWord
  srkey    : DWord
  slots    : List Nat
  outer    : List Nat
  since    : Nat
  fenced   : Mem
deriving DecidableEq, Repr

/-- A store that a strand has issued and that is not performed (R245, R256): its bytes, the splits in whose program it is (R158, R307), and whether a
write-combining page merges it. -/
structure Posted where
  addr  : Nat
  bytes : List Byte
  seen  : List Nat
  comb  : Bool
deriving DecidableEq, Repr

/-- A strand (R154). `posted` are its stores not yet performed, the oldest first; `fenced` is memory as its last TFENCE left it, or as its gang was
launched (R215). -/
structure Strand where
  slot      : Nat
  gen       : BitVec 16
  role      : Nat
  idx       : Nat
  entry     : Option Nat
  vblk      : Nat
  vbase     : Nat
  ntiles    : Nat
  vacant    : Word
  counters  : Tbl Byte
  v         : Tbl Word
  vbusy     : List Nat
  vmarks    : Tbl Mark
  vfly      : List VFly
  splits    : Tbl Split
  disp      : Option Disp
  olc       : Nat
  eret      : Option Eret
  image     : Tbl Byte
  flash     : Option Flash
  committed : Bool
  recipe    : Option (BitVec 16)
  tregs     : Tbl TileReg
  graph     : Tbl Node
  nextSeq   : Nat
  tfences   : Nat
  fenced    : Mem
  batchNo   : Nat
  forces    : Tbl ForceRec
  plan      : Option (List DWord)
  posted    : List Posted
  initV     : Tbl Word
  initView  : View
  initPc    : BitVec 16
  exited    : Bool
  freed     : Bool
  atFlash   : Bool
deriving DecidableEq, Repr

/-- A barrier's COUNT, ARR and PHASE (R355), with who arrived in the phase (for the withdrawal of R96). -/
structure Bar where
  count : Nat
  arr   : Nat
  phase : Word
  who   : List Nat
deriving DecidableEq, Repr

/-- One plane of a weight slot (R217). `keep` lists the pruned (k, n) positions as k × 64 + n of 2:4 weights (R220). -/
structure Plane where
  ver     : Word
  fmt     : Ty
  kr      : Nat
  nc      : Nat
  sp      : Bool
  loading : Bool
  pois    : Bool
  pc      : BitVec 16
  fault   : Option GFault
  elems   : Tbl Num
  pruned  : List Nat
deriving DecidableEq, Repr

/-- A WLD's load in flight (R218), with what a force has of memory (R383). -/
structure WLoad where
  slot   : Nat
  strand : Nat
  node   : Nat
  addr   : DWord
  ty     : Ty
  sp     : Bool
  cb     : Nat
  pc     : BitVec 16
  since  : Nat
  fenced : Mem
deriving DecidableEq, Repr

/-- A role descriptor (R31). -/
structure Role where
  ovl     : DWord
  ovlLen  : Nat
  entry   : Nat
  strands : Nat
  vblk    : Nat
  tiles   : Nat
deriving DecidableEq, Repr

/-- A static copy schedule entry (R238). -/
structure Sched where
  scope  : Nat
  arrive : Bool
  nb     : Nat
  dsp    : Nat
  ssp    : Nat
  cpyt   : Bool
  count  : Nat
  period : Nat
  stage  : Nat
  len    : Word
  dstep  : DWord
  sstep  : DWord
  dst    : DWord
  src    : DWord
deriving DecidableEq, Repr

/-- A launch record as read (R31). -/
structure LRec where
  region   : Nat
  roles    : List Role
  contract : Nat
  nbar     : Nat
  wslots   : Nat
  spad     : Nat
  sched    : List Sched
  dtbase   : DWord
  dtlen    : Word
  recipe   : DWord
  args     : List DWord
deriving DecidableEq, Repr

/-- Where a gang stands between the walk and its exit (R76, R80, R82, R96, R102, R108). A stopping gang is `judged` once the arrivals that
were in flight have landed and its uncommitted strands are rewound. -/
inductive Phase where
  | walk | placer | loading | running | suspended
  | stopping (since : Nat) (judged : Bool) | saving | saved | checkpointing | dead
deriving DecidableEq, Repr

/-- A co-schedule group's cluster barriers (R357); `inflight` are arrivals on their way (gang, strand, split), `release` completed
phases whose waiters are still to be released. -/
structure Group where
  gangs    : List Nat
  bars     : Tbl Bar
  inflight : List (Nat × Nat × Nat × Nat)
  release  : List Nat
deriving DecidableEq, Repr

/-- An RCB's fields (R34). -/
structure Rcb where
  ovr     : DWord
  prio    : Nat
  flags   : Byte
  pmode   : Nat
  ckptn   : Nat
  setmask : BitVec 16
  tslice  : Nat
  handler : DWord
  hentry  : BitVec 16
  hlen    : Nat
  fring   : DWord
  frlog2  : Nat
  budgets : List Nat
deriving DecidableEq, Repr

/-- A region (R34-R39). `usage` holds gangs, blocks, scratchpad KiB, tiles, weight slots, lockets. -/
structure Region where
  parent     : Nat
  depth      : Nat
  rcb        : Rcb
  image      : Option DWord
  usage      : List Nat
  dropped    : Word
  dirty      : Bool
  wbAt       : Nat
  destroying : Bool
  lastSet    : Nat
  lastClus   : Nat
deriving DecidableEq, Repr

inductive LrtSt where
  | free | pending | migrated | resolved | tarnished
deriving DecidableEq, Repr

/-- A message of R74, types 0x1 to 0x6, with its destination package. -/
structure Msg where
  ty  : Nat
  dst : Nat
  h   : MsgHdr
deriving DecidableEq, Repr

/-- An LRT entry (R67). `genA` is the generation it was allocated with (R69), `pgen` its peer's; the last fields are a proxy's:
its gang, the addressed proxy, the sequence number it runs at, and what it will launch with. -/
structure Lrt where
  st      : LrtSt
  proxy   : Bool
  rel     : Bool
  onull   : Bool
  upv     : Bool
  cause   : Byte
  root    : Byte
  lflags  : Byte
  gen     : Nat
  genA    : Nat
  origin  : Nat
  peer    : Nat
  ppart   : Nat
  peerIdx : Nat
  peerGen : Nat
  upidx   : Nat
  region  : Nat
  rva     : DWord
  rlen    : Word
  fq      : List Msg
  nextSeq : Nat
  gang    : Option Nat
  upProxy : Option Nat
  aseq    : Nat
  waits   : Bool
  lrec    : Option LRec
  args    : List DWord
  queue   : Option (Nat × Nat)
deriving DecidableEq, Repr

/-- An intermediate entry that a walk cache holds (R120): the level of the table it names, the VA's bits above that table's reach, the table. -/
structure WalkEnt where
  level  : Nat
  prefix_ : Nat
  table  : Nat
deriving DecidableEq, Repr

/-- A cached translation (R120): virtual page, page bits, and the leaf's 128 bits. -/
structure TlbEnt where
  vpage : Nat
  bits  : Nat
  pte   : Nat
  slot  : Nat
deriving DecidableEq, Repr

/-- An open capture generation (R130, R131). -/
structure CapGen where
  area  : DWord
  bytes : Nat
  used  : Nat
  pages : Nat
  queue : Nat
  cmd   : Nat
  first : Option DWord
deriving DecidableEq, Repr

/-- An entry of the pool-fault queue still to be written (R128). -/
structure PFault where
  va     : DWord
  seq    : Nat
  core   : Nat
  desc   : Byte
  write  : Bool
  region : Nat
  gang   : Nat
deriving DecidableEq, Repr

/-- A formed partition (R42-R45), and the registers its exporter holds for it. -/
structure Part where
  eftbase  : DWord
  eftctl   : DWord
  ptbase   : DWord
  tlbva    : DWord
  tlbBusy  : Bool
  pfqbase  : DWord
  pfqctl   : DWord
  regions  : Tbl Region
  lrt      : Tbl Lrt
  tlb      : List TlbEnt
  walkc    : List WalkEnt
  pfSeq    : Nat
  pfWait   : List PFault
  capG     : Bool
  cap      : Option CapGen
  capWait  : List CapGen
  codebook : Tbl (List Byte)
deriving DecidableEq, Repr

/-- A layout record in one of Limran's copies (R43): byte `i` listed where it is not zero. -/
abbrev Layout := Tbl Byte

inductive CopyCls where
  | local_ | fabric | pool
deriving DecidableEq, Repr

/-- A copy's kind with the operands of its own (R358-R364, R396). -/
inductive CopyKind where
  | cpy
  | cpyt (srec drec : Nat)
  | cpyg (w : Nat) (list : Nat)
  | cpyd (sty : Option Ty) (cb : Nat) (cap : Nat)
  | ovld (off : Nat) (len : Nat) (id : Nat) (entry : Nat)
  | cbld (slot : Nat)
  | lkget (locket : DWord) (loc : Option (Nat × Nat))
deriving DecidableEq, Repr

inductive CopySt where
  | queued | active | parked (seq : Nat)
deriving DecidableEq, Repr

/-- A remote request of a copy (R74): tag, the link it left on, target package and partition, VA there, bytes, whether it writes, the unit it
is for, bytes, data and status that the answers have brought so far (a write's data are those it sends), and the virtual page and page bits of the
translation it was sent through (R120). -/
structure RemReq where
  tag    : Nat
  link   : Nat
  pkg    : Nat
  part   : Nat
  va     : Nat
  bytes  : Nat
  write  : Bool
  index  : Nat
  got    : Nat
  data   : List Byte
  status : Byte
  via    : Option (Nat × Nat)
deriving DecidableEq, Repr

/-- A copy descriptor (R229-R233): `want` is `valid` as issued; `valid` and `moved` count units of `unit` bytes (elements of a CPYD); `bad` is a status it completes
with; `image` collects an OVLD's or CBLD's bytes; `latch` holds the aligned 8-byte units of its source that it has read and not used up (R234). -/
structure Copy where
  id     : Nat
  gang   : Nat
  strand : Nat
  gen    : BitVec 16
  split  : Nat
  pc     : BitVec 16
  cls    : CopyCls
  kind   : CopyKind
  dsp    : Space
  ssp    : Space
  dst    : DWord
  src    : DWord
  valid  : Nat
  want   : Nat
  unit   : Nat
  token  : Nat
  scope  : Nat
  nb     : Option Nat
  sched  : Option (Nat × Nat)
  slot   : Nat
  st     : CopySt
  moved  : Nat
  recs   : Option (List Byte × List Byte)
  idxs   : List Nat
  bad    : Option Byte
  rem    : List RemReq
  image  : List Byte
  latch  : Tbl (List Byte)
deriving DecidableEq, Repr

/-- One lane's part of a bank command. -/
structure BLane where
  lane : Nat
  addr : Nat
  data : DWord
  key  : DWord
deriving DecidableEq, Repr

/-- A bank command's kind with the operands of its own (R139-R151). Offsets are partition-share bytes. -/
inductive BankKind where
  | bred (op : ROp) (ty : Ty)
  | bxadd
  | bxrd (f64 : Bool) (dst : Nat)
  | bxclr
  | baxpy (a : Word) (x y : Nat)
  | bewu (op : EwOp) (a b : Word) (x y : Nat)
  | ksinit (obj seed sigma dep w : Nat)
  | ksupd (obj seed dep w : Nat) (sigma e : Int)
  | ksqry (obj seed dep w : Nat) (sigma : Int) (dst : Nat)
  | ksadd (dst src : Nat) (dep w : Nat)
deriving DecidableEq, Repr

/-- A bank command that has issued and not completed (R136, R137): `cur` of its `total` requests have been performed, and `fetched` of the `reads` visits
at the banks of an operand, whose lines it carries on (R132; none where one was poisoned); `acq` marks an `.msacq` (R138); `fn` is the function of
its gang (R137). -/
structure BankWork where
  id     : Nat
  fn     : Nat
  gang   : Nat
  strand : Nat
  gen    : BitVec 16
  split  : Nat
  part   : Nat
  pc     : BitVec 16
  kind   : BankKind
  lanes  : List BLane
  cur    : Nat
  total  : Nat
  fetched : Nat
  reads  : Nat
  carry  : Tbl (Option (List Byte))
  token  : Nat
  acq    : Bool
  mode   : Nat
  bits   : BitVec 3
  count  : Nat
  out    : Tbl DWord
  outMark : Tbl Mark
  ksat   : Bool
deriving DecidableEq, Repr

/-- Where a landing value goes. -/
inductive LDest where
  | s (r : Nat)
  | v
deriving DecidableEq, Repr

/-- A landing-buffer entry (R165, R166): vector words at reg × 32 + lane, or one scalar; `regs` are the registers it frees. -/
structure Landing where
  id     : Nat
  gang   : Nat
  strand : Nat
  gen    : BitVec 16
  split  : Nat
  dest   : LDest
  sval   : DWord
  vval   : Tbl Word
  regs   : List Nat
  mark   : Option Mark
  flags  : DWord
  wait   : Option Nat
deriving DecidableEq, Repr

/-- A spawn bin (R84). `by_` lists the strands and splits whose SPAWNs have put threads in it. -/
structure Bin where
  gang    : Nat
  entry   : Nat
  target  : BitVec 16
  vblk    : Nat
  threads : List (List Word)
  first   : Nat
  spwt    : Nat
  due     : Bool
  by_     : List (Nat × Nat)
  fullAt  : Option Nat
  cr      : Tbl DWord
deriving DecidableEq, Repr

/-- A locket or status word still to be written to its register, no sooner than cycle `due` (R393): its value, or none while an LKWAIT waits
on its entry. An LKSTAT (`lstat`) reads its entry, of generation `lgen`, between its issue and the write. -/
structure LkRes where
  id     : Nat
  gang   : Nat
  strand : Nat
  gen    : BitVec 16
  split  : Nat
  reg    : Nat
  part   : Nat
  val    : Option DWord
  entry  : Nat
  lstat  : Bool
  lgen   : Nat
  due    : Nat
deriving DecidableEq, Repr

/-- A gang (R31, R76 and the rules of its parts). `half` is the part of its core that it lies in (R101: 0 the whole, 1 and 2 the halves); `own` are
granules that its OVLDs wrote and `fetched` the step of each granule's last fetch (R173); `savedCl` and `savedFly` are a checkpoint's cluster
barriers and arrivals in flight (R102, R357); `rewound` are restartable copies of rewound strands, taken off the core (R93, R98); `suspendAt` marks one that
a context restore brings back as suspended (R112). -/
structure Gang where
  part     : Nat
  fn       : Nat
  queue    : Option Nat
  cmd      : Nat
  region   : Nat
  index    : Nat
  count    : Nat
  lrec     : LRec
  arrival  : Nat
  group    : Option Nat
  phase    : Phase
  core     : Nat
  lastCore : Nat
  spUnit   : Nat
  half     : Nat
  wslots   : List Nat
  bars0    : List Nat
  tiles    : List Nat
  slice    : Nat
  expired  : Bool
  waitFrom : Nat
  charged  : Bool
  flags    : Byte
  pmode    : Nat
  ckptn    : Nat
  handler  : DWord
  hentry   : BitVec 16
  hlen     : Nat
  code     : Tbl Byte
  evicted  : List Nat
  own      : List Nat
  fetched  : Tbl Nat
  ovd      : Tbl DWord
  bars     : Tbl Bar
  stage    : Word
  lap      : Word
  lapAt    : List Nat
  planes   : Tbl Plane
  wloads   : List WLoad
  strands  : Tbl Strand
  fresh    : Bool
  savedSp  : Option (Tbl Byte)
  saveLen  : Nat
  rewound  : List Copy
  savedBins : List Bin
  savedLk  : List LkRes
  savedCl  : Tbl Bar
  savedFly : List (Nat × Nat × Nat × Nat)
  killed   : Bool
  locket   : DWord
  proxy    : Option Nat
  s4s7     : List DWord
  suspendAt : Bool
deriving DecidableEq, Repr

/-- A core (R77, R110, R135, R165, R203, R229, R237); `issued` is the last cycle up to which port A (0) or B (1) is taken (R90, R339); `failed`: a test found it bad, and it stays quarantined until cold reset (R111). -/
structure Core where
  quarantined : Bool
  failed      : Bool
  drain       : Option Nat
  fenced      : BitVec 4
  slotErr     : Tbl (List Nat)
  copies      : List Copy
  forces      : List Force
  engine      : Option Nat
  rbuf        : Tbl (List Byte)
  recs        : Tbl (List Byte)
  landing     : List Landing
  bank        : List BankWork
  bins        : Tbl Bin
  gens        : Tbl (BitVec 16)
  issued      : Tbl Nat
deriving DecidableEq, Repr

/-- A queue descriptor as read (R19). -/
structure QDesc where
  ring   : DWord
  log2n  : Nat
  prio   : Nat
  region : Nat
  vec    : Nat
  ciwb   : DWord
  errw   : DWord
deriving DecidableEq, Repr

/-- What a command that has been taken still has to do (R28, R29); one that has `failed` never completes. -/
inductive CmdKind where
  | launch (rec : LRec) (next : Nat) (left : Nat) (total : Nat) (started : Bool)
  | regionOp
  | destroy (r : Nat)
  | invoke (va : DWord) (status : DWord) (entry : Nat) (gen : Nat)
  | capture
  | signal (va : DWord) (value : DWord) (irq : Bool) (vec : Nat)
  | fence (memwait : Bool) (va : DWord) (value : DWord) (polled : Nat)
  | failed
deriving DecidableEq, Repr

structure Cmd where
  id   : Nat
  op   : Byte
  idx  : Nat
  tag  : Word
  kind : CmdKind
deriving DecidableEq, Repr

/-- A queue (R19-R30): `bound` and `idle` are the cycles since which its slot is bound and idle, `stop` marks a queue that a context save
has stopped, `cmds` are the commands taken and not completed, in ring order. -/
structure Queue where
  valid  : Bool
  func   : Nat
  en     : Bool
  err    : Bool
  pidx   : Word
  cidx   : Word
  desc   : QDesc
  bound  : Option Nat
  idle   : Option Nat
  stop   : Bool
  cmds   : List Cmd
  nextCmd : Nat
deriving DecidableEq, Repr

/-- A function's own registers (R49, R50, R56, R108) and what runs for it (R51, R52). -/
inductive FlrSt where
  | off | drain (since : Nat) | scrub
deriving DecidableEq, Repr

structure Fn where
  vfOn      : Bool
  qtbase    : DWord
  dncnt     : Word
  ctx       : Nat
  ctxOp     : Nat
  ctxva     : DWord
  nonce     : Tbl Byte
  attStatus : Nat
  attCap    : Option (List Byte × List Byte)
  window    : Tbl Byte
  gcStatus  : Nat
  gcStrand  : Nat
  gcCore    : Nat
  msix      : Tbl Byte
  pba       : List Nat
  flr       : FlrSt
deriving DecidableEq, Repr

/-- A context image of R51: what a restore re-creates. Its bytes, `Config.imageBytes id`, are meaningful only to a restore; this is their
meaning. -/
structure CtxImage where
  id     : Nat
  part   : Nat
  queues : Tbl Queue
  gangs  : Tbl Gang
  ckpts  : Tbl Gang
  groups : Tbl Group
deriving DecidableEq, Repr

/-- A peer package (R73, R74); `any`: a message of it has been delivered. -/
structure Peer where
  tx      : Word
  rx      : Word
  any     : Bool
  unacked : List (Word × Msg × Nat)
  early   : List Msg
  heard   : Nat
  sent    : Nat
  unreach : Bool
deriving DecidableEq, Repr

/-- A torc link (R13-R15); `asks` are the sequence numbers from which its link layer has asked for a replay, and `slot` is the next transmit slot of
its frame (R48). -/
structure Link where
  up      : Bool
  replays : Nat
  rxSeq   : BitVec 16
  txSeq   : BitVec 16
  perr    : Word
  asks    : List (BitVec 16)
  slot    : Nat
deriving DecidableEq, Repr

inductive Clock where
  | ghz17 | ghz15 | ghz12
deriving DecidableEq, Repr

/-- A flit handed to a link, where it waits for a transmit slot (R14, R15, R48): the link, the type, the destination package and the content.
An acknowledgement has the virtual channel of the message it acknowledges, the partition that sent that message and the one it was for. -/
inductive OutFlit where
  | msg (link : Nat) (m : Msg)
  | ack (link : Nat) (dst vc dpart spart : Nat) (mseq : Word)
  | keepAlive (link : Nat) (dst : Nat)
  | copy (link : Nat) (dst : Nat) (ty : Nat) (c : CopyFlit)
deriving DecidableEq, Repr

/-- A flit that has been transmitted, with the link sequence number it went under (R14). -/
structure Flit where
  seq     : BitVec 16
  content : OutFlit
deriving DecidableEq, Repr

/-- What Limran's management log holds (R11, R15, R16, R223). -/
inductive LogItem where
  | ucieDegraded (m : Nat) | ucieDown | thermalTrip | protocolError (link : Nat) | slotFenced (core slot : Nat)
  | management (src : Nat) (payload : List Byte) | layout (status : Nat)
deriving DecidableEq, Repr

/-- The clasp triggers of one cycle on their way (R17): issue cycle, how many, the lowest 32 × core + slot that issued one (R401; 65,536 for
another source), source mask, tag. -/
structure Trig where
  at_ : Nat
  n   : Nat
  who : Nat
  src : BitVec 16
  tag : BitVec 16
deriving DecidableEq, Repr

/-- What volend makes of an image (R175): the native image, or the offset at which it fails. -/
inductive Native where
  | image (l : List Byte)
  | failed (off : Nat)
deriving DecidableEq, Repr

/-- A translation-cache entry (R176): image, what it became, visibility bits, partitions whose loads wait, and the step of its last use. -/
structure Trans where
  id     : Nat
  image  : List Byte
  native : Native
  vis    : BitVec 16
  busy   : List Nat
  used   : Nat
deriving DecidableEq, Repr

/-- The snapshot registers (R17, R18, R401): every block's architectural state; `banks` are the bank and scratchpad bytes, `poison` their poisoned units. -/
structure Snap where
  at_    : Nat
  src    : BitVec 16
  tag    : BitVec 16
  gangs  : Tbl Gang
  cores  : Tbl Core
  queues : Tbl Queue
  parts  : Tbl Part
  groups : Tbl Group
  ckpts  : Tbl Gang
  fns    : Tbl Fn
  peers  : Tbl Peer
  lkres  : List LkRes
  trans  : List Trans
  banks  : List Host.Cell
  poison : List Nat
deriving DecidableEq, Repr

/-- The package: clocks, links, clasp, PF0's registers, layout (R9, R11, R13-R17, R43-R46, R48-R50, R61, R100). `mpUp`: Limran runs; `layGo`
to `layFlipped`: an open layout request and how far it has got; `out` waits for transmit slots and `sent` has gone; `held` are write-data flits that
came and wait for a capture (R130); `msixOut` waits for the host link and `hostOut` has gone, `hostRr` being the function served last. -/
structure Pkg where
  clock    : Clock
  hot      : Bool
  power    : List Nat
  trip     : Bool
  mpUp     : Bool
  ucie0    : Bool
  ucie1    : Bool
  armed    : Bool
  trig     : List Trig
  snap     : Option Snap
  missed   : BitVec 16
  links    : Tbl Link
  log      : List LogItem
  out      : List OutFlit
  sent     : List Flit
  held     : List CopyFlit
  msixOut  : List (Nat × Nat)
  hostOut  : List (Nat × Nat)
  hostRr   : Nat
  numVfs   : Nat
  pkgidSet : Bool
  pkgid    : Nat
  rtbase   : DWord
  routes   : Tbl (BitVec 16)
  layGo    : Bool
  layStat  : Nat
  layReq   : Layout
  layA     : Layout
  layB     : Layout
  layActB  : Bool
  layFlipped : Bool
  scrub    : BitVec 16
  half     : BitVec 16
  cecnt    : Tbl Nat
deriving DecidableEq, Repr

inductive Lcs where
  | manufacture | provisioned | deployed | debug | retired
deriving DecidableEq, Repr

/-- The security engine (R54-R60). `meas` holds slots 0 to 3, and slot 4 of partition p at 16 + p; `keyGens` the key generations of each
partition (R55); `unlock` a good token that waits for the open layout request to report (R60 step 3). -/
structure Sec where
  seed      : Option (List Byte)
  dbgHash   : List Byte
  fused     : Lcs
  lcs       : Lcs
  portOpen  : Bool
  challenge : Option (List Byte)
  mbox      : Nat
  meas      : Tbl (List Byte)
  keyGens   : Tbl Nat
  rcount    : DWord
  unlock    : Option (List Byte)
deriving DecidableEq, Repr

/-- Who an instruction's meaning acts for: gang, strand, split. -/
structure Cur where
  g : Nat
  t : Nat
  x : Nat
deriving DecidableEq, Repr

/-- A pending outside event and the step from which it may be taken. -/
structure Stim where
  due : Nat
  ev  : Instr
deriving DecidableEq, Repr

/-- The whole package. `cycle` is the device cycle counter (R161); `stepNo`, `cur`, `stim` and `nextId` are the model's own; `mail`
holds messages within the package, with the cycle from which each may arrive (R73). -/
structure State where
  cycle  : Nat
  stepNo : Nat
  nextId : Nat
  cur    : Cur
  stim   : List Stim
  pkg    : Pkg
  sec    : Sec
  fns    : Tbl Fn
  queues : Tbl Queue
  rr     : Tbl Nat
  parts  : Tbl Part
  peers  : Tbl Peer
  mail   : List (Nat × Msg)
  cores  : Tbl Core
  gangs  : Tbl Gang
  ckpts  : Tbl Gang
  groups : Tbl Group
  lkres  : List LkRes
  trans  : List Trans
  ctxs   : List CtxImage
  mem    : Mem
deriving DecidableEq, Repr

/-- Why the machine stops. -/
inductive Fault where
  /-- Raised by the meaning of a Kweyn-N instruction when State.cur names no split in RUN: no step of the machine does that, since
  step sets cur to a split it found. Safe: nothing is proved of a state in which nothing issues. -/
  | noIssuingSplit
deriving DecidableEq, Repr

/-- Why an instruction has no meaning. -/
inductive Refusal where
  /-- An instruction whose meaning is still to be written. Safe. -/
  | notModelled (mnemonic : String)
deriving DecidableEq, Repr

def View.empty : View := { s := [], cr := [], written := [], busy := [], marks := [], fly := [], pend := [] }

def Split.none : Split :=
  { st := .free, pc := 0, mask := 0, view := View.empty, readyAt := 0, yld := false, ready := Option.none, wait := Option.none, barP := [], todo := Option.none }

def Tile.zero : Tile := { rows := 64, cols := 64, fmt := .bf16, elems := [] }

def TileReg.zero : TileReg := { st := .value, tile := Tile.zero, src := none }

def Plane.zero : Plane :=
  { ver := 0, fmt := .bf16, kr := 0, nc := 0, sp := false, loading := false, pois := false, pc := 0, fault := none, elems := [],
    pruned := [] }

def Core.reset : Core :=
  { quarantined := false, failed := false, drain := none, fenced := 0, slotErr := [], copies := [], forces := [], engine := none, rbuf := [], recs := [],
    landing := [], bank := [], bins := [], gens := [], issued := [] }

def Queue.reset : Queue :=
  { valid := false, func := 0, en := false, err := false, pidx := 0, cidx := 0,
    desc := { ring := 0, log2n := 0, prio := 0, region := 0, vec := 0, ciwb := 0, errw := 0 },
    bound := none, idle := none, stop := false, cmds := [], nextCmd := 0 }

/-- A function's registers at reset (R50, R56, R108). `on` is the VF Enable state (PF0 is always present). R52 names no report window among what a
reset scrubs; the model clears it with the report (DESIGN CHOICE, log entry 20). -/
def Fn.reset (on : Bool) : Fn :=
  { vfOn := on, qtbase := 0, dncnt := 0, ctx := 0, ctxOp := 0, ctxva := 0, nonce := [], attStatus := 0, attCap := none, window := [],
    gcStatus := 0, gcStrand := 0, gcCore := 0, msix := [], pba := [], flr := .off }

def Link.reset : Link := { up := true, replays := 0, rxSeq := 0, txSeq := 0, perr := 0, asks := [], slot := 0 }

def Peer.reset : Peer := { tx := 0, rx := 0, any := false, unacked := [], early := [], heard := 0, sent := 0, unreach := false }

/-- R35: the root's RCB when the partition is formed, but for SETMASK. -/
def Rcb.root (setmask : BitVec 16) : Rcb :=
  { ovr := BitVec.allOnes 64, prio := 0, flags := 0, pmode := 0, ckptn := 1, setmask := setmask, tslice := 64, handler := 0, hentry := 0,
    hlen := 0, fring := 0, frlog2 := 4, budgets := [0xFFFFFFFF, 0xFFFFFFFF, 0xFFFFFFFF, 0xFFFFFFFF, 0xFFFFFFFF, 0xFFFFFFFF] }

def Region.make (parent depth : Nat) (rcb : Rcb) (image : Option DWord) : Region :=
  { parent := parent, depth := depth, rcb := rcb, image := image, usage := [0, 0, 0, 0, 0, 0], dropped := 0, dirty := false, wbAt := 0,
    destroying := false, lastSet := 15, lastClus := 63 }

def Part.formed (setmask : BitVec 16) : Part :=
  { eftbase := 0, eftctl := 0, ptbase := 0, tlbva := 0, tlbBusy := false, pfqbase := 0,
    pfqctl := 0x400, regions := [(0, Region.make 0 0 (Rcb.root setmask) none)], lrt := [], tlb := [], walkc := [], pfSeq := 0, pfWait := [],
    capG := false, cap := none, capWait := [], codebook := [] }

def Lrt.freshEntry (gen : Nat) : Lrt :=
  { st := .free, proxy := false, rel := false, onull := false, upv := false, cause := 0, root := 0, lflags := 0, gen := gen, genA := gen,
    origin := 0, peer := 0, ppart := 0, peerIdx := 0, peerGen := 0, upidx := 0xFFFF, region := 0, rva := 0, rlen := 0, fq := [],
    nextSeq := 0, gang := none, upProxy := none, aseq := 0, waits := false, lrec := none, args := [], queue := none }

def Pkg.reset : Pkg :=
  { clock := .ghz17, hot := false, power := [], trip := false, mpUp := false, ucie0 := true, ucie1 := true, armed := true, trig := [], snap := none,
    missed := 0, links := [], log := [], out := [], sent := [], held := [], msixOut := [], hostOut := [], hostRr := 0, numVfs := 0, pkgidSet := false, pkgid := 0, rtbase := 0, routes := [],
    layGo := false, layStat := 0, layReq := [], layA := [], layB := [], layActB := false, layFlipped := false,
    scrub := 0, half := 0, cecnt := [] }

/-- The security engine of a package whose fuses are as given, right after cold reset (R54, R55, R58): slot 3 is extended with the
lifecycle code at cold reset. -/
def Sec.cold (seed : Option (List Byte)) (dbgHash : List Byte) (fused : Lcs) (code : Byte) : Sec :=
  let zero : List Byte := List.replicate 64 0
  { seed := seed, dbgHash := dbgHash, fused := fused, lcs := fused, portOpen := fused == .manufacture, challenge := none, mbox := 0,
    meas := [(0, zero), (1, zero), (2, zero), (3, shake256 (zero ++ [code]) 64)], keyGens := [], rcount := 0, unlock := none }

def Mem.reset : Mem := { cells := [], epoch := [], pool := [], poison := [], log := none }

/-- The machine right after cold reset of a part in MANUFACTURE: no partition, no queue, nothing resident. -/
def State.reset : State :=
  { cycle := 0, stepNo := 0, nextId := 1, cur := { g := 0, t := 0, x := 0 }, stim := [], pkg := Pkg.reset,
    sec := Sec.cold none [] .manufacture 0x1, fns := [(0, Fn.reset true)], queues := [], rr := [], parts := [], peers := [], mail := [],
    cores := [], gangs := [], ckpts := [], groups := [], lkres := [], trans := [], ctxs := [], mem := Mem.reset }

end Sys2Proof.Machine
end

