-- ==== Sys2Proof/Machine/Num.lean ====
section
/-! DEFINITION. Machine/Num.lean: number formats, rounding, conversion, window accumulation, transcendental functions and Bangle
(11_number_formats, R177-R195; 18 R333-R338). -/

namespace Sys2Proof.Machine

open Sys2Proof

/-- cr.FSTAT's flags as a mask (R161). -/
def fNV : DWord := 0x1
def fDZ : DWord := 0x2
def fOF : DWord := 0x4
def fUF : DWord := 0x8
def fNX : DWord := 0x10
def fWIN : DWord := 0x100
def fAUTOF : DWord := 0x200
def fKSAT : DWord := 0x400

/-- A result code with the flags it raises. -/
structure Res where
  bits  : Nat
  flags : DWord
deriving DecidableEq, Repr

/-- The floating-point formats of R177. -/
inductive FFmt where
  | f64 | f32 | f16 | bf16 | e4m3 | e5m2 | e2m1
deriving DecidableEq, Repr

def FFmt.eb : FFmt → Nat
  | .f64 => 11 | .f32 => 8 | .f16 => 5 | .bf16 => 8 | .e4m3 => 4 | .e5m2 => 5 | .e2m1 => 2

def FFmt.fb : FFmt → Nat
  | .f64 => 52 | .f32 => 23 | .f16 => 10 | .bf16 => 7 | .e4m3 => 3 | .e5m2 => 2 | .e2m1 => 1

/-- Bias, from the table of R177. -/
def FFmt.bias : FFmt → Nat
  | .f64 => 1023 | .f32 => 127 | .f16 => 15 | .bf16 => 127 | .e4m3 => 7 | .e5m2 => 15 | .e2m1 => 1

def FFmt.width (f : FFmt) : Nat := 1 + f.eb + f.fb

/-- Code of the largest finite magnitude (R178). -/
def FFmt.maxFin : FFmt → Nat
  | .e4m3 => 0x7E
  | .e2m1 => 0x7
  | f => (2 ^ f.eb - 1) * 2 ^ f.fb - 1

/-- Code of +infinity, where the format has one (R178). -/
def FFmt.infCode (f : FFmt) : Nat := (2 ^ f.eb - 1) * 2 ^ f.fb

/-- Canonical NaN (R178). -/
def FFmt.canon : FFmt → Nat
  | .e4m3 => 0x7F
  | .e2m1 => 0
  | f => (2 ^ f.eb - 1) * 2 ^ f.fb + 2 ^ (f.fb - 1)

/-- Smallest exponent of a normal value. -/
def FFmt.emin (f : FFmt) : Int := 1 - (f.bias : Int)

/-- Removes trailing zero bits of a significand, so that equal values are equal data. -/
def Num.normStep : Nat → Nat → Int → Nat × Int
  | 0, m, e => (m, e)
  | k + 1, m, e => if m % 2 = 0 then Num.normStep k (m / 2) (e + 1) else (m, e)

def Num.mk (neg : Bool) (m : Nat) (e : Int) : Num :=
  if m = 0 then .fin neg 0 0 else
    let r := Num.normStep (Nat.log2 m + 1) m e
    .fin neg r.1 r.2

def Num.zero (neg : Bool) : Num := .fin neg 0 0

/-- Decode of a float code (R177, R178). -/
def Num.decode (f : FFmt) (bits : Nat) : Num :=
  let s : Bool := (bits >>> (f.eb + f.fb)) % 2 = 1
  let ex := (bits >>> f.fb) % 2 ^ f.eb
  let fr := bits % 2 ^ f.fb
  let top := 2 ^ f.eb - 1
  let plain : Num :=
    if ex = 0 then Num.mk s fr (f.emin - f.fb) else Num.mk s (2 ^ f.fb + fr) ((ex : Int) - f.bias - f.fb)
  match f with
  | .e2m1 => plain
  | .e4m3 => if ex = top ∧ fr = 7 then .nan false else plain
  | _ =>
    if ex = top then (if fr = 0 then .inf s else .nan (fr / 2 ^ (f.fb - 1) = 0)) else plain

def Num.isNan : Num → Bool
  | .nan _ => true
  | _ => false

def Num.isSnan : Num → Bool
  | .nan s => s
  | _ => false

def Num.isInf : Num → Bool
  | .inf _ => true
  | _ => false

def Num.isZero : Num → Bool
  | .fin _ m _ => m = 0
  | _ => false

/-- Whether a number carries a minus sign. -/
def Num.sign : Num → Bool
  | .nan _ => false
  | .inf n => n
  | .fin n _ _ => n

def Num.negate : Num → Num
  | .nan s => .nan s
  | .inf n => .inf (!n)
  | .fin n m e => .fin (!n) m e

/-- A finite number's significand, signed, at the power of two `e0 ≤ e`. -/
def Num.atExp (n : Num) (e0 : Int) : Int :=
  match n with
  | .fin s m e => let v : Int := (m * 2 ^ (e - e0).toNat : Nat); if s then -v else v
  | _ => 0

def Num.exp : Num → Int
  | .fin _ _ e => e
  | _ => 0

/-- A finite number from a signed significand. -/
def Num.ofInt (v : Int) (e : Int) : Num := Num.mk (decide (v < 0)) v.natAbs e

/-- Floor(Log2(|x|)) of a nonzero finite number. -/
def Num.lead : Num → Int
  | .fin _ m e => (Nat.log2 m : Int) + e
  | _ => 0

/-- Order of two finite or infinite numbers with −0 = +0: −1, 0 or 1. -/
def Num.cmp (a b : Num) : Int :=
  match a, b with
  | .inf x, .inf y => if x = y then 0 else if x then -1 else 1
  | .inf x, _ => if x then -1 else 1
  | _, .inf y => if y then 1 else -1
  | .fin .., .fin .. =>
    let e0 := min a.exp b.exp
    let d := a.atExp e0 - b.atExp e0
    if d < 0 then -1 else if d = 0 then 0 else 1
  | _, _ => 0

/-- The order of R139 and R334, −0 below +0. -/
def Num.below (a b : Num) : Bool :=
  if a.isZero && b.isZero then a.sign && !b.sign else a.cmp b < 0

/-- Rounding modes of R186: 0 RNE, 1 RZ, 2 RU, 3 RD, 4 RS. -/
abbrev Mode := Nat

/-- Whether the magnitude m / 2^d rounds up to the next integer (R186, R187); `r` is the RS draw. -/
def roundsUp (mode : Mode) (r : Nat) (neg : Bool) (m d : Nat) : Bool :=
  let lo := m >>> d
  let rem := m % 2 ^ d
  if rem = 0 then false else
    match mode with
    | 0 => decide (2 * rem > 2 ^ d) || (decide (2 * rem = 2 ^ d) && decide (lo % 2 = 1))
    | 2 => !neg
    | 3 => neg
    | 4 => decide (r < rem * 2 ^ 32 / 2 ^ d)
    | _ => false

/-- A significand at the power of two e, rounded to a multiple of 2^q. -/
def roundAt (mode : Mode) (r : Nat) (neg : Bool) (m : Nat) (e q : Int) : Nat × Bool :=
  if q ≤ e then (m * 2 ^ (e - q).toNat, false) else
    let d := (q - e).toNat
    ((m >>> d) + (if roundsUp mode r neg m d then 1 else 0), decide (m % 2 ^ d ≠ 0))

/-- RoundTo for a finite nonzero magnitude m × 2^e, as a magnitude code, with inexactness and tininess after rounding (R186, R188). -/
def roundMag (f : FFmt) (mode : Mode) (r : Nat) (neg : Bool) (m : Nat) (e : Int) : Nat × Bool × Bool :=
  let lead := (Nat.log2 m : Int) + e
  let qmin := f.emin - f.fb
  let q := max (lead - f.fb) qmin
  let x := roundAt mode r neg m e q
  let free := roundAt mode r neg m e (lead - f.fb)
  let tiny := decide (lead < f.emin) && !(decide (lead + 1 = f.emin) && decide (free.1 ≥ 2 ^ (f.fb + 1)))
  (x.1 + (q - qmin).toNat * 2 ^ f.fb, x.2, tiny)

/-- How a conversion treats what a format cannot hold (R189). -/
inductive Sat where
  | ieee | clamp | nosat
deriving DecidableEq, Repr

def signBit (f : FFmt) (neg : Bool) : Nat := if neg then 2 ^ (f.eb + f.fb) else 0

/-- Overflow of R186 and R189: the code for a magnitude beyond the largest finite one. -/
def overflowCode (f : FFmt) (sat : Sat) (mode : Mode) (neg : Bool) : Nat :=
  match sat with
  | .clamp => signBit f neg + f.maxFin
  | .nosat => if f = .e4m3 then 0x7F else signBit f neg + f.infCode
  | .ieee =>
    match mode with
    | 1 => signBit f neg + f.maxFin
    | 2 => if neg then signBit f neg + f.maxFin else f.infCode
    | 3 => if neg then signBit f neg + f.infCode else f.maxFin
    | _ => signBit f neg + f.infCode

/-- The exact value of a magnitude code, for comparisons with the largest finite magnitude. -/
def exceedsMax (f : FFmt) (m : Nat) (e : Int) : Bool :=
  Num.cmp (.fin false m e) (Num.decode f f.maxFin) > 0

/-- The treatment of R189 for a target format: `mx` marks an MX element, `nosat` is cr.RMODE.NOSAT. -/
def satOf (f : FFmt) (mx nosat : Bool) : Sat :=
  match f with
  | .e4m3 => if nosat then .nosat else .clamp
  | .e5m2 => if mx then (if nosat then .nosat else .clamp) else .ieee
  | .e2m1 => .clamp
  | _ => .ieee

/-- RoundTo (R186) and ConvertTo (R189) to a float format: result code and flags. `r` is the RS draw (R187). -/
def convertF (f : FFmt) (sat : Sat) (mode : Mode) (r : Nat) (x : Num) : Res :=
  match x with
  | .nan s => { bits := f.canon, flags := if s then fNV else 0 }
  | .inf n =>
    match sat with
    | .ieee => { bits := signBit f n + f.infCode, flags := 0 }
    | .clamp => { bits := signBit f n + f.maxFin, flags := fOF ||| fNX }
    | .nosat => if f = .e4m3 then { bits := 0x7F, flags := fOF ||| fNX } else { bits := signBit f n + f.infCode, flags := 0 }
  | .fin n m e =>
    if m = 0 then { bits := signBit f n, flags := 0 } else
      let mode' := if mode = 4 ∧ exceedsMax f m e then 0 else mode
      let y := roundMag f mode' r n m e
      if y.1 > f.maxFin then { bits := overflowCode f sat mode' n, flags := fOF ||| fNX } else
        { bits := signBit f n + y.1, flags := if y.2.1 then (if y.2.2 then fUF ||| fNX else fNX) else 0 }

/-- RoundTo an IEEE format (R186). -/
def roundTo (f : FFmt) (mode : Mode) (r : Nat) (x : Num) : Res := convertF f .ieee mode r x

/-- Float to integer (R189): round, then clamp. -/
def convertI (signed : Bool) (w : Nat) (mode : Mode) (r : Nat) (x : Num) : Res :=
  let lo : Int := if signed then -(2 ^ (w - 1)) else 0
  let hi : Int := if signed then 2 ^ (w - 1) - 1 else 2 ^ w - 1
  match x with
  | .nan _ => { bits := 0, flags := fNV }
  | .inf n => { bits := wrap w (if n then lo else hi), flags := fNV }
  | .fin n m e =>
    let y := if m = 0 then (0, false) else roundAt mode r n m e 0
    let v : Int := if n then -(y.1 : Int) else y.1
    if v < lo then { bits := wrap w lo, flags := fNV }
    else if v > hi then { bits := wrap w hi, flags := fNV }
    else { bits := wrap w v, flags := if y.2 then fNX else 0 }

/-! ## Exact arithmetic -/

def Num.mul (a b : Num) : Num :=
  match a, b with
  | .nan s, .nan t => .nan (s || t)
  | .nan s, _ => .nan s
  | _, .nan t => .nan t
  | .inf n, y => if y.isZero then .nan true else .inf (n != y.sign)
  | x, .inf n => if x.isZero then .nan true else .inf (x.sign != n)
  | .fin n m e, .fin n' m' e' => Num.mk (n != n') (m * m') (e + e')

/-- Exact sum with the sign rule of IEEE 754 for zero: +0, but −0 when rounding down (R333). -/
def Num.add (rd : Bool) (a b : Num) : Num :=
  match a, b with
  | .nan s, .nan t => .nan (s || t)
  | .nan s, _ => .nan s
  | _, .nan t => .nan t
  | .inf n, .inf n' => if n = n' then .inf n else .nan true
  | .inf n, _ => .inf n
  | _, .inf n => .inf n
  | .fin n m _, .fin n' m' _ =>
    if m = 0 ∧ m' = 0 then Num.zero (if n = n' then n else rd) else
      let e0 := min a.exp b.exp
      let s := a.atExp e0 + b.atExp e0
      if s = 0 then Num.zero rd else Num.ofInt s e0

/-- A result of an operation on a and b: a NaN made from non-NaN operands, or a signalling operand, sets NV (R178, R188). -/
def nvOf (ops : List Num) (r : Num) : DWord :=
  if ops.any Num.isSnan then fNV else if r.isNan && !(ops.any Num.isNan) then fNV else 0

def quietN : Num → Num
  | .nan _ => .nan false
  | x => x

/-- Rounds the exact result of an operation and adds its invalid flag. -/
def finishOp (f : FFmt) (mode : Mode) (r : Nat) (ops : List Num) (x : Num) : Res :=
  let y := roundTo f mode r (quietN x)
  { bits := y.bits, flags := y.flags ||| nvOf ops x }

def fAdd (f : FFmt) (mode : Mode) (r : Nat) (a b : Num) : Res := finishOp f mode r [a, b] (Num.add (mode = 3) a b)
def fSub (f : FFmt) (mode : Mode) (r : Nat) (a b : Num) : Res := finishOp f mode r [a, b] (Num.add (mode = 3) a b.negate)
def fMul (f : FFmt) (mode : Mode) (r : Nat) (a b : Num) : Res := finishOp f mode r [a, b] (Num.mul a b)

/-- Fused multiply-add (R333): 0 × infinity sets NV even when the addend is a quiet NaN. -/
def fFma (f : FFmt) (mode : Mode) (r : Nat) (negp negc : Bool) (a b c : Num) : Res :=
  let p := Num.mul (if negp then a.negate else a) b
  let y := finishOp f mode r [a, b, c] (Num.add (mode = 3) p (if negc then c.negate else c))
  let bad := p.isNan && !(a.isNan) && !(b.isNan)
  { bits := y.bits, flags := if bad then y.flags ||| fNV else y.flags }

/-- Integer square root by bits, from bit k down. -/
def isqrtAux (n : Nat) : Nat → Nat → Nat
  | 0, acc => acc
  | k + 1, acc => let t := acc + 2 ^ k; isqrtAux n k (if t * t ≤ n then t else acc)

def isqrt (n : Nat) : Nat := isqrtAux n (Nat.log2 n / 2 + 1) 0

/-- Quotient of two significands with 160 bits more than the operands and a sticky bit, exact where it fits: rounds correctly in
every mode, RS included. -/
def quotSticky (m m' : Nat) : Nat × Int :=
  let k := 160 + Nat.log2 m'
  let q := (m * 2 ^ k) / m'
  let s := if (m * 2 ^ k) % m' = 0 then 0 else 1
  (2 * q + s, -(k : Int) - 1)

def fDiv (f : FFmt) (mode : Mode) (r : Nat) (a b : Num) : Res :=
  match a, b with
  | .fin n m e, .fin n' m' e' =>
    if m' = 0 then
      (if m = 0 then { bits := f.canon, flags := fNV }
       else { bits := signBit f (n != n') + f.infCode, flags := fDZ })
    else if m = 0 then { bits := signBit f (n != n'), flags := 0 }
    else
      let q := quotSticky m m'
      roundTo f mode r (.fin (n != n') q.1 (q.2 + e - e'))
  | .inf n, .fin n' _ _ => { bits := signBit f (n != n') + f.infCode, flags := 0 }
  | .fin n _ _, .inf n' => { bits := signBit f (n != n'), flags := 0 }
  | _, _ => finishOp f mode r [a, b] (if a.isNan || b.isNan then .nan false else .nan true)

/-- Square root of m × 2^e with a sticky bit. -/
def sqrtSticky (m : Nat) (e : Int) : Nat × Int :=
  let m1 := if e % 2 = 0 then m else 2 * m
  let e1 := if e % 2 = 0 then e else e - 1
  let x := m1 * 2 ^ 320
  let q := isqrt x
  (2 * q + (if q * q = x then 0 else 1), e1 / 2 - 160 - 1)

def fSqrt (f : FFmt) (mode : Mode) (r : Nat) (a : Num) : Res :=
  match a with
  | .nan s => { bits := f.canon, flags := if s then fNV else 0 }
  | .inf n => if n then { bits := f.canon, flags := fNV } else { bits := f.infCode, flags := 0 }
  | .fin n m e =>
    if m = 0 then { bits := signBit f n, flags := 0 }
    else if n then { bits := f.canon, flags := fNV }
    else let q := sqrtSticky m e; roundTo f mode r (.fin false q.1 q.2)

/-- Minimum or maximum of R334 and R320: −0 below +0, a NaN yields, two NaNs give the canonical NaN, NV for a signalling NaN. -/
def minMax (isMax : Bool) (a b : Num) : Num × DWord :=
  let fl : DWord := if a.isSnan || b.isSnan then fNV else 0
  if a.isNan && b.isNan then (.nan false, fl)
  else if a.isNan then (b, fl)
  else if b.isNan then (a, fl)
  else (if Num.below a b = isMax then b else a, fl)

/-- Comparison of R334. -/
def fCompare (c : Cond) (a b : Num) : Bool × DWord :=
  let un := a.isNan || b.isNan
  let sig : DWord := if a.isSnan || b.isSnan then fNV else 0
  let any : DWord := if un then fNV else 0
  match c with
  | .eq => (!un && a.cmp b = 0, sig)
  | .ne => (un || a.cmp b ≠ 0, sig)
  | .lt => (!un && a.cmp b < 0, any)
  | .le => (!un && a.cmp b ≤ 0, any)
  | .gt => (!un && a.cmp b > 0, any)
  | .ge => (!un && a.cmp b ≥ 0, any)
  | .un => (un, sig)
  | .ord => (!un, sig)

/-! ## Transcendental functions (R335): fixed-point values with far more bits than any rounding decision needs (DEDUCED, log entry 15) -/

/-- 2^(2^−k) in units of 2^−256, by repeated square roots. -/
def rootTwo : Nat → Nat
  | 0 => 2 ^ 257
  | k + 1 => isqrt (rootTwo k * 2 ^ 256)

/-- 2^f in units of 2^−256, f the fraction fr / 2^nb: the product of rootTwo k over the set bits. -/
def exp2Frac (fr nb : Nat) : Nat → Nat
  | 0 => 2 ^ 256
  | k + 1 =>
    let rest := exp2Frac fr nb k
    if (fr >>> (nb - (k + 1))) % 2 = 1 then (rest * rootTwo (k + 1)) >>> 256 else rest

def fExp2 (a : Num) : Res :=
  match a with
  | .nan s => { bits := FFmt.f32.canon, flags := if s then fNV else 0 }
  | .inf n => if n then { bits := 0, flags := 0 } else { bits := FFmt.f32.infCode, flags := 0 }
  | .fin n m e =>
    if m = 0 then { bits := 0x3F800000, flags := 0 }
    else if a.lead ≥ 9 then
      (if n then { bits := 0, flags := fUF ||| fNX } else { bits := FFmt.f32.infCode, flags := fOF ||| fNX })
    else if e ≥ 0 then
      let v : Int := (m * 2 ^ e.toNat : Nat)
      roundTo .f32 0 0 (.fin false 1 (if n then -v else v))
    else if a.lead < -40 then
      -- |a| below 2^−40: 2^a lies strictly between 1 and its neighbour, nearer to 1
      { bits := 0x3F800000, flags := fNX }
    else
      let nb := (-e).toNat
      let ip : Int := if n then -((m >>> nb : Nat) : Int) - 1 else (m >>> nb : Nat)
      let fr := if n then 2 ^ nb - m % 2 ^ nb else m % 2 ^ nb
      roundTo .f32 0 0 (.fin false (2 * exp2Frac fr nb nb + 1) (ip - 257))

/-- Bits of log2 of y / 2^448 in [1, 2): `n` bits, most significant first, by repeated squaring. -/
def log2Bits : Nat → Nat → Nat → Nat
  | 0, _, acc => acc
  | n + 1, y, acc =>
    let z := (y * y) >>> 448
    if z ≥ 2 ^ 449 then log2Bits n (z >>> 1) (2 * acc + 1) else log2Bits n z (2 * acc)

def fLog2 (a : Num) : Res :=
  match a with
  | .nan s => { bits := FFmt.f32.canon, flags := if s then fNV else 0 }
  | .inf n => if n then { bits := FFmt.f32.canon, flags := fNV } else { bits := FFmt.f32.infCode, flags := 0 }
  | .fin n m e =>
    if m = 0 then { bits := signBit .f32 true + FFmt.f32.infCode, flags := fDZ }
    else if n then { bits := FFmt.f32.canon, flags := fNV }
    else
      let k := (Nat.log2 m : Int) + e
      if m = 2 ^ Nat.log2 m then roundTo .f32 0 0 (Num.ofInt k 0)
      else
        let y := m * 2 ^ 448 / 2 ^ Nat.log2 m
        let fr := log2Bits 128 y 0
        let v : Int := k * 2 ^ 129 + (2 * fr + 1 : Nat)
        roundTo .f32 0 0 (Num.ofInt v (-129))

/-- 1/a, correctly rounded RNE (R335). -/
def fRcp (a : Num) : Res := fDiv .f32 0 0 (.fin false 1 0) a

/-- 1/√a, correctly rounded RNE (R335): the square root of the quotient 1/a taken with 400 bits and a sticky bit. -/
def fRsq (a : Num) : Res :=
  match a with
  | .nan s => { bits := FFmt.f32.canon, flags := if s then fNV else 0 }
  | .inf n => if n then { bits := FFmt.f32.canon, flags := fNV } else { bits := 0, flags := 0 }
  | .fin n m e =>
    if m = 0 then { bits := signBit .f32 n + FFmt.f32.infCode, flags := fDZ }
    else if n then { bits := FFmt.f32.canon, flags := fNV }
    else
      -- x = 2^(2k) / m exactly floored; √(m·2^e)⁻¹ = √(2^(2k)/m') · 2^(−k − e'/2) with e' even
      let m1 := if e % 2 = 0 then m else 2 * m
      let e1 := if e % 2 = 0 then e else e - 1
      let k : Nat := 200
      let x := 2 ^ (2 * k) / m1
      let q := isqrt x
      let exact := decide (q * q * m1 = 2 ^ (2 * k))
      roundTo .f32 0 0 (.fin false (2 * q + (if exact then 0 else 1)) (-(k : Int) - e1 / 2 - 1))

/-- VFRND (R336): an integral value in the mode given, the sign kept. -/
def fRnd (mode : Mode) (r : Nat) (a : Num) : Res :=
  match a with
  | .nan s => { bits := FFmt.f32.canon, flags := if s then fNV else 0 }
  | .inf n => { bits := signBit .f32 n + FFmt.f32.infCode, flags := 0 }
  | .fin n m e =>
    if m = 0 then { bits := signBit .f32 n, flags := 0 } else
      let y := (roundAt mode r n m e 0).1
      { bits := (roundTo .f32 0 0 (Num.mk n y 0)).bits, flags := 0 }

/-- VFCLS (R337). -/
def fClass (bits : Nat) : Nat :=
  let s : Bool := (bits >>> 31) % 2 = 1
  let ex := (bits >>> 23) % 256
  let fr := bits % 2 ^ 23
  if ex = 255 then (if fr = 0 then (if s then 1 else 0x80) else if fr / 2 ^ 22 = 0 then 0x100 else 0x200)
  else if ex = 0 then (if fr = 0 then (if s then 8 else 0x10) else if s then 4 else 0x20)
  else if s then 2 else 0x40

/-! ## Window accumulation (R190, R191) -/

/-- A term with what R191 asks of it: whether it is a product of zero and infinity, whether an input was signalling. -/
structure Term where
  v    : Num
  zinf : Bool
  snan : Bool
deriving DecidableEq, Repr

def Term.of (x : Num) : Term := { v := x, zinf := false, snan := x.isSnan }

/-- The product term of two operands, signs already applied (R191). -/
def Term.prod (a b : Num) : Term :=
  { v := quietN (Num.mul a b), zinf := (a.isZero && b.isInf) || (a.isInf && b.isZero), snan := a.isSnan || b.isSnan }

/-- A term in units of 2^g, truncated towards zero, and whether bits were lost. -/
def Term.grid (x : Num) (g : Int) : Int × Bool :=
  match x with
  | .fin s m e =>
    if g ≤ e then let v : Int := (m * 2 ^ (e - g).toNat : Nat); (if s then -v else v, false)
    else let d := (g - e).toNat; let v : Int := (m >>> d : Nat); (if s then -v else v, decide (m % 2 ^ d ≠ 0))
  | _ => (0, false)

def maxLead (l : List Num) : Int := l.foldl (fun a x => max a x.lead) (match l with | x :: _ => x.lead | [] => 0)

/-- WindowSum (R190), with Special (R191). -/
def windowSum (f : FFmt) (mode : Mode) (r : Nat) (ts : List Term) : Res :=
  if ts.any (·.zinf) then { bits := f.canon, flags := fNV }
  else if ts.any (·.v.isNan) then { bits := f.canon, flags := if ts.any (·.snan) then fNV else 0 }
  else if ts.any (fun t => t.v = .inf false) && ts.any (fun t => t.v = .inf true) then { bits := f.canon, flags := fNV }
  else if ts.any (fun t => t.v = .inf false) then { bits := f.infCode, flags := 0 }
  else if ts.any (fun t => t.v = .inf true) then { bits := signBit f true + f.infCode, flags := 0 }
  else
    let fs := (ts.map (·.v)).filter fun x => !x.isZero
    if fs.isEmpty then
      { bits := if !ts.isEmpty && ts.all (·.v.sign) then signBit f true else 0, flags := 0 }
    else
      let g := maxLead fs - 104
      let parts := fs.map fun x => Term.grid x g
      let acc := parts.foldl (fun a p => a + p.1) (0 : Int)
      let win : DWord := if parts.any (·.2) then fWIN else 0
      if acc = 0 then { bits := 0, flags := win } else
        let y := roundTo f mode r (Num.ofInt acc g)
        { bits := y.bits, flags := y.flags ||| win }

/-! ## The Bangle generator (R194) -/

def bangleRound (z khi : Word) : Word :=
  let z1 := z ^^^ (z >>> 16)
  let z2 := z1 * 0x2C1B3C6D#32
  let z3 := z2 ^^^ (z2 >>> 12)
  let z4 := z3 * 0x297A2D39#32
  let z5 := z4 ^^^ (z4 >>> 15)
  z5 + khi

/-- Bangle(K, c) (R194). -/
def bangle (k c : DWord) : Word :=
  let z := (low32 c ^^^ low32 k) + high32 c * 0x9E3779B9#32 + high32 k
  bangleRound (bangleRound z (high32 k)) (high32 k)

/-- The RS draw of R187 for a PC and an element index. -/
def rsDraw (key : DWord) (pc : BitVec 16) (idx : Nat) : Nat :=
  (bangle key (cat32 (pc.zeroExtend 32) (BitVec.ofNat 32 idx))).toNat

end Sys2Proof.Machine
end

