-- ==== Sys2Proof/Machine/Base.lean ====
section
/-! DEFINITION. Machine/Base.lean: reaching the parts of the state, the layout (R42, R43), physical memory (R46, R115, R119), regions
(R34-R37), translation (R116-R121) and device accesses to virtual memory. -/

namespace Sys2Proof.Machine

open Sys2Proof

/-! ## Parts of the state -/

def Strand.empty : Strand :=
  { slot := 0, gen := 0, role := 0, idx := 0, entry := none, vblk := 1, vbase := 0, ntiles := 0, vacant := 0, counters := [], v := [],
    vbusy := [], vmarks := [], vfly := [], splits := [], disp := none, olc := 0, eret := none, image := [], flash := none,
    committed := false, recipe := none, tregs := [], graph := [], nextSeq := 0, tfences := 0, fenced := Mem.reset, batchNo := 0, forces := [],
    plan := none, posted := [], initV := [], initView := View.empty, initPc := 0, exited := false, freed := false, atFlash := false }

def LRec.empty : LRec :=
  { region := 0, roles := [], contract := 0, nbar := 0, wslots := 0, spad := 0, sched := [], dtbase := 0, dtlen := 0, recipe := 0,
    args := [] }

def Gang.empty : Gang :=
  { part := 0, fn := 0, queue := none, cmd := 0, region := 0, index := 0, count := 1, lrec := LRec.empty, arrival := 0, group := none,
    phase := .walk, core := 0, lastCore := 0, spUnit := 0, half := 0, wslots := [], bars0 := [], tiles := [], slice := 0, expired := false,
    waitFrom := 0, charged := false, flags := 0, pmode := 0, ckptn := 1, handler := 0, hentry := 0, hlen := 0, code := [],
    evicted := [], own := [], fetched := [], ovd := [], bars := [], stage := 0, lap := 0, lapAt := [], planes := [], wloads := [], strands := [], fresh := true,
    savedSp := none, saveLen := 0, rewound := [], savedBins := [], savedLk := [], savedCl := [], savedFly := [], killed := false, locket := 0, proxy := none, s4s7 := [], suspendAt := false }

def State.gang (s : State) (g : Nat) : Gang := s.gangs.getD g Gang.empty
def State.strand (s : State) (g t : Nat) : Strand := (s.gang g).strands.getD t Strand.empty
def State.split (s : State) (g t x : Nat) : Split := (s.strand g t).splits.getD x Split.none
def State.core (s : State) (c : Nat) : Core := s.cores.getD c Core.reset
def State.part (s : State) (p : Nat) : Part := s.parts.getD p (Part.formed 0)
def State.queue (s : State) (q : Nat) : Queue := s.queues.getD q Queue.reset
def State.fn (s : State) (f : Nat) : Fn := s.fns.getD f (Fn.reset false)
def State.peer (s : State) (d : Nat) : Peer := s.peers.getD d Peer.reset

def State.setGang (s : State) (g : Nat) (f : Gang → Gang) : State := { s with gangs := s.gangs.modify g f }
def State.setStrand (s : State) (g t : Nat) (f : Strand → Strand) : State :=
  s.setGang g fun G => { G with strands := G.strands.modify t f }
def State.setSplit (s : State) (g t x : Nat) (f : Split → Split) : State :=
  s.setStrand g t fun S => { S with splits := S.splits.modify x f }
def State.setView (s : State) (g t x : Nat) (f : View → View) : State :=
  s.setSplit g t x fun X => { X with view := f X.view }
def State.setCore (s : State) (c : Nat) (f : Core → Core) : State := { s with cores := s.cores.set c (f (s.core c)) }
def State.setPart (s : State) (p : Nat) (f : Part → Part) : State := { s with parts := s.parts.modify p f }
def State.setQueue (s : State) (q : Nat) (f : Queue → Queue) : State := { s with queues := s.queues.set q (f (s.queue q)) }
def State.setFn (s : State) (n : Nat) (f : Fn → Fn) : State := { s with fns := s.fns.set n (f (s.fn n)) }
def State.setPeer (s : State) (d : Nat) (f : Peer → Peer) : State := { s with peers := s.peers.set d (f (s.peer d)) }
def State.setPkg (s : State) (f : Pkg → Pkg) : State := { s with pkg := f s.pkg }

/-- The argument of a free value: the step, and which choice of the step (DESIGN CHOICE, log entry 2). -/
def State.choice (s : State) (n : Nat) : Nat := s.stepNo * 2 ^ 72 + n

/-- A number that names nothing yet. -/
def State.newId (s : State) : Nat × State := (s.nextId, { s with nextId := s.nextId + 1 })

/-- The number of the partition a gang belongs to. -/
def State.partOf (s : State) (g : Nat) : Nat := (s.gang g).part

/-! ## The layout (R42, R43) -/

def State.layout (s : State) : Layout := if s.pkg.layActB then s.pkg.layB else s.pkg.layA

def laySetting (l : Layout) (k : Nat) : Option Nat :=
  let b := (l.getD (4 + k) 0).toNat
  if b ≥ 128 then some (b % 16) else none

def layFn (l : Layout) (f : Nat) : Option Nat :=
  let b := (l.getD (20 + f) 0).toNat
  if b ≥ 128 then some (b % 16) else none

/-- LSHARE of a partition (R43). -/
def layShare (l : Layout) (p : Nat) : Nat := (l.getD (84 + p) 0).toNat

/-- A function's bank window: base and size in bytes. -/
def layWindow (l : Layout) (f : Nat) : Nat × Nat :=
  (ofLe (tblBytes l (128 + 4 * f) 2) * 65536, ofLe (tblBytes l (130 + 4 * f) 2) * 65536)

def laySettings (l : Layout) (p : Nat) : List Nat := (List.range 16).filter fun k => laySetting l k == some p
def layFns (l : Layout) (p : Nat) : List Nat := (List.range 64).filter fun f => layFn l f == some p

def State.settings (s : State) (p : Nat) : List Nat := laySettings s.layout p
def State.fnPart (s : State) (f : Nat) : Option Nat := layFn s.layout f

/-- The exporter of a partition: its lowest-numbered bound function (R62). -/
def State.exporter (s : State) (p : Nat) : Option Nat := (layFns s.layout p).head?

def setmaskOf (l : List Nat) : BitVec 16 := BitVec.ofNat 16 (l.foldl (fun a k => a + 2 ^ k) 0)

/-- The setting of a core (R6, R40): 128 cores, which are four clusters of 32. -/
def settingOfCore (c : Nat) : Nat := c / 128
def clusterOfCore (c : Nat) : Nat := c / 32

/-! ## Physical memory: HBM at ADDR[38:0], host memory and pool by ADDR[56:55], then banks and scratchpads -/

def hbmBytes : Nat := 384 * 2 ^ 30
def bankBase : Nat := 2 ^ 57
def spBase : Nat := 2 ^ 58

/-- The setting whose HBM holds a local address (R119). -/
def settingOfHbm (a : Nat) : Nat := 2 * (a / (48 * 2 ^ 30)) + (if a % (48 * 2 ^ 30) < 24 * 2 ^ 30 then 0 else 1)

/-- A save store's addresses (R97): the top 256 MiB of each setting's 24 GiB. -/
def inSaveStore (a : Nat) : Bool := decide (a % (24 * 2 ^ 30) ≥ 24 * 2 ^ 30 - 256 * 2 ^ 20)

/-- What an unlisted byte reads as (DESIGN CHOICE, log entry 6). -/
def Mem.base (m : Mem) (a : Nat) : Byte :=
  if a < hbmBytes then
    (let e := m.epoch.getD (settingOfHbm a) 0
     if e = 0 then 0 else Config.staleByte e a)
  else 0

def Mem.read (m : Mem) (a : Nat) : Byte := (Tbl.get? m.cells a).getD (m.base a)

def Mem.write (m : Mem) (a : Nat) (b : Byte) : Mem :=
  { m with cells := if b = m.base a then Tbl.erase m.cells a else Tbl.set m.cells a b, log := m.log.map (a :: ·) }

def Mem.readN (m : Mem) (a : Nat) : Nat → List Byte
  | 0 => []
  | n + 1 => m.read a :: m.readN (a + 1) n

def Mem.writeN (m : Mem) (a : Nat) : List Byte → Mem
  | [] => m
  | b :: r => (m.write a b).writeN (a + 1) r

/-- The CXL pool's physical addresses (R119). -/
def inPool (a : Nat) : Bool := decide (2 ^ 56 ≤ a ∧ a < 2 ^ 56 + 2 ^ 55)

/-- A pool byte under a key (R47): the byte as written where the sector was last written under this key, else a meaningless one. -/
def Mem.poolByte (m : Mem) (key a : Nat) : Byte :=
  let w := m.pool.getD (a / 32) 0
  if w = key then m.read a else Config.poolStale w key (ofLe (m.readN (a / 32 * 32) 32)) a

/-- Reads bytes with a partition's key: it changes the pool's bytes only (R47; HBM's keys are `epoch`'s). -/
def Mem.readKey (m : Mem) (key a n : Nat) : List Byte :=
  if inPool a then (List.range n).map fun i => m.poolByte key (a + i) else m.readN a n

/-- The sectors of a run of pool bytes come under a key: each holds what it reads as under that key, and is written anew (R47). -/
def Mem.takeSectors (m : Mem) (key a n : Nat) : Mem :=
  ((List.range ((a + n + 31) / 32 - a / 32)).map (a / 32 + ·)).foldl (fun x k =>
    if x.pool.getD k 0 = key then x
    else { x.writeN (32 * k) (x.readKey key (32 * k) 32) with pool := x.pool.set k key }) m

/-- Writes bytes with a partition's key. -/
def Mem.writeKey (m : Mem) (key a : Nat) (l : List Byte) : Mem :=
  if inPool a then (m.takeSectors key a l.length).writeN a l else m.writeN a l

/-- The length of the log of writes; and the bytes written since the log had a length (R215). -/
def Mem.logged (m : Mem) : Nat := (m.log.getD []).length

def Mem.writtenSince (m : Mem) (n : Nat) : List Nat := (m.log.getD []).take (m.logged - n)

/-- Writes are logged from now on, or no longer; a memory kept beside the machine's logs none. -/
def Mem.logging (m : Mem) (on : Bool) : Mem := { m with log := if on then some (m.log.getD []) else none }

/-- The canonical form: addresses strictly rising, no entry equal to what an unlisted address reads as. -/
def Mem.wf (m : Mem) : Bool :=
  decide ((m.cells.map Prod.fst).Pairwise (· < ·)) && m.cells.all fun c => c.2 != m.base c.1

/-- A setting's HBM under a fresh key (R45, R46): what was written under the old one is meaningless. That its poison goes too is said nowhere (DESIGN
CHOICE, log entry 6). -/
def Mem.rekey (m : Mem) (k : Nat) : Mem :=
  { m with cells := m.cells.filter fun c => !(decide (c.1 < hbmBytes) && settingOfHbm c.1 == k),
           epoch := m.epoch.set k (m.epoch.getD k 0 + 1),
           poison := m.poison.filter fun a => !(decide (a < hbmBytes) && settingOfHbm a == k) }

/-- Zeroes the listed bytes that satisfy `p`, outside HBM (scrubbing, R45, R52). -/
def Mem.scrub (m : Mem) (p : Nat → Bool) : Mem :=
  { m with cells := m.cells.filter fun c => !(decide (c.1 ≥ hbmBytes) && p c.1),
           poison := m.poison.filter fun a => !(decide (a ≥ hbmBytes) && p a) }

/-- The first byte of the unit that is poisoned with a byte: a 32-byte sector, or a bank's 64-byte line (R110). -/
def poisonUnit (a : Nat) : Nat := if bankBase ≤ a ∧ a < spBase then a - a % 64 else a - a % 32

def Mem.poisoned (m : Mem) (a n : Nat) : Bool := (List.range n).any fun i => m.poison.contains (poisonUnit (a + i))

def State.putN (s : State) (a : Nat) (l : List Byte) : State := { s with mem := s.mem.writeN a l }
def State.getN (s : State) (a n : Nat) : List Byte := s.mem.readN a n
def State.getNat (s : State) (a n : Nat) : Nat := ofLe (s.mem.readN a n)
def State.putNat (s : State) (a n v : Nat) : State := s.putN a (leBytes n v)

/-- The number of a partition's key, which no other key has: the key count of its lowest setting, which every new key raises (R45). -/
def State.keyOf (s : State) (p : Nat) : Nat :=
  match s.settings p with
  | k :: _ => 16 * s.mem.epoch.getD k 0 + k + 1
  | [] => 0

/-- A partition's reads and writes of physical bytes (R47). -/
def State.getKey (s : State) (p a n : Nat) : List Byte := s.mem.readKey (s.keyOf p) a n
def State.putKey (s : State) (p a : Nat) (l : List Byte) : State := { s with mem := s.mem.writeKey (s.keyOf p) a l }

/-- A byte of a core's physical scratchpad. -/
def spAddr (core off : Nat) : Nat := spBase + core * 2 ^ 18 + off % 2 ^ 18

/-- R115: where a share offset of a partition with these settings lies. -/
def bankAddr (settings : List Nat) (b : Nat) : Nat :=
  let k := settings.getD (b / 2 ^ 25) 0
  let r := b % 2 ^ 25
  bankBase + k * 2 ^ 25 + field r 12 6 * 2 ^ 18 + field r 24 13 * 64 + r % 64

/-- The bank of a bank address. -/
def bankOf (a : Nat) : Nat := (a - bankBase) / 2 ^ 18

/-! ## Regions -/

/-- A region and its ancestors, nearest first; a region has depth at most 7 (R34). -/
def regionChain (rs : Tbl Region) : Nat → Nat → List (Nat × Region)
  | 0, _ => []
  | k + 1, r =>
    match rs.get? r with
    | none => []
    | some R => (r, R) :: (if r = 0 then [] else regionChain rs k R.parent)

/-- The nearest RCB whose override bit is set (R36); the root has them all. -/
def rcbWith (ch : List (Nat × Region)) (b : Nat) (d : Rcb) : Rcb :=
  match ch.find? fun p => p.1 == 0 || p.2.rcb.ovr.getLsbD b with
  | some p => p.2.rcb
  | none => d

/-- The effective RCB of a region (R36); budgets are judged level by level (`withinBudgets`). -/
def effRcb (rs : Tbl Region) (r : Nat) : Rcb :=
  let ch := regionChain rs 8 r
  let d := Rcb.root 0
  let f := fun b => rcbWith ch b d
  { ovr := 0, prio := (f 0).prio, flags := (f 1).flags, pmode := (f 2).pmode, ckptn := (f 2).ckptn, setmask := (f 3).setmask,
    tslice := (f 4).tslice, handler := (f 5).handler, hentry := (f 5).hentry, hlen := (f 5).hlen, fring := (f 6).fring,
    frlog2 := (f 6).frlog2, budgets := [] }

/-- Whether usage plus demand is within each budget in force, at a region and all its ancestors (R36, R39): the budgets the demand has an
entry for, a locket's being the sixth alone. `onlyDemand` judges the demand alone: a demand that exceeds a budget outright. -/
def withinBudgets (rs : Tbl Region) (r : Nat) (demand : List Nat) (onlyDemand : Bool) : Bool :=
  (regionChain rs 8 r).all fun p =>
    (List.range 6).all fun i =>
      let b := p.2.rcb.budgets.getD i 0xFFFFFFFF
      let inForce := p.1 == 0 || p.2.rcb.ovr.getLsbD (8 + i)
      !inForce || b == 0xFFFFFFFF || (demand.getD 5 0 == 0) == (i == 5) ||
        decide ((if onlyDemand then 0 else p.2.usage.getD i 0) + demand.getD i 0 ≤ b)

/-- Adds to (or takes from) the usage of a region and its ancestors. -/
def chargeUsage (rs : Tbl Region) (r : Nat) (d : List Nat) (take : Bool) : Tbl Region :=
  (regionChain rs 8 r).foldl
    (fun t p => t.modify p.1 fun R =>
      { R with usage := (List.range 6).map fun i =>
                 if take then R.usage.getD i 0 - d.getD i 0 else R.usage.getD i 0 + d.getD i 0,
               dirty := true }) rs

/-! ## Translation -/

/-- A translation fault of R121: cause, subcode, level. -/
structure TFault where
  cause : Byte
  sub   : Nat
  level : Nat
deriving DecidableEq, Repr

def cTRANSLATE : Byte := 0x20
def cPERMISSION : Byte := 0x21
def cALIGN : Byte := 0x22
def cBOUNDS : Byte := 0x23
def cPOISON : Byte := 0x24
def cPOOLLOAD : Byte := 0x25
def cHOSTATOM : Byte := 0x26
def cPARTBLOCK : Byte := 0x27
def cBANKOP : Byte := 0x28

def TFault.detail (f : TFault) : DWord := BitVec.ofNat 64 (f.level * 256 + f.sub)

/-- A leaf (R118) with the VA's page bits and the physical address of the entry. -/
structure Leaf where
  pte  : Nat
  bits : Nat
  slot : Nat
  va   : Nat
deriving DecidableEq, Repr

def Leaf.fmt (l : Leaf) : Nat := field l.pte 101 98
def Leaf.geom (l : Leaf) : Nat := field l.pte 103 102
def Leaf.cbslot (l : Leaf) : Nat := field l.pte 111 104
def Leaf.cgen (l : Leaf) : Bool := field l.pte 97 97 == 1
def Leaf.ctrk (l : Leaf) : Bool := field l.pte 96 96 == 1
def Leaf.mtype (l : Leaf) : Nat := field l.pte 7 6
def Leaf.fab (l : Leaf) : Bool := field l.pte 5 5 == 1
def Leaf.wr (l : Leaf) : Bool := field l.pte 4 4 == 1
def Leaf.rd (l : Leaf) : Bool := field l.pte 3 3 == 1
/-- The target (R119): 0 HBM, 1 host, 2 pool, 3 remote. -/
def Leaf.target (l : Leaf) : Nat := field l.pte 56 55
/-- The physical address of the VA the leaf was found for. -/
def Leaf.pa (l : Leaf) : Nat := (field l.pte 56 8) * 256 / 2 ^ l.bits * 2 ^ l.bits + l.va % 2 ^ l.bits
def Leaf.pageBytes (l : Leaf) : Nat := 2 ^ l.bits
/-- Offset in the page. -/
def Leaf.off (l : Leaf) : Nat := l.va % 2 ^ l.bits
/-- The level of the leaf (R117). -/
def Leaf.level (l : Leaf) : Nat := if l.bits = 30 then 1 else if l.bits = 21 then 2 else 3
/-- Format, geometry and codebook slot together (R121 subcode 0x09). -/
def Leaf.shape (l : Leaf) : Nat := field l.pte 111 98

def levelBits (lv : Nat) : Nat := if lv = 0 then 39 else if lv = 1 then 30 else if lv = 2 then 21 else 16
def levelIndex (lv va : Nat) : Nat :=
  if lv = 0 then field va 56 39 else if lv = 1 then field va 38 30 else if lv = 2 then field va 29 21 else field va 20 16
def tableBytes (lv : Nat) : Nat := if lv = 0 then 2 ^ 22 else if lv = 1 ∨ lv = 2 then 2 ^ 13 else 2 ^ 9

/-- Element formats and the block geometry that suits each (R124). -/
def geomOk (fmt geom : Nat) : Bool := fmt ≤ 8 && geom == (if 5 ≤ fmt && fmt ≤ 7 then 1 else 0)

/-- Whether a valid entry is malformed at a level (R118). -/
def malformed (lv e : Nat) : Bool :=
  let leaf := field e 2 2 == 1
  let addr := field e 56 8 * 256
  field e 127 112 != 0 || field e 95 57 != 0 || (leaf && lv == 0) || (!leaf && lv == 3) ||
    (if leaf then
       addr % 2 ^ levelBits lv != 0 || !(geomOk (field e 101 98) (field e 103 102)) || (field e 101 98 != 0 && field e 7 6 ≥ 2)
     else addr % tableBytes (lv + 1) != 0)

/-- A local HBM range lies in one of a partition's settings. -/
def hbmOwned (settings : List Nat) (a n : Nat) : Bool :=
  decide (a + n ≤ hbmBytes) && settings.contains (settingOfHbm a) && settings.contains (settingOfHbm (a + n - 1))

/-- The walk of R117 from a table at a level. -/
def walkFrom (m : Mem) (settings : List Nat) (va : Nat) : Nat → Nat → Nat → Except TFault Leaf
  | 0, lv, _ => .error { cause := cTRANSLATE, sub := 3, level := lv }
  | k + 1, lv, tab =>
    if ¬ hbmOwned settings tab (tableBytes lv) then .error { cause := cTRANSLATE, sub := 3, level := lv } else
      let slot := tab + 16 * levelIndex lv va
      let e := ofLe (m.readN slot 16)
      if e % 2 = 0 then .error { cause := cTRANSLATE, sub := if field e 1 1 = 1 then 4 else 2, level := lv }
      else if malformed lv e then .error { cause := cTRANSLATE, sub := 3, level := lv }
      else if field e 2 2 = 1 then .ok { pte := e, bits := levelBits lv, slot := slot, va := va }
      else walkFrom m settings va k (lv + 1) (field e 56 8 * 256)

/-- The walk as the tables stand (R116, R117, R121 step 2). -/
def State.walk (s : State) (p va : Nat) : Except TFault Leaf :=
  if va ≥ 2 ^ 57 then .error { cause := cTRANSLATE, sub := 1, level := 0 }
  else if (s.part p).ptbase.toNat % 2 = 0 then .error { cause := cTRANSLATE, sub := 2, level := 0 }
  else walkFrom s.mem (s.settings p) va 4 0 (field (s.part p).ptbase.toNat 56 22 * 2 ^ 22)

/-- What the caches offer for a VA: cached leaves, and the walks that go on from a cached intermediate entry (R120). -/
def State.cached (s : State) (p va : Nat) : List (Except TFault Leaf) :=
  ((s.part p).tlb.filter fun e => va / 2 ^ e.bits == e.vpage).map (fun e => .ok { pte := e.pte, bits := e.bits, slot := e.slot, va := va }) ++
    ((s.part p).walkc.filter fun e => va / 2 ^ levelBits (e.level - 1) == e.prefix_).map fun e =>
      walkFrom s.mem (s.settings p) va (4 - e.level) e.level e.table

/-- The translation an access uses: the walk as the tables stand, or, while translation is on, one through an entry that the caches hold and
no TLBINV has removed, where they differ (R116, R120; DEDUCED, log entry 9). -/
def State.translate (s : State) (p va : Nat) : Except TFault Leaf :=
  let w := s.walk p va
  if va ≥ 2 ^ 57 ∨ (s.part p).ptbase.toNat % 2 = 0 then w
  else match (s.cached p va).filter fun x => decide (x ≠ w) with
    | [] => w
    | x :: r =>
      if Config.tlbHit (s.choice va) then (x :: r).getD (Config.freeNat (s.choice (2 ^ 69 + va)) % (r.length + 1)) x else w

/-- The intermediate entries that a walk passes through. -/
def walkPath (m : Mem) (va : Nat) : Nat → Nat → Nat → List WalkEnt
  | 0, _, _ => []
  | k + 1, lv, tab =>
    let e := ofLe (m.readN (tab + 16 * levelIndex lv va) 16)
    if e % 2 = 0 ∨ field e 2 2 = 1 then []
    else
      let next := field e 56 8 * 256
      { level := lv + 1, prefix_ := va / 2 ^ levelBits lv, table := next } :: walkPath m va k (lv + 1) next

/-- Holds a leaf as a cached translation, and the intermediate entries of its walk. -/
def State.cache (s : State) (p : Nat) (l : Leaf) : State :=
  let e : TlbEnt := { vpage := l.va / 2 ^ l.bits, bits := l.bits, pte := l.pte, slot := l.slot }
  let ws := walkPath s.mem l.va 3 0 (field (s.part p).ptbase.toNat 56 22 * 2 ^ 22)
  s.setPart p fun P =>
    { P with tlb := if P.tlb.contains e then P.tlb else P.tlb ++ [e],
             walkc := P.walkc ++ ws.filter fun w => !(P.walkc.contains w) }

/-- Who makes an access, for step 3 of R121. -/
inductive Who where
  | strand | graph | copy | device
deriving DecidableEq, Repr

/-- Steps 3 and 4 of R121 for a leaf: the target and the permissions. Only copies reach the pool (R12); what another agent's access to it comes
to has no rule of its own, and takes the strands' (DESIGN CHOICE, log entry 14). -/
def checkTarget (settings : List Nat) (who : Who) (wantWr wantRd : Bool) (l : Leaf) : Option TFault :=
  let perm := fun n => some ({ cause := cPERMISSION, sub := n, level := l.level } : TFault)
  let bad :=
    if l.target = 0 then
      (if field l.pa 54 39 ≠ 0 ∨ ¬ hbmOwned settings l.pa 1 ∨ inSaveStore l.pa then perm 6 else none)
    else if l.target = 2 then
      (if who ≠ .copy then some ({ cause := cPOOLLOAD, sub := 0, level := l.level } : TFault) else none)
    else if l.target = 3 then (if who = .copy then none else perm 7)
    else none
  match bad with
  | some f => some f
  | none => if (wantRd && !l.rd) || (wantWr && !l.wr) then perm 5 else none

/-- Translates and checks one address of a device agent's or strand's access; host memory may answer UR or CA (R121 0x0A). -/
def State.resolve (s : State) (p : Nat) (who : Who) (wantWr wantRd : Bool) (va : Nat) : Except TFault Leaf :=
  match s.translate p va with
  | .error f => .error f
  | .ok l =>
    match checkTarget (s.settings p) who wantWr wantRd l with
    | some f => .error f
    | none => .ok l

/-- Whether the completer or the pool windows accept a physical address; the host attach's state is not asked (R11; DESIGN CHOICE, log entry 14). -/
def targetAnswers (l : Leaf) : Bool :=
  if l.target = 1 then Config.completerAnswers (l.pa % 2 ^ 55)
  else if l.target = 2 then Config.poolWindow (l.pa % 2 ^ 55)
  else true

/-- Splits a run of virtual bytes into pieces that stay in one 64 KiB page. -/
def pieces : Nat → Nat → Nat → List (Nat × Nat)
  | 0, _, _ => []
  | k + 1, va, n =>
    if n = 0 then [] else
      let c := min n (65536 - va % 65536)
      (va, c) :: pieces k (va + c) (n - c)

/-- The bytes that a leaf's page gives a reading agent: with the partition's key from the pool (R47), free values from another package, whose memory
this model does not hold (log entry 14). -/
def State.bytesAt (s : State) (p : Nat) (l : Leaf) (n : Nat) : List Byte :=
  if l.target = 3 then (List.range n).map fun i => BitVec.ofNat 8 (Config.freeNat (s.choice (2 ^ 65 + l.pa + i)))
  else s.getKey p l.pa n

/-- Reads virtual bytes at SYS scope as an agent of the package. -/
def State.readAs (s : State) (who : Who) (p va n : Nat) : Except (TFault × Nat) (List Byte) :=
  (pieces (n / 65536 + 2) va n).foldl
    (fun acc q =>
      match acc with
      | .error e => .error e
      | .ok l =>
        match s.resolve p who false true q.1 with
        | .error f => .error (f, q.1)
        | .ok lf =>
          if targetAnswers lf then .ok (l ++ s.bytesAt p lf q.2)
          else .error ({ cause := cPERMISSION, sub := 10, level := lf.level }, q.1)) (.ok [])

/-- Reads virtual bytes as a device agent. -/
def State.readVa (s : State) (p va n : Nat) : Except (TFault × Nat) (List Byte) := s.readAs .device p va n

/-- A page the device may not write until capture has copied it (R130): tracked, and its CGEN differs from G. -/
def State.uncaptured (s : State) (p : Nat) (l : Leaf) : Bool :=
  (s.part p).cap.isSome && l.ctrk && l.cgen != (s.part p).capG

/-- The leaves a run of virtual bytes would be written through, or the first fault. -/
def State.writeLeaves (s : State) (p va n : Nat) : Except (TFault × Nat) (List (Leaf × Nat)) :=
  (pieces (n / 65536 + 2) va n).foldl
    (fun acc q =>
      match acc with
      | .error e => .error e
      | .ok l =>
        match s.resolve p .device true false q.1 with
        | .error f => .error (f, q.1)
        | .ok lf =>
          if targetAnswers lf then .ok (l ++ [(lf, q.2)]) else .error ({ cause := cPERMISSION, sub := 10, level := lf.level }, q.1)) (.ok [])

/-- Writes virtual bytes as a device agent: all of them, or none with the fault. -/
def State.writeVa (s : State) (p va : Nat) (l : List Byte) : Except (TFault × Nat) State :=
  match s.writeLeaves p va l.length with
  | .error e => .error e
  | .ok ls => .ok (ls.foldl (fun (a : State × List Byte) q => (a.1.putN q.1.pa (a.2.take q.2), a.2.drop q.2)) (s, l)).1

/-- Writes virtual bytes where they can be written. -/
def State.tryWriteVa (s : State) (p va : Nat) (l : List Byte) : State :=
  match s.writeVa p va l with
  | .ok s' => s'
  | .error _ => s

/-! ## Interrupts -/

/-- Whether a function is presented to the host (R11, R49). -/
def State.presented (s : State) (f : Nat) : Bool :=
  (s.pkg.ucie0 || s.pkg.ucie1) && (f == 0 || (decide (f < 64) && (s.fn f).vfOn))

/-- Raises MSI-X vector v of a function (R19, R28): it goes to the host link unless the vector is masked or the function is not
presented, when it is pending. Entry v is 16 bytes, with the mask bit in bit [0] of its last word; PCI Express resets it to 1 (PRESUMED, log entry 5). -/
def State.msix (s : State) (f v : Nat) : State :=
  if (s.fn f).msix.getD (16 * v + 12) 1 &&& 1 = 1 || !(s.presented f) then s.setFn f fun F => { F with pba := if F.pba.contains v then F.pba else F.pba ++ [v] }
  else s.setPkg fun P => { P with msixOut := P.msixOut ++ [(f, v)] }

end Sys2Proof.Machine
end

