-- ==== Sys2Proof/Machine/Lrt.lean ====
section
/-! DEFINITION. Machine/Lrt.lean: the locket resolution table's shared operations (R65-R74): lockets, allocation, tarnish and its
propagation, freeing, and sending messages. -/

namespace Sys2Proof.Machine

open Sys2Proof

def MsgHdr.blank : MsgHdr :=
  { mseq := 0, src := 0, spart := 0, dpart := 0, hidx := 0, hgen := 0, addressed := false, host := false, pidx := 0, pgen := 0, cause := 0,
    fidx := 0, alen := 0, aseq := 0, args := [], rva := 0, rlen := 0 }

/-- Tarnish causes (R71). -/
def tcFAULT : Byte := 1
def tcREFUSED : Byte := 2
def tcUNREACHABLE : Byte := 3
def tcUPSTREAM : Byte := 4
def tcFLR : Byte := 5
def tcTABLEFULL : Byte := 6
def tcBUDGET : Byte := 7
def tcHWERR : Byte := 8

/-! ## Lockets (R65, R66) -/

def lkPkg (l : DWord) : Nat := field l.toNat 63 52
def lkPart (l : DWord) : Nat := field l.toNat 51 48
def lkIdx (l : DWord) : Nat := field l.toNat 47 32
def lkGen (l : DWord) : Nat := field l.toNat 31 8
def lkFlags (l : DWord) : Nat := field l.toNat 7 0
def lkNull (l : DWord) : Bool := field l.toNat 7 6 == 1

def mkLocket (pkg part idx gen flags : Nat) : DWord :=
  BitVec.ofNat 64 (pkg % 4096 * 2 ^ 52 + part % 16 * 2 ^ 48 + idx % 65536 * 2 ^ 32 + gen % 2 ^ 24 * 256 + flags % 256)

/-- R66: kind null, the cause in [5:0]. -/
def nullLocket (pkg part : Nat) (cause : Byte) : DWord := mkLocket pkg part 0 0 (0x40 + cause.toNat % 64)

def nextGen (g : Nat) : Nat := if g = 0xFFFFFF then 1 else g + 1

def State.entry (s : State) (p i : Nat) : Lrt := (s.part p).lrt.getD i (Lrt.freshEntry 1)
def State.setEntry (s : State) (p i : Nat) (f : Lrt → Lrt) : State := s.setPart p fun P => { P with lrt := P.lrt.set i (f (s.entry p i)) }

/-- Whether a locket of the partition is stale (R65); a null locket never is. -/
def State.stale (s : State) (p : Nat) (l : DWord) : Bool :=
  let e := s.entry p (lkIdx l)
  if lkNull l then false
  else field l.toNat 7 6 ≥ 2 || lkGen l == 0 || e.st == .free || e.proxy || e.gen != lkGen l

/-- The lowest free entry of a partition's table (R405). -/
def State.freeEntry (s : State) (p : Nat) : Option Nat :=
  firstFrom (fun i => (s.entry p i).st == .free) Config.lrtEntries 0

/-- Messages in a partition's forwarding store (R66). -/
def State.storeUsed (s : State) (p : Nat) : Nat := (s.part p).lrt.foldl (fun a e => a + e.2.fq.length) 0

/-- The status word of R72 for an entry as it stands. -/
def lrtState : LrtSt → Nat
  | .free => 0 | .pending => 1 | .migrated => 2 | .resolved => 3 | .tarnished => 4

def statusWord (i : Nat) (e : Lrt) : DWord :=
  let tar := e.st = .tarnished
  BitVec.ofNat 64
    (lrtState e.st * 2 ^ 60 + (if e.onull then 2 ^ 56 else 0) + (if tar then e.cause.toNat * 2 ^ 48 + e.root.toNat * 2 ^ 40 else 0) +
      (if e.onull then 0xFFFF else if tar then e.origin else i) * 2 ^ 24 + (if e.st = .resolved then e.rlen.toNat % 2 ^ 24 else 0))

/-- Status of a null locket (R66, R395). -/
def nullStatus (l : DWord) : DWord :=
  let c := lkFlags l % 64
  BitVec.ofNat 64 (4 * 2 ^ 60 + 2 ^ 56 + c * 2 ^ 48 + c * 2 ^ 40 + 0xFFFF * 2 ^ 24)

/-! ## Sending -/

/-- The link on which traffic for a package leaves (R61): primary while up, else alternate. -/
def State.route (s : State) (d : Nat) : Option Nat :=
  let r := (s.pkg.routes.getD d 0).toNat
  let up := fun l => (s.pkg.links.getD l Link.reset).up
  if field r 15 15 = 1 ∧ up (field r 3 0) then some (field r 3 0)
  else if field r 14 14 = 1 ∧ up (field r 7 4) then some (field r 7 4)
  else none

def OutFlit.link : OutFlit → Nat
  | .msg l _ | .ack l _ _ _ _ _ | .keepAlive l _ | .copy l _ _ _ => l

/-- The package a flit is for, but for keep-alives, whose interval counts what else is sent (R73). -/
def OutFlit.dst : OutFlit → Option Nat
  | .msg _ m => some m.dst
  | .ack _ d _ _ _ _ | .copy _ d _ _ => some d
  | .keepAlive _ _ => none

/-- A flit is handed to its link (R48). -/
def State.emit (s : State) (f : OutFlit) : State :=
  let s1 := match f.dst with
    | some d => s.setPeer d fun P => { P with sent := s.cycle }
    | none => s
  s1.setPkg fun P => { P with out := P.out ++ [f] }

/-- Hands a message to its way: the package's own mail, for at least 200 cycles, or a link (R73). -/
def State.hand (s : State) (m : Msg) : State :=
  if m.dst = s.pkg.pkgid then { s with mail := s.mail ++ [(s.cycle + 200, m)] }
  else match s.route m.dst with
    | some l => s.emit (.msg l m)
    | none => s

/-- Sends a message of types 0x1 to 0x6 under the pair's next sequence number; nothing to a package declared unreachable (R69, R73). -/
def State.send (s : State) (ty dst : Nat) (h : MsgHdr) : State :=
  let P := s.peer dst
  if P.unreach then s else
    let m : Msg := { ty := ty, dst := dst, h := { h with mseq := P.tx, src := s.pkg.pkgid } }
    (s.setPeer dst fun P => { P with tx := P.tx + 1, unacked := P.unacked ++ [(P.tx, m, s.cycle)], sent := s.cycle }).hand m

/-! ## Settling entries -/

/-- Gives every register write and INVOKE command that waits on a home entry the status word of R72 (R393, R395, R29). -/
def State.settle (s : State) (p i : Nat) : State :=
  let e := s.entry p i
  let w := statusWord i e
  { s with
    lkres := s.lkres.map fun r => if r.part == p && r.entry == i && r.lgen == e.genA && r.val.isNone && !r.lstat then { r with val := some w, due := s.cycle + 40 } else r,
    queues := s.queues.map fun q =>
      if s.fnPart q.2.func == some p then
        (q.1, { q.2 with cmds := q.2.cmds.map fun c =>
          match c.kind with
          | .invoke va st en ge => if en = i ∧ ge = e.genA ∧ st = 0 then { c with kind := .invoke va w en ge } else c
          | _ => c })
      else q }

/-- RELEASE to a home entry's proxy, if the entry knows one (R68, R69). -/
def State.sendRelease (s : State) (p i : Nat) : State :=
  let e := s.entry p i
  if e.peerGen = 0 then s
  else s.send 6 e.peer { MsgHdr.blank with spart := p, dpart := e.ppart, hidx := i, hgen := e.genA, pidx := e.peerIdx, pgen := e.peerGen }

/-- Frees a home entry: its generation advances unless its LKREL already did that (R66), and its region's count falls. -/
def State.freeHome (s : State) (p i : Nat) : State :=
  let e := s.entry p i
  s.setPart p fun P =>
    { P with lrt := P.lrt.set i (Lrt.freshEntry (if e.rel then e.gen else nextGen e.gen)),
             regions := chargeUsage P.regions e.region [0, 0, 0, 0, 0, 1] true }

/-- Whether a home entry still awaits its outcome. -/
def Lrt.live (e : Lrt) : Bool := !e.proxy && (e.st == .pending || e.st == .migrated)

/-- One home entry becomes TARNISHED; with release pending it goes on to FREE (R68). -/
def State.tarnishOne (s : State) (p i : Nat) (cause root : Byte) (origin : Nat) (onull : Bool) : State :=
  let s1 := s.setEntry p i fun e =>
    { e with st := .tarnished, cause := cause, root := root, origin := origin, onull := onull, fq := [] }
  let s2 := s1.settle p i
  if (s.entry p i).rel then (s2.sendRelease p i).freeHome p i else s2

/-- What an entry takes from the head of its chain (R71): ROOTCAUSE, ORIGIN, ONULL. -/
structure ChainHead where
  root   : Byte
  origin : Nat
  onull  : Bool
deriving DecidableEq, Repr

/-- The home entries that are tarnished because of those in `from_` (R71), wave by wave. -/
def State.propagate (p : Nat) : Nat → Tbl ChainHead → State → State
  | 0, _, s => s
  | k + 1, from_, s =>
    let kids : Tbl ChainHead := (s.part p).lrt.filterMap fun q =>
      let e := s.entry p q.1
      if e.live && e.upv then (from_.get? e.upidx).map fun h => (q.1, h) else none
    if kids.isEmpty then s else
      State.propagate p k kids (kids.foldl (fun a q => a.tarnishOne p q.1 tcUPSTREAM q.2.root q.2.origin q.2.onull) s)

/-- Whether an entry will be tarnished because of one in `ev`: the entry it is addressed to is one, or will be for that reason (R71). -/
def State.below (s : State) (p : Nat) (ev : List Nat) : Nat → Nat → Bool
  | 0, _ => false
  | k + 1, i =>
    let e := s.entry p i
    e.live && e.upv && (ev.contains e.upidx || State.below s p ev k e.upidx)

/-- One event that tarnishes home entries for a cause of its own (R71): heads of chains take the cause; an entry whose addressed entry the event
tarnishes, itself or through entries between them, takes UPSTREAM from the head of its chain; entries that a reused index has made addressed to one
another have the first of them for a head. -/
def State.tarnish (s : State) (p : Nat) (idxs : List Nat) (cause : Byte) : State :=
  let ev := idxs.filter fun i => (s.entry p i).live
  let heads := ev.filter fun i => !(s.below p ev ((s.part p).lrt.length + 1) i)
  let one := fun (a : State) i =>
    if (a.entry p i).live then
      State.propagate p ((s.part p).lrt.length + 1) [(i, { root := cause, origin := i, onull := false })] (a.tarnishOne p i cause cause i false)
    else a
  ev.foldl one (heads.foldl one s)

/-! ## Proxies -/

/-- A proxy entry becomes FREE when its release is pending, its gang has exited or never started, and no invocation addressed to it is
waiting, admitted or running (R69). -/
def State.tryFreeProxy (s : State) (p i : Nat) : State :=
  let e := s.entry p i
  let busy := (s.part p).lrt.any fun q => q.2.proxy && q.2.st != .free && q.2.upProxy == some i && (q.2.waits || q.2.gang.isSome)
  if e.proxy && e.rel && e.gang.isNone && !busy then s.setEntry p i fun e => Lrt.freshEntry (nextGen e.gen) else s

/-- The same for the proxy entry that an entry's invocation was addressed to. -/
def State.tryFreeUp (s : State) (p : Nat) (up : Option Nat) : State :=
  match up with
  | some u => s.tryFreeProxy p u
  | none => s

/-- Invocations that wait on a tarnished proxy never run: their proxies are freed without a message (R71), and so are those of the
invocations that wait on these, wave by wave. -/
def State.dropWaves (p : Nat) : Nat → List Nat → State → State
  | 0, _, s => s
  | k + 1, up, s =>
    let w := (s.part p).lrt.filterMap fun q =>
      let e := s.entry p q.1
      if e.proxy && e.waits && (match e.upProxy with | some u => up.contains u | none => false) then some q.1 else none
    if w.isEmpty then s else
      State.dropWaves p k w (w.foldl (fun a i => a.setEntry p i fun e => Lrt.freshEntry (nextGen e.gen)) s)

/-- The invocations that wait on one tarnished proxy, and those that wait on theirs. -/
def State.dropWaiters (s : State) (p i : Nat) : State := State.dropWaves p ((s.part p).lrt.length + 1) [i] s

/-- A proxy entry's outcome TARNISHED, told to its home unless its RELEASE has come (R68, R69); a proxy that its home can no longer
release frees itself (R69). -/
def State.tarnishProxy (s : State) (p i : Nat) (cause : Byte) (selfFree : Bool) : State :=
  let e := s.entry p i
  if !(e.proxy && (e.st == .pending || e.st == .migrated)) then s else
    let s1 := s.setEntry p i fun e => { e with st := .tarnished, cause := cause, root := cause, origin := i, waits := false, rel := e.rel || selfFree }
    let s2 := if e.rel then s1 else
      s1.send 5 e.peer { MsgHdr.blank with spart := p, dpart := e.ppart, hidx := e.peerIdx, hgen := e.peerGen, pidx := i, pgen := e.gen,
                                           cause := cause }
    (s2.dropWaiters p i).tryFreeProxy p i

/-- A proxy entry's outcome RESOLVED (R68). -/
def State.resolveProxy (s : State) (p i : Nat) : State :=
  let e := s.entry p i
  if !(e.proxy && e.st == .pending) then s else
    let s1 := s.setEntry p i fun e => { e with st := .resolved }
    if e.rel then s1 else
      s1.send 4 e.peer { MsgHdr.blank with spart := p, dpart := e.ppart, hidx := e.peerIdx, hgen := e.peerGen, pidx := i, pgen := e.gen,
                                           rva := e.rva, rlen := e.rlen }

/-- The lockets a gang issued that are PENDING or MIGRATED (R52, R108, R110). -/
def State.issuedBy (s : State) (p g : Nat) : List Nat :=
  (s.part p).lrt.filterMap fun e => if e.2.live && e.2.gang == some g then some e.1 else none

end Sys2Proof.Machine
end

