-- ==== Sys2Proof/Machine/Ops.lean ====
section
/-! DEFINITION. Machine/Ops.lean: register accesses, barriers, leaving (exit, kill), fault records, taking a trap and returning from
one (R104-R109). -/

namespace Sys2Proof.Machine

open Sys2Proof

/-! ## Registers (R157-R162) -/

/-- Scalar n of a view: s0 reads as zero (R158). -/
def View.scalar (v : View) (n : Nat) : DWord := if n = 0 then 0 else v.s.getD n 0

/-- Control register n of a view as stored. -/
def View.ctl (v : View) (n : Nat) : DWord := v.cr.getD n 0

/-- Control register numbers (R160). -/
def crSID : Nat := 0x00
def crCONTRACT : Nat := 0x01
def crRMODE : Nat := 0x02
def crFSTAT : Nat := 0x03
def crDTBASE : Nat := 0x04
def crDTLEN : Nat := 0x05
def crCHK : Nat := 0x06
def crLSCALE : Nat := 0x07
def crSPWT : Nat := 0x08
def crSRKEY : Nat := 0x09
def crFLTPC : Nat := 0x10
def crEPC : Nat := 0x11
def crFLTINFO : Nat := 0x12
def crFLTADDR : Nat := 0x13

/-- Key of control register n in a view's lists. -/
def crKey (n : Nat) : Nat := 256 + n

def addKey (l : List Nat) (k : Nat) : List Nat := if l.contains k then l else l ++ [k]
def dropKey (l : List Nat) (k : Nat) : List Nat := l.filter (· != k)

/-- WriteS (R278): a write to s0 is discarded; a later write clears a poison mark (R166). -/
def View.putScalar (v : View) (n : Nat) (x : DWord) : View :=
  if n = 0 then v else { v with s := v.s.set n x, written := addKey v.written n, marks := v.marks.erase n }

def View.putCtl (v : View) (n : Nat) (x : DWord) : View := { v with cr := v.cr.set n x, written := addKey v.written (crKey n) }

/-- Writes in flight once one of a key is added that lands at a cycle: an earlier one of the key lands no later (R168). -/
def flyNext (l : List Fly) (now : Nat) (f : Fly) : List Fly :=
  (l.filter fun e => e.lands > now).map (fun e => if e.key = f.key then { e with lands := min e.lands f.lands } else e) ++ [f]

/-- A write of latency L that lands later: early readers may see the old value (R168). -/
def View.flyScalar (v : View) (chk : Bool) (now lat n : Nat) (x : DWord) : View :=
  if n = 0 then v else
    { v.putScalar n x with fly := flyNext v.fly now { key := n, lands := now + lat, old := v.scalar n, chk := chk } }

def orAll (l : List (Nat × DWord)) : DWord := l.foldl (fun a q => a ||| q.2) 0

/-- cr.FSTAT as instructions that have completed by a cycle have set it (R162). -/
def View.fstatAt (v : View) (now : Nat) : DWord := v.ctl crFSTAT ||| orAll (v.pend.filter fun q => q.1 ≤ now)

/-- cr.FSTAT once every instruction that has issued has completed. -/
def View.fstat (v : View) : DWord := v.ctl crFSTAT ||| orAll v.pend

/-- Flags of an instruction that completes at a cycle (R413). -/
def View.addPend (v : View) (at_ : Nat) (fl : DWord) : View :=
  { v with pend := v.pend ++ [(at_, fl)], written := addKey v.written (crKey crFSTAT) }

/-- A view with nothing in flight. -/
def View.landed (v : View) : View := { v with cr := v.cr.set crFSTAT v.fstat, pend := [], fly := [] }

/-- A write of cr.FSTAT replaces the flags that have landed when it does (R162). -/
def View.flyCtl (v : View) (chk : Bool) (now lat n : Nat) (x : DWord) : View :=
  let old := if n = crFSTAT then v.fstatAt now else v.ctl n
  { v.putCtl n x with fly := flyNext v.fly now { key := crKey n, lands := now + lat, old := old, chk := chk },
                      pend := if n = crFSTAT then v.pend.filter fun q => q.1 > now + lat else v.pend }

/-- Lane i of vector register r. -/
def Strand.lane (S : Strand) (r i : Nat) : Word := S.v.getD (r * 32 + i) 0

/-- Lane i of the pair at r: the even register holds bits [31:0] (R158). -/
def Strand.lanePair (S : Strand) (r i : Nat) : DWord := cat32 (S.lane (r + 1) i) (S.lane r i)

def putLanes (v : Tbl Word) (r : Nat) (lanes : List Nat) (f : Nat → Word) : Tbl Word :=
  lanes.foldl (fun a i => a.set (r * 32 + i) (f i)) v

/-- WriteV for a set of lanes; the register's poison mark clears. -/
def Strand.putV (S : Strand) (r : Nat) (lanes : List Nat) (f : Nat → Word) : Strand :=
  { S with v := putLanes S.v r lanes f, vmarks := S.vmarks.erase r }

def Strand.regWords (S : Strand) (r : Nat) : List Word := (List.range 32).map fun i => S.lane r i

/-- Vector writes in flight once one is added: in its lanes, an earlier one of its register lands no later (R168). -/
def vflyNext (l : List VFly) (now : Nat) (f : VFly) : List VFly :=
  (l.filter fun e => e.lands > now).flatMap (fun e =>
    if e.reg = f.reg ∧ f.lands < e.lands then
      ([{ e with lanes := e.lanes.filter fun i => !(f.lanes.contains i) },
        { e with lanes := e.lanes.filter f.lanes.contains, lands := f.lands }] : List VFly).filter fun x => !x.lanes.isEmpty
    else [e]) ++ [f]

/-- A fixed-latency write of a vector register. -/
def Strand.flyV (S : Strand) (chk : Bool) (now lat r : Nat) (lanes : List Nat) (f : Nat → Word) : Strand :=
  { S.putV r lanes f with vfly := vflyNext S.vfly now { reg := r, lanes := lanes, lands := now + lat, old := S.regWords r, chk := chk } }

def State.addFlags (s : State) (g t x : Nat) (fl : DWord) : State :=
  if fl = 0 then s else s.setView g t x fun v => { v with cr := v.cr.set crFSTAT (v.ctl crFSTAT ||| fl),
                                                          written := addKey v.written (crKey crFSTAT) }

def State.commit (s : State) (g t : Nat) : State := s.setStrand g t fun S => { S with committed := true }

/-! ## Splits and strands -/

def SplitSt.live : SplitSt → Bool
  | .run | .join | .wait => true
  | _ => false

def Strand.liveSplits (S : Strand) : List Nat := S.splits.filterMap fun q => if q.2.st.live then some q.1 else none

/-- Launch-record strands; a spawned strand has role 3 (R161). -/
def Strand.isLaunch (S : Strand) : Bool := S.role != 3

/-- Active lanes of a split (R156). -/
def Strand.active (S : Strand) (X : Split) : Word :=
  laneSet fun i => bit X.mask i && !(bit S.vacant i) && S.counters.getD i 0 == 0

/-- Converged (R156). -/
def Strand.converged (S : Strand) : Bool :=
  (match S.liveSplits with
   | [x] => (S.splits.getD x Split.none).mask == BitVec.allOnes 32
   | _ => false) && S.vacant == 0 && S.counters.all fun c => c.2 == 0

def Gang.liveLaunch (G : Gang) : List Nat :=
  G.strands.filterMap fun q => if q.2.isLaunch && !q.2.exited then some q.1 else none

/-- The barrier a wait is on, by its key in `barP`. -/
def Wait.key : Wait → Option Nat
  | .bar n => some n
  | .clbar n => some (16 + n)
  | .ckpt => none

/-- A split whose wait has returned. -/
def Split.returned (X : Split) : Split :=
  { X with st := .run, wait := Option.none, barP := match X.wait.bind Wait.key with
                                                    | .some n => X.barP.erase n
                                                    | .none => X.barP }

/-- Releases the waiting splits of a gang that satisfy `p`: their wait returns, which forgets the phase they recorded (R356) and commits
their strands (R95). -/
def State.releaseWait (s : State) (g : Nat) (commits : Bool) (p : Split → Bool) : State :=
  s.setGang g fun G => { G with strands := G.strands.map fun q =>
    let hit := q.2.splits.any fun x => x.2.st == .wait && p x.2
    (q.1, { q.2 with committed := q.2.committed || (commits && hit),
                     splits := q.2.splits.map fun x =>
                       if x.2.st == .wait && p x.2 then (x.1, x.2.returned) else x }) }

/-! ## Named barriers (R355, R356) -/

def Gang.bar (G : Gang) (n : Nat) : Bar := G.bars.getD n { count := 1, arr := 0, phase := 0, who := [] }

/-- Completes a barrier's phase and releases its waiters. -/
def State.completeBar (s : State) (g n : Nat) : State :=
  (s.setGang g fun G => { G with bars := G.bars.set n { G.bar n with arr := 0, phase := (G.bar n).phase + 1, who := [] } }).releaseWait g true
    fun X => match X.wait with
      | some (.bar m) => m == n
      | _ => false

/-- An arrival, of a strand (`some t`, which is committed if its arrival completes the phase) or of a copy. -/
def State.arriveBar (s : State) (g n : Nat) (who : Option Nat) : State :=
  let B := (s.gang g).bar n
  let s1 := s.setGang g fun G => { G with bars := G.bars.set n { B with arr := B.arr + 1, who := B.who ++ who.toList } }
  if B.arr + 1 ≥ B.count then
    let s2 := match who with
      | some t => s1.commit g t
      | none => s1
    s2.completeBar g n
  else s1

/-! ## Cluster barriers (R357) -/

def State.group (s : State) (k : Nat) : Group := s.groups.getD k { gangs := [], bars := [], inflight := [], release := [] }
def Group.bar (K : Group) (n : Nat) : Bar := K.bars.getD n { count := 0, arr := 0, phase := 0, who := [] }
def State.setGroup (s : State) (k : Nat) (f : Group → Group) : State := { s with groups := s.groups.modify k f }

/-- COUNT of a group's cluster barriers: its live members. -/
def State.clCount (s : State) (k : Nat) : Nat := (s.group k).gangs.foldl (fun a g => a + (s.gang g).liveLaunch.length) 0

/-- Completes phases for which every live member has arrived; the waiters are released later. -/
def State.clSettle (s : State) (k : Nat) : State :=
  let c := s.clCount k
  s.setGroup k fun K =>
    { K with bars := K.bars.map fun b =>
               if b.2.arr > 0 && decide (b.2.arr ≥ c) then (b.1, { b.2 with arr := 0, phase := b.2.phase + 1, who := [] }) else b,
             release := K.release ++ K.bars.filterMap fun b => if b.2.arr > 0 && decide (b.2.arr ≥ c) then some b.1 else none }

/-! ## Laps of CKPT (R102, R367) -/

/-- Ends a lap when every live launch-record strand holds at its CKPT: the strands go on, or wait for the checkpoint that is due. -/
def State.lapSettle (s : State) (g : Nat) : State :=
  let G := s.gang g
  let live := G.liveLaunch
  if G.lapAt.isEmpty || !(live.all fun t => G.lapAt.contains t) then s else
    let lap := G.lap + 1
    let due := decide (G.pmode = 1 ∧ lap.toNat % max G.ckptn 1 = 0)
    if due then s.setGang g fun G => { G with lap := lap, phase := .checkpointing }
    else (s.setGang g fun G => { G with lap := lap, lapAt := [] }).releaseWait g false fun X => X.wait == some .ckpt

/-! ## Graph buffers (R197-R201) -/

def nodeRefs : NodeKind → List Ref
  | .prod _ a b c => [a, b] ++ c.toList
  | .trn a | .cvt _ _ _ a => [a]
  | _ => []

def refNodes (l : List Ref) : List Nat := l.filterMap fun r => match r with
  | .node n => some n
  | _ => none

/-- The nodes reachable from a node. -/
def reach (g : Tbl Node) : Nat → List Nat → List Nat
  | 0, l => l
  | k + 1, l =>
    let more := l.flatMap fun n => match g.get? n with
      | some N => refNodes (nodeRefs N.kind)
      | none => []
    if more.all l.contains then l else reach g k (distinct (l ++ more))

def isWld : NodeKind → Bool
  | .wld _ => true
  | _ => false

/-- The tile registers that are PENDING, with the nodes they name. -/
def Strand.pending (S : Strand) : List (Nat × Nat) := S.tregs.filterMap fun q => match q.2.st with
  | .pending n => some (q.1, n)
  | _ => none

def Strand.reachOf (S : Strand) (n : Nat) : List Nat := reach S.graph 64 [n]

/-- Depth of a node (R198). -/
def depthOf (g : Tbl Node) : Nat → Nat → Nat
  | 0, _ => 0
  | k + 1, n => match g.get? n with
    | none => 0
    | some N => 1 + (refNodes (nodeRefs N.kind)).foldl (fun a m => max a (depthOf g k m)) 0

def Strand.treg (S : Strand) (t : Nat) : TileReg := S.tregs.getD t TileReg.zero

/-- Whether a reference reads register d: its value, or the node it names. -/
def refReads (d : Nat) (named : Option Nat) : Ref → Bool
  | .tile t _ | .fut t _ _ _ | .bad t _ _ => t == d
  | .node n => named == some n
  | .slot _ => false

def Strand.namedBy (S : Strand) (d : Nat) : Option Nat := match (S.treg d).st with
  | .pending n => some n
  | _ => none

/-- Registers among those listed, in ascending creation order of the nodes they name. -/
def byRoot (l : List (Nat × Nat)) : List Nat := (distinct (l.map Prod.snd)).filterMap fun n => (l.find? fun q => q.2 == n).map Prod.fst

/-- The registers that the pin rule forces before d is written (R200): the PENDING ones other than d that reach a reader of d. -/
def Strand.pinned (S : Strand) (d : Nat) : List Nat :=
  let readers := (S.graph.filter fun q => (nodeRefs q.2.kind).any (refReads d (S.namedBy d))).map Prod.fst
  byRoot (S.pending.filter fun q => q.1 != d && (S.reachOf q.2).any readers.contains)

/-- Depth that a node over these tile registers would have (R198). -/
def Strand.newDepth (S : Strand) (uses : List Nat) : Nat :=
  1 + uses.foldl (fun a t => match S.namedBy t with
    | some n => max a (depthOf S.graph 64 n)
    | none => a) 0

/-! ## Instruction memory (R173) -/

/-- Granules that a gang's code fills. -/
def Gang.granules (G : Gang) : List Nat := distinct (G.code.map fun b => b.1 / 256)

/-- Granules in which its live splits' PCs lie. -/
def Gang.livePcs (G : Gang) : List Nat :=
  G.strands.flatMap fun t => (t.2.splits.filter fun x => x.2.st.live).map fun x => x.2.pc.toNat / 256

/-- What a granule is in instruction memory: its LAUNCH's, shared by the gangs of the LAUNCH, or its gang's own. -/
def Gang.granule (g : Nat) (G : Gang) (n : Nat) : Nat × Nat × Nat × Nat :=
  match G.queue with
  | some q => if G.own.contains n then (0, g, 0, n) else (1, q, G.cmd, n)
  | none => (0, g, 0, n)

/-- Inserts a value into a list in ascending order of its key. -/
def insertBy {α : Type} (key : α → Nat) (x : α) : List α → List α
  | [] => [x]
  | y :: r => if key x < key y then x :: y :: r else y :: insertBy key x r

/-- Sorts by ascending key, equal ones as they stood. -/
def sortBy {α : Type} (key : α → Nat) (l : List α) : List α := l.foldl (fun a x => insertBy key x a) []

/-- The granules that a core's instruction memory holds, or that were evicted from it. -/
def State.granulesOn (s : State) (c : Nat) (evicted : Bool) : List (Nat × Nat × Nat × Nat) :=
  ((s.gangs.filter fun q => q.2.charged && q.2.core == c).flatMap fun q =>
    (q.2.granules.filter fun n => q.2.evicted.contains n == evicted).map (q.2.granule q.1)).foldl (fun a k => if a.contains k then a else a ++ [k]) []

/-- Evicts what a core holds beyond 256 granules: those that hold no live split's PC, the one fetched least recently first (R173). -/
def State.evict (s : State) (c : Nat) : State :=
  let gs := s.gangs.filter fun q => q.2.charged && q.2.core == c
  let held := s.granulesOn c false
  let live := gs.flatMap fun q => q.2.livePcs.map (q.2.granule q.1)
  let last := fun (k : Nat × Nat × Nat × Nat) => gs.foldl (fun a q => if q.2.granule q.1 k.2.2.2 = k then max a (q.2.fetched.getD k.2.2.2 0) else a) 0
  let out := (sortBy last (held.filter fun k => !(live.contains k))).take (held.length - 256)
  { s with gangs := s.gangs.map fun q =>
      if q.2.charged && q.2.core == c then
        (q.1, { q.2 with evicted := q.2.evicted ++ q.2.granules.filter fun n => out.contains (q.2.granule q.1 n) && !(q.2.evicted.contains n) })
      else q }

/-- Granules of a gang come into its core's instruction memory, for all the gangs that share them. -/
def State.bringIn (s : State) (g : Nat) (ns : List Nat) : State :=
  let G := s.gang g
  let ks := ns.map (G.granule g)
  ({ s with gangs := s.gangs.map fun q =>
      if q.2.charged && q.2.core == G.core then (q.1, { q.2 with evicted := q.2.evicted.filter fun n => !(ks.contains (q.2.granule q.1 n)) })
      else q } : State).evict G.core

/-! ## Leaving -/

/-! ### Stores issued and not performed (R245, R246, R256) -/

def Posted.covers (m : Posted) (a : Nat) : Bool := decide (m.addr ≤ a) && decide (a < m.addr + m.bytes.length)

/-- Whether a store overlaps `n` bytes at an address. -/
def Posted.meets (m : Posted) (a n : Nat) : Bool := decide (m.addr < a + n) && decide (a < m.addr + m.bytes.length)

/-- Whether an older store has to be performed before a younger one: they overlap, and a split has both in its program (R245, R246). -/
def Posted.before (m n : Posted) : Bool := m.meets n.addr n.bytes.length && m.seen.any n.seen.contains

/-- The stores to be performed with those that satisfy `p`, the oldest first, and those that stay. -/
def dueStores (p : Posted → Bool) : List Posted → List Posted × List Posted
  | [] => ([], [])
  | m :: r =>
    let q := dueStores p r
    if p m || q.1.any m.before then (m :: q.1, q.2) else (q.1, m :: q.2)

/-- Performs a strand's stores that satisfy `p`, after the older ones that they overlap. -/
def State.drain (s : State) (g t : Nat) (p : Posted → Bool) : State :=
  let q := dueStores p (s.strand g t).posted
  (q.1.foldl (fun (a : State) m => a.putN m.addr m.bytes) s).setStrand g t fun S => { S with posted := q.2 }

/-- Performs every store of a split's program (R251, R344). -/
def State.drainSplit (s : State) (g t x : Nat) : State := s.drain g t fun m => m.seen.contains x

/-- Performs the stores of a split's program that overlap `n` bytes at an address (R245). -/
def State.drainAt (s : State) (g t x a n : Nat) : State := s.drain g t fun m => m.seen.contains x && m.meets a n

/-- What a split's own stores give a byte (R122, R245, R246). -/
def Strand.sees (S : Strand) (x a : Nat) : Option Byte :=
  ((S.posted.filter fun m => m.seen.contains x && m.covers a).getLast?).map fun m => m.bytes.getD (a - m.addr) 0

/-- A split's store waits to be performed, instead of the stores of its own that it overwrites whole. -/
def Strand.post (S : Strand) (x a : Nat) (bytes : List Byte) (comb : Bool) : Strand :=
  let under := fun (m : Posted) => decide (a ≤ m.addr) && decide (m.addr + m.bytes.length ≤ a + bytes.length) && m.seen.all (· == x)
  { S with posted := (S.posted.filter fun m => !(under m)) ++ [{ addr := a, bytes := bytes, seen := [x], comb := comb }] }

/-- The stores of a split that divides are in the program of each new split (R246). -/
def Strand.share (S : Strand) (x : Nat) (new : List Nat) : Strand :=
  { S with posted := S.posted.map fun m => if m.seen.contains x then { m with seen := distinct (m.seen ++ new) } else m }

/-- The stores of splits that merge are in the program of the one that goes on, and of the others no more. -/
def Strand.unite (S : Strand) (gone : List Nat) (x : Nat) : Strand :=
  { S with posted := S.posted.map fun m =>
      if m.seen.any gone.contains then { m with seen := distinct ((m.seen.filter fun y => !(gone.contains y)) ++ [x]) } else m }

/-- A split that ends is in no program any more. -/
def Strand.leave (S : Strand) (x : Nat) : Strand := { S with posted := S.posted.map fun m => { m with seen := m.seen.filter (· != x) } }

/-- A strand whose last split has gone exits (R85, R88): its pending nodes are discarded, the sets it was a member of shrink, and with
the last launch-record strand the gang's bins launch (R84). -/
def State.exitStrand (s : State) (g t : Nat) : State :=
  let launch := (s.strand g t).isLaunch
  let s1 := (s.drain g t fun _ => true).setStrand g t fun S => { S with exited := true, graph := [], eret := none, disp := none }
  let G := s1.gang g
  let s2 := match G.group with
    | some k => s1.clSettle k
    | none => s1
  let s3 := s2.lapSettle g
  if launch && (s3.gang g).liveLaunch.isEmpty then
    s3.setCore G.core fun C => { C with bins := C.bins.map fun b => if b.2.gang == g then (b.1, { b.2 with due := true }) else b }
  else s3

/-- Cancelling an OVLD leaves its entry with V = 0 and LOADING = 0 (R363). -/
def cancelOvd (G : Gang) (c : Copy) : Gang :=
  match c.kind with
  | .ovld _ _ _ e => { G with ovd := G.ovd.modify e fun w => w &&& 0x3FFFFFFFFFFFFFFF#64 }
  | _ => G

/-- Takes a core's copies that satisfy `p` away: queued, active and parked alike. -/
def State.cancelCopies (s : State) (c : Nat) (p : Copy → Bool) : State :=
  let gone := (s.core c).copies.filter p
  let s1 := gone.foldl (fun a k => a.setGang k.gang fun G => cancelOvd G k) s
  s1.setCore c fun C => { C with copies := C.copies.filter fun k => !(p k) }

/-- Takes a core's forces that satisfy `p` away, the one under evaluation among them (R226). -/
def Core.dropForces (C : Core) (p : Force → Bool) : Core :=
  let left := C.forces.filter fun f => !(p f)
  { C with forces := left, engine := C.engine.filter fun id => left.any fun f => f.id == id }

/-- Takes away what a killed gang still has on its core. Bank commands run on (R137). -/
def State.purgeGang (s : State) (g : Nat) : State :=
  let c := (s.gang g).core
  let s1 := (s.cancelCopies c fun k => k.gang == g).setCore c fun C =>
    { C.dropForces (fun f => f.gang == g) with
             landing := C.landing.filter fun l => l.gang != g,
             bins := C.bins.filter fun b => b.2.gang != g, drain := if C.drain == some g then none else C.drain }
  { s1 with lkres := s1.lkres.filter fun r => r.gang != g, ckpts := s1.ckpts.erase g,
            groups := s1.groups.map fun k => (k.1, { k.2 with inflight := k.2.inflight.filter fun a => a.1 != g }) }

/-- A gang is killed (R52 step 1, R108, R110): the lockets it issued are tarnished with the cause, its proxy's outcome is that cause, what its
strands stored stands (R29), and they are freed at once (R86). GANG_EXIT frees the rest. -/
def State.killGang (s : State) (g : Nat) (cause : Byte) : State :=
  let G := s.gang g
  let s1 := s.tarnish G.part (s.issuedBy G.part g) cause
  let s2 := match G.proxy with
    | some i => s1.tarnishProxy G.part i cause (cause == tcFLR)
    | none => s1
  let blocks := (G.strands.filter fun q => !q.2.freed).foldl (fun a q => a + q.2.vblk) 0
  let s2 := G.strands.foldl (fun a q => a.drain g q.1 fun _ => true) s2
  let s2 := if G.charged then s2.setPart G.part fun P => { P with regions := chargeUsage P.regions G.region [0, blocks, 0, 0, 0, 0] true } else s2
  let s3 := (s2.purgeGang g).setGang g fun G =>
    { G with killed := true, phase := .dead, wloads := [], savedSp := none, savedBins := [],
             strands := G.strands.map fun q => (q.1, { q.2 with exited := true, freed := true, graph := [], forces := [] }) }
  match G.group with
  | some k => s3.clSettle k
  | none => s3

/-! ## Fault records (R107, R108, R37) -/

/-- A trap as raised: `val` is what cr.FLTADDR takes, `opc` the originating node's PC of a graph fault. -/
structure Trap where
  cause  : Byte
  detail : DWord := 0
  addr   : DWord := 0
  lanes  : Word := 0
  val    : DWord := 0
  opc    : Option (BitVec 16) := none
  all    : Bool := false
deriving DecidableEq, Repr

def cILLEGAL : Byte := 0x01
def cLENGTH : Byte := 0x02
def cFUTURE : Byte := 0x03
def cOPERAND : Byte := 0x04
def cCONVERGENCE : Byte := 0x05
def cNESTING : Byte := 0x06
def cDISPATCH : Byte := 0x07
def cREJOIN : Byte := 0x08
def cFLASHSTATE : Byte := 0x09
def cLIVEIN : Byte := 0x0A
def cSYSREG : Byte := 0x0B
def cRECIPE : Byte := 0x0C
def cOVLMISS : Byte := 0x10
def cSWTRAP : Byte := 0x11
def cBREAK : Byte := 0x12
def cSTALLCHK : Byte := 0x13
def cARITH : Byte := 0x14
def cGRAPHLEAF : Byte := 0x30
def cTILEPOISON : Byte := 0x31
def cWVERSION : Byte := 0x32
def cSTALELOCKET : Byte := 0x38
def cFOREIGNLOCKET : Byte := 0x39
def cSPAWNSTARVE : Byte := 0x3A
def cHANDLEROVERLAP : Byte := 0x3B
def cDOUBLETRAP : Byte := 0x3C
def cGANGFAULT : Byte := 0x40
def cUCE : Byte := 0x41

/-- The resumable class (R104). -/
def resumable (c : Byte) : Bool := c == cOVLMISS || c == cSWTRAP || c == cBREAK || c == cSTALLCHK || c == cARITH

/-- FFLAGS of R107 but for killed and suspended. -/
def fflags (S : Strand) (tr : Trap) : Nat :=
  (if S.eret.isSome then 4 else 0) + (if S.recipe.isSome then 8 else 0) + (if tr.cause = cGRAPHLEAF then 16 else 0)

/-- The 128 bytes of a record (R107). -/
def recordBytes (s : State) (g t x : Nat) (pc : BitVec 16) (tr : Trap) (ff : Nat) : List Byte :=
  let G := s.gang g
  let S := G.strands.getD t Strand.empty
  let sp := if tr.all then S.liveSplits else [x]
  let one := fun i => leBytes 8 ((S.splits.getD i Split.none).mask.toNat * 2 ^ 32 + (if i = x then pc else (S.splits.getD i Split.none).pc).toNat)
  [tr.cause, BitVec.ofNat 8 ff, BitVec.ofNat 8 sp.length, BitVec.ofNat 8 t] ++ leBytes 2 G.region ++ leBytes 2 G.core ++
    leBytes 2 pc.toNat ++ leBytes 2 (tr.opc.getD pc).toNat ++ leBytes 2 (G.queue.getD 0xFFFF) ++ leBytes 2 0 ++ leBytes 4 G.index ++
    leBytes 4 tr.lanes.toNat ++ leBytes 8 tr.addr.toNat ++ leBytes 8 tr.detail.toNat ++ sliceB (sp.flatMap one) 0 32 ++
    leBytes 8 s.cycle ++ leBytes 8 G.locket.toNat ++ leBytes 40 0

def satInc (w : Word) : Word := if w = BitVec.allOnes 32 then w else w + 1

/-- A record that finds no ring, or one that cannot be read and written, is counted in USAGE (R35, R37). -/
def State.countDropped (s : State) (p r : Nat) : State :=
  s.setPart p fun P => { P with regions := P.regions.modify r fun R => { R with dropped := satInc R.dropped, dirty := true } }

/-- Writes a record to the region's fault ring (R37). Its indices run freely modulo 2^32, and the ring is full where they differ by its size (DESIGN
CHOICE, log entry 26). -/
def State.postRecord (s : State) (p r : Nat) (bytes : List Byte) : State :=
  let e := effRcb (s.part p).regions r
  let ring := e.fring.toNat
  if ring = 0 then s.countDropped p r else
    match s.readVa p ring 64 with
    | .error _ => s.countDropped p r
    | .ok h =>
      let prod := leAt h 0 4
      let cons := leAt h 4 4
      if (prod + 2 ^ 32 - cons) % 2 ^ 32 ≥ 2 ^ e.frlog2 then
        (match s.writeVa p (ring + 8) (leBytes 4 (min (leAt h 8 4 + 1) 0xFFFFFFFF)) with
         | .ok s' => s'
         | .error _ => s.countDropped p r)
      else
        match s.writeVa p (ring + 64 + prod % 2 ^ e.frlog2 * 128) bytes with
        | .error _ => s.countDropped p r
        | .ok s1 =>
          match s1.writeVa p ring (leBytes 4 ((prod + 1) % 2 ^ 32)) with
          | .ok s2 => s2
          | .error _ => s.countDropped p r

/-- The interrupt of R108. -/
def State.faultIrq (s : State) (g : Nat) : State :=
  let G := s.gang g
  match G.queue with
  | some q => s.msix (s.queue q).func (s.queue q).desc.vec
  | none => match s.exporter G.part with
    | some f => s.msix f 0
    | none => s

/-- Bit 2 of a region's FLAGS: suspend on fault. -/
def Gang.suspends (G : Gang) : Bool := G.flags.getLsbD 2

/-- Sets the strand's fault image (R400). -/
def State.setImage (s : State) (g t : Nat) (bytes : List Byte) : State := s.setStrand g t fun S => { S with image := tblPut [] 0 bytes }

/-- Where a fault strikes: strand, split, PC, and the trap. -/
structure FaultAt where
  t  : Nat
  x  : Nat
  pc : BitVec 16
  tr : Trap
deriving DecidableEq, Repr

/-- Whether a fault of a gang suspends it; `kills` is the policy of UCE (R110). -/
def Gang.stopsBySuspending (G : Gang) (kills : Bool) : Bool := G.suspends && !kills

/-- Writes the record of one faulting strand (R107). -/
def State.writeRecord (s : State) (g : Nat) (kills : Bool) (f : FaultAt) : State :=
  let G := s.gang g
  let rec_ := recordBytes s g f.t f.x f.pc f.tr (fflags (G.strands.getD f.t Strand.empty) f.tr + (if G.stopsBySuspending kills then 2 else 1))
  (s.setImage g f.t rec_).postRecord G.part G.region rec_

/-- A gang suspended by a fault. A pre-emption in progress is abandoned, its image with it (R112); a gang whose image is saved already is suspended
when it is placed again. -/
def Gang.suspend (G : Gang) : Gang :=
  { G with phase := if G.charged then .suspended else G.phase, suspendAt := G.suspendAt || !G.charged,
           savedSp := if G.phase == .saving then none else G.savedSp, savedBins := if G.phase == .saving then [] else G.savedBins }

/-- The region's fault policy (R108). -/
def State.faultPolicy (s : State) (g : Nat) (kills : Bool) (cause : Byte) : State :=
  let G := s.gang g
  if G.stopsBySuspending kills then
    let s2 := s.setGang g Gang.suspend
    match G.proxy with
    | some i => s2.tarnishProxy G.part i cause false
    | none => s2
  else s.killGang g cause

/-- Records the faults of a gang's strands of one cycle in the order given, interrupts, and applies the policy (R107, R108). -/
def State.faultAll (s : State) (g : Nat) (fs : List FaultAt) (kills : Bool) (cause : Byte) : State :=
  ((fs.foldl (fun a f => a.writeRecord g kills f) s).faultIrq g).faultPolicy g kills cause

/-- Gangs of a co-schedule group (R81) besides one, that are still there. -/
def State.mates (s : State) (g : Nat) : List Nat :=
  match (s.gang g).group with
  | some k => (s.group k).gangs.filter fun h => h != g && !(s.gang h).killed && (s.gangs.get? h).isSome
  | none => []

/-- The strand and split a gang-wide record speaks of: the lowest strand that has not exited. -/
def Gang.firstStrand (G : Gang) : Nat × BitVec 16 :=
  match G.strands.find? fun q => !q.2.exited with
  | some q => (q.1, (q.2.splits.getD 0 Split.none).pc)
  | none => (0, 0)

/-- Faults that write records: the gang's own, then GANGFAULT for every other gang of its group (R109). -/
def State.faults (s : State) (g : Nat) (fs : List FaultAt) (kills : Bool) (cause : Byte) : State :=
  let idx := (s.gang g).index
  (s.mates g).foldl (fun a h =>
    let f := (a.gang h).firstStrand
    a.faultAll h [{ t := f.1, x := 0, pc := f.2, tr := { cause := cGANGFAULT, detail := BitVec.ofNat 64 idx } }] false tcFAULT)
    (s.faultAll g fs kills cause)

/-- The fault of one strand. -/
def State.fault (s : State) (g t x : Nat) (pc : BitVec 16) (tr : Trap) (kills : Bool) (cause : Byte) : State :=
  s.faults g [{ t := t, x := x, pc := pc, tr := tr }] kills cause

/-! ## Taking a trap, and returning from one -/

/-- Entering handler mode (R105 steps 2 to 4). -/
def State.enterHandler (s : State) (g t x : Nat) (pc next : BitVec 16) (tr : Trap) : State :=
  let G := s.gang g
  let epc := if tr.cause = cOVLMISS ∨ tr.cause = cSTALLCHK then pc else next
  s.setStrand g t fun S =>
    let X := S.splits.getD x Split.none
    let v := (((X.view.putCtl crFLTPC (pc.zeroExtend 64)).putCtl crEPC (epc.zeroExtend 64)).putCtl crFLTINFO
      (BitVec.ofNat 64 (x % 4 * 256 + tr.cause.toNat))).putCtl crFLTADDR tr.val
    { S with eret := some { split := x, mask := X.mask, counters := S.counters },
             splits := S.splits.set x { X with st := .run, wait := none, view := v,
                                               pc := BitVec.ofNat 16 (65536 - G.hlen * 256) + G.hentry } }

/-- Taking a trap (R104-R109, R400). Every trap sets the strand's fault image. A resumable one enters handler mode where the region has a
handler and the strand is not in handler mode already; in handler mode every trap is a DOUBLETRAP; every other writes a fault record and
the policy applies. -/
def State.raise (s : State) (g t x : Nat) (pc next : BitVec 16) (tr : Trap) : State :=
  let G := s.gang g
  let S := s.strand g t
  if S.eret.isSome then
    s.fault g t x pc { tr with cause := cDOUBLETRAP, all := false,
                               detail := BitVec.ofNat 64 (tr.detail.toNat % 256 * 256 + tr.cause.toNat) } false tcFAULT
  else if resumable tr.cause && G.hlen != 0 then
    (s.setImage g t (recordBytes s g t x pc tr (fflags S tr))).enterHandler g t x pc next tr
  else s.fault g t x pc tr false tcFAULT

/-- Return from handler mode to the PC that cr.EPC gives (R105, R399). -/
def State.eretReturn (s : State) (g t x : Nat) (epc : DWord) : State :=
  s.setStrand g t fun S =>
    match S.eret with
    | none => S
    | some e =>
      let X := S.splits.getD x Split.none
      { S with eret := none, counters := e.counters,
               splits := S.splits.set x { X with mask := e.mask, pc := (epc.truncate 16 : BitVec 16) &&& 0xFFFC#16 } }

end Sys2Proof.Machine
end

