-- ==== Sys2Proof/Machine/Operands.lean ====
section
/-! DEFINITION. Machine/Operands.lean: what each instruction reads and writes (R159, R263, R413), the operand crossbar (R163, R164), the
checks made at issue (R159, R166, R167, R169, R99), and issuing (R168). -/

namespace Sys2Proof.Machine

open Sys2Proof

/-! ## What an instruction names -/

/-- One operand: scalar read or write, vector source, pair source, vector or pair destination, a run of vector registers read, written or
only named, a run of scalars only named, a tile, slot or barrier. -/
inductive Use where
  | rs (r : Nat) | ws (r : Nat)
  | rv (f : Src) | rp (f : Src)
  | wv (r : Nat) | wp (r : Nat)
  | rrun (r n : Nat) | wrun (r n : Nat) | vrun (r n : Nat) | srun (r n : Nat)
  | tile (n : Nat) | slot (n : Nat) | bar (n : Nat)
deriving DecidableEq, Repr

/-- A vector source of a type: a pair for a 64-bit one (R270). -/
def srcU (ty : Ty) (f : Src) : Use := if ty.is64 then .rp f else .rv f
def dstU (ty : Ty) (d : BitVec 8) : Use := if ty.is64 then .wp d.toNat else .wv d.toNat

def sU (r : BitVec 8) : Use := .rs r.toNat
def dU (r : BitVec 8) : Use := .ws r.toNat

/-- Registers of a row of a vector image (R370). -/
def imageRegs (bf16 : Bool) (rows cols : Nat) : Nat := if bf16 then rows else rows * ((cols + 31) / 32)

/-- The barrier that a copy names, if it arrives on one (R358). -/
def cpU (m : CpMod) : List Use := if m.nben then [.bar m.nb.toNat] else []

/-- The operands an instruction names (R267-R277), in no particular order. -/
def usesOf : Instr → List Use
  | .brc _ _ a _ | .ret _ a => [sU a]
  | .call _ d _ | .ovlcall _ d _ _ => [dU d]
  | .callx _ d a => [dU d, .rv a]
  | .jmpx _ a | .vbr _ a _ | .vif _ _ a | .vbreak _ _ a | .vcont _ _ a | .vendl _ _ a _ => [.rv a]
  | .flash _ f =>
    [.vrun f.v0.first.toNat f.v0.count.toNat, .vrun f.v1.first.toNat f.v1.count.toNat, .srun f.s0.first.toNat f.s0.count.toNat,
     .srun f.s1.first.toNat f.s1.count.toNat]
  | .spawn _ a b => [.rv a, .rrun b.toNat 4]
  | .sadd _ d a b | .ssub _ d a b | .smul _ d a b | .sand _ d a b | .sor _ d a b | .sxor _ d a b | .sshl _ d a b | .sshr _ d a b
  | .ssra _ d a b => [dU d, sU a, sU b]
  | .smulh _ _ d a b | .sdiv _ _ d a b | .srem _ _ d a b | .smin _ _ d a b | .smax _ _ d a b => [dU d, sU a, sU b]
  | .scmp _ _ _ d a b => [dU d, sU a, sU b]
  | .ssel _ d a b x => [dU d, sU a, sU b, sU x]
  | .saddi _ d a _ | .sclz _ d a | .spopc _ d a => [dU d, sU a]
  | .sbfx _ _ d a _ _ => [dU d, sU a]
  | .smovi _ d _ => [dU d]
  | .smovhi _ d _ => [dU d, sU d]
  | .sbfi _ d a _ _ => [dU d, sU d, sU a]
  | .srdv _ d a _ p => [dU d, if p then .rp a else .rv a]
  | .svote _ _ d a => [dU d, .rv a]
  | .sredv _ _ t d a => [dU d, srcU t a]
  | .vadd _ t _ d a b | .vsub _ t _ d a b => [dstU t d, srcU t a, srcU t b]
  | .vmul _ t d a b | .vmulh _ t d a b | .vand _ t d a b | .vor _ t d a b | .vxor _ t d a b | .vshl _ t d a b | .vshr _ t d a b
  | .vsra _ t d a b | .vmin _ t d a b | .vmax _ t d a b => [dstU t d, srcU t a, srcU t b]
  | .vmad _ t d a b x => [dstU t d, srcU t a, srcU t b, srcU t x]
  | .vabs _ t _ d a => [dstU t d, srcU t a]
  | .vclz _ t d a | .vpopc _ t d a => [dstU t d, srcU t a]
  | .vbfx _ _ d a _ _ => [.wv d.toNat, .rv a]
  | .vbfi _ d a _ _ => [.wv d.toNat, .rv { pat := .same, reg := d }, .rv a]
  | .vsel _ t d a b x => [dstU t d, srcU t a, srcU t b, .rv x]
  | .vcmp _ _ t d a b => [.wv d.toNat, srcU t a, srcU t b]
  | .vaddi _ _ d a _ => [.wv d.toNat, .rv a]
  | .vmov _ p d a => if p then [.wp d.toNat, .rp a] else [.wv d.toNat, .rv a]
  | .vmovi _ d _ | .vlane _ _ d => [.wv d.toNat]
  | .vshuf _ p d a b => if p then [.wp d.toNat, .rp a, .rv b] else [.wv d.toNat, .rv a, .rv b]
  | .vscan _ _ t _ d a => [dstU t d, srcU t a]
  | .vsegred _ _ t d a b => [dstU t d, srcU t a, .rv b]
  | .vfadd _ _ d a b | .vfsub _ _ d a b | .vfmul _ _ d a b | .vfdiv _ _ d a b => [.wv d.toNat, .rv a, .rv b]
  | .vffma _ _ _ _ d a b x => [.wv d.toNat, .rv a, .rv b, .rv x]
  | .vfsqrt _ _ d a | .vfrnd _ _ d a => [.wv d.toNat, .rv a]
  | .vfmin _ d a b | .vfmax _ d a b => [.wv d.toNat, .rv a, .rv b]
  | .vfcmp _ _ d a b => [.wv d.toNat, .rv a, .rv b]
  | .vfrcp _ d a | .vfrsq _ d a | .vfexp2 _ d a | .vflog2 _ d a | .vfcls _ d a => [.wv d.toNat, .rv a]
  | .vfcvt _ _ dt st d a | .vdcvt _ _ dt st d a => [dstU dt d, srcU st a]
  | .vdadd _ _ d a b | .vdsub _ _ d a b | .vdmul _ _ d a b => [.wp d.toNat, .rp a, .rp b]
  | .vdfma _ _ _ _ d a b x => [.wp d.toNat, .rp a, .rp b, .rp x]
  | .vdcmp _ _ d a b => [.wv d.toNat, .rp a, .rp b]
  | .vrng _ d a b => [.wv d.toNat, .rp a, sU b]
  | .sld _ _ _ d a _ => [dU d, sU a]
  | .sst _ _ _ a b _ => [sU a, sU b]
  | .vld _ t _ d a _ => [dstU t d, sU a]
  | .vst _ t _ a b _ => [sU a, srcU t b]
  | .vlds _ t _ d a x _ => [dstU t d, sU a, sU x]
  | .vsts _ t _ a b x _ => [sU a, srcU t b, sU x]
  | .vldx _ t _ d a x _ => [dstU t d, sU a, .rv x]
  | .vstx _ t _ a b x _ => [sU a, srcU t b, .rv x]
  | .vldt _ _ _ d a x _ => [.wrun d.toNat 32, sU a, sU x]
  | .pref _ a _ | .cflush _ a _ => [sU a]
  | .vatom _ _ t _ nr d a b x _ => (if nr then [] else [dstU t d]) ++ [sU a, srcU t b, .rv x]
  | .vcas _ t _ d a b x _ => [dstU t d, srcU t { pat := .same, reg := d }, sU a, srcU t b, .rv x]
  | .satom _ _ _ _ nr d a b _ => (if nr then [] else [dU d]) ++ [sU a, sU b]
  | .scas _ _ _ d a b _ => [dU d, sU d, sU a, sU b]
  | .bars _ a n => [sU a, .bar n.toNat]
  | .bara _ n | .barw _ n | .bart _ n => [.bar n.toNat]
  | .cpy _ m d a b x _ => [dU d, sU a, sU b, sU x] ++ cpU m
  | .cpyt _ m d a b x _ _ => [dU d, sU a, sU b, sU x] ++ cpU m
  | .cpyg _ m _ d a b x _ _ => [dU d, sU a, sU b, sU x] ++ cpU m
  | .cpyd _ m _ d a b x _ _ => [dU d, sU a, sU b, sU x] ++ cpU m
  | .ovld _ _ d a b x _ _ => [dU d, sU a, sU b, sU x]
  | .cbld _ _ d b _ => [dU d, sU b]
  | .lrec _ a _ => [.rv a]
  | .tld _ d ys _ _ t => [.tile d.toNat, .rs t.xs.toNat, .rs ys.toNat]
  | .tldv _ d ys f m n t => [.tile d.toNat, .rs ys.toNat, .rrun f.toNat (imageRegs (t == .bf16) (m.toNat + 1) (n.toNat + 1))]
  | .tmma _ d f =>
    [.tile d.toNat, .tile f.ta.toNat, .rs f.ys.toNat] ++ (if f.bw then [.slot f.ws.toNat] else [.tile f.tb.toNat]) ++
      (if f.zeroc then [] else [.tile f.tc.toNat])
  | .ttrn _ d ta => [.tile d.toNat, .tile ta.toNat]
  | .tcvt _ d ta _ _ => [.tile d.toNat, .tile ta.toNat]
  | .tforce _ n | .tdrop _ n => [.tile n.toNat]
  | .tbatch _ d => [dU d]
  | .twait _ a => [sU a]
  | .tst _ ta t => [.tile ta.toNat, .rs t.xs.toNat]
  | .trdv _ d ta _ rs _ cs t => [.tile ta.toNat, .wrun d.toNat (imageRegs (t == .bf16) (rs.toNat + 1) (cs.toNat + 1))]
  | .wld _ d ws xs ys _ _ _ _ => [sU d, .slot ws.toNat, .rs xs.toNat, .rs ys.toNat]
  | .wswap _ n => [.slot n.toNat]
  | .tplan _ d _ => [dU d]
  | .wver _ a n => [sU a, .slot n.toNat]
  | .bred _ _ t a b x => [sU a, .rv b, srcU t x]
  | .bxadd _ d a b x => [dU d, sU a, .rv b, .rv x]
  | .bxrd _ w _ d a b => [if w then .wp d.toNat else .wv d.toNat, sU a, .rv b]
  | .bxclr _ d a b => [dU d, sU a, .rv b]
  | .baxpy _ d a b x n _ => [dU d, sU a, sU b, sU x, .rs n.toNat]
  | .bewu _ _ d a b x n m _ => [dU d, sU a, sU b, sU x, .rs n.toNat, .rs m.toNat]
  | .ksinit _ d a b _ _ _ => [dU d, sU a, sU b]
  | .ksupd _ _ d a b x => [dU d, sU a, .rp b, .rv x]
  | .ksqry _ _ d a b => [.wv d.toNat, sU a, .rp b]
  | .ksadd _ d a b => [dU d, sU a, sU b]
  | .lkrel _ a => [sU a]
  | .lkstat _ d a | .lkwait _ d a => [dU d, sU a]
  | .invk _ d a b _ _ | .invka _ d a b _ _ => [dU d, sU a, .rv b]
  | .lkget _ _ _ d a b => [dU d, sU a, sU b]
  | .sysrd _ d _ | .fltrd _ d _ => [dU d]
  | .syswr _ a _ => [sU a]
  | _ => []

/-- Whether an instruction may round under RS through cr.SRKEY (R187, R413). -/
def mayRs (r : Rmo) : Bool := r == .rs || r == .cr

def rmodeKeys (r : Rmo) : List Nat := if mayRs r then [crRMODE, crSRKEY] else [crRMODE]

/-- The same where rounding is certain never to happen: a conversion to a wider type is exact (R338, R413). -/
def cvtKeys (r : Rmo) (dty sty : Ty) : List Nat :=
  let wider : Bool := match dty with
    | .f32 => !(([.i32, .n32, .i64, .n64, .f64] : List Ty).contains sty)
    | .f64 => !(([.i64, .n64] : List Ty).contains sty)
    | _ => false
  if wider then [crRMODE] else rmodeKeys r

/-- What a reduction, a scan or a segmented reduction reads: only a float sum rounds (R320). -/
def redKeys (op : ROp) (ty : Ty) : List Nat := if ty.isT then [] else if op == .add then [crRMODE, crSRKEY] else [crRMODE]

/-- Control registers an instruction reads implicitly (R413); every instruction reads cr.CHK. -/
def ctlReadsOf (i : Instr) : List Nat :=
  crCHK :: (match i with
    | .sredv _ op t _ _ | .vscan _ op t _ _ _ | .vsegred _ op t _ _ _ => redKeys op t
    | .vfadd _ r _ _ _ | .vfsub _ r _ _ _ | .vfmul _ r _ _ _ | .vfdiv _ r _ _ _ | .vdadd _ r _ _ _ | .vdsub _ r _ _ _
    | .vdmul _ r _ _ _ => rmodeKeys r
    | .vffma _ r _ _ _ _ _ _ | .vdfma _ r _ _ _ _ _ _ => rmodeKeys r
    | .vfsqrt _ r _ _ | .vfrnd _ r _ _ => rmodeKeys r
    | .vfcvt _ r dty sty _ _ | .vdcvt _ r dty sty _ _ => cvtKeys r dty sty
    | .vfmin .. | .vfmax .. | .vfcmp .. | .vfrcp .. | .vfrsq .. | .vfexp2 .. | .vflog2 .. | .vdcmp .. => [crRMODE]
    | .vst _ t m _ _ _ => if t == .f32 && m.space == .g then [crRMODE, crSRKEY] else []
    | .vsts _ t m _ _ _ _ => if t == .f32 && m.space == .g then [crRMODE, crSRKEY] else []
    | .vstx _ t m _ _ _ _ => if t == .f32 && m.space == .g then [crRMODE, crSRKEY] else []
    | .tforce .. | .tst .. | .trdv .. | .wswap .. | .ckpt .. => [crRMODE, crSRKEY, crCONTRACT]
    | .tcvt .. => [crRMODE]
    | .baxpy .. | .bewu .. => [crRMODE]
    | .ksupd _ none _ _ _ _ => [crLSCALE]
    | .callx .. | .jmpx .. => [crDTBASE, crDTLEN]
    | .spawn .. => [crDTBASE, crDTLEN, crSPWT]
    | .eret _ => [crEPC]
    | .sysrd _ _ n => [n.toNat]
    | _ => [])

/-- The destination and operand tiles of an instruction that makes a node; a WLD's node has neither (R199). -/
def nodeTiles : Instr → Option (Option Nat × List Nat)
  | .tld _ d .. | .tldv _ d .. => some (some d.toNat, [])
  | .tmma _ d f => some (some d.toNat, [f.ta.toNat] ++ (if f.bw then [] else [f.tb.toNat]) ++ (if f.zeroc then [] else [f.tc.toNat]))
  | .ttrn _ d a => some (some d.toNat, [a.toNat])
  | .tcvt _ d a _ _ => some (some d.toNat, [a.toNat])
  | .wld .. => some (none, [])
  | _ => none

/-- Whether a node over these operands has no room (R201). -/
def Strand.crowded (S : Strand) (uses : List Nat) : Bool := decide (S.graph.length + 1 > 48) || decide (S.newDepth uses > 16)

/-- Whether the pin rule or auto-force makes an instruction force, so that it reads what a forcing instruction reads (R200, R201, R413). -/
def Strand.willForce (S : Strand) (i : Instr) : Bool :=
  match i with
  | .tdrop _ n => !(S.pinned n.toNat).isEmpty
  | _ => match nodeTiles i with
    | some (d, uses) => !(d.elim [] S.pinned).isEmpty || S.crowded uses
    | none => false

/-- Control registers that an instruction of a strand reads. -/
def Strand.ctlReads (S : Strand) (i : Instr) : List Nat := ctlReadsOf i ++ (if S.willForce i then [crRMODE, crSRKEY, crCONTRACT] else [])

/-- Instructions of majors 0xC0 to 0xCF, whose convergence is checked before all else but their registers' ranges (R368). -/
def isGraph : Instr → Bool
  | .tld .. | .tldv .. | .tmma .. | .ttrn .. | .tcvt .. | .tforce .. | .tbatch .. | .twait .. | .tst .. | .trdv .. | .tdrop .. | .tfence ..
  | .wld .. | .wswap .. | .wver .. | .tplan .. => true
  | _ => false

/-- Vector registers of a use. -/
def Use.vregs : Use → List Nat
  | .rv f => if f.pat = .scalar then [] else [f.reg.toNat]
  | .rp f => if f.pat = .scalar then [] else [f.reg.toNat, f.reg.toNat + 1]
  | .wv r => [r]
  | .wp r => [r, r + 1]
  | .rrun r n | .wrun r n | .vrun r n => (List.range n).map (r + ·)
  | _ => []

/-- Scalar registers of a use. -/
def Use.sregs : Use → List Nat
  | .rs r | .ws r => [r]
  | .rv f | .rp f => if f.pat = .scalar then [f.reg.toNat] else []
  | .srun r n => (List.range n).map (r + ·)
  | _ => []

def Use.isRead : Use → Bool
  | .rs _ | .rv _ | .rp _ | .rrun .. => true
  | _ => false

def Use.isWrite : Use → Bool
  | .ws _ | .wv _ | .wp _ | .wrun .. => true
  | _ => false

/-- A pair named by an odd register (R159 0x03). -/
def Use.oddPair : Use → Bool
  | .rp f => f.pat != .scalar && f.reg.toNat % 2 == 1
  | .wp r => r % 2 == 1
  | _ => false

/-- A tile, slot or barrier the allocation has not (R159 0x05). -/
def Use.beyond (ntiles nslots nbar : Nat) : Use → Bool
  | .tile n => decide (n ≥ ntiles)
  | .slot n => decide (n ≥ nslots)
  | .bar n => decide (n ≥ nbar)
  | _ => false

/-- The register ranges of R159: the subcode of OPERAND, lowest first. -/
def operandFault (us : List Use) (nv ntiles nslots nbar : Nat) : Option Nat :=
  if us.any fun u => u.vregs.any fun r => decide (r ≥ nv) then some 2
  else if us.any Use.oddPair then some 3
  else if us.any fun u => u.sregs.any fun r => decide (r > 63) then some 4
  else if us.any (Use.beyond ntiles nslots nbar) then some 5
  else none

/-! ## Issue -/

/-- An instruction as it issues: whose it is, what its sources read, its PC and the next, its active lanes, and the cycle. `G`, `S` and
`X` are as the instruction reads them. -/
structure Ctx where
  g    : Nat
  t    : Nat
  x    : Nat
  G    : Gang
  S    : Strand
  X    : Split
  pc   : BitVec 16
  next : BitVec 16
  stall : Nat
  yld  : Bool
  act  : Word
  now  : Nat
deriving DecidableEq, Repr

def isFlash : Instr → Bool
  | .flash .. => true
  | _ => false

/-- Bytes of an instruction; 8 for one that is no word of its own. -/
def bytesOf (i : Instr) : Nat :=
  match i.com with
  | some c => lenBytes c.fmt.len
  | none => 8

/-- Scalars and control registers (keys) whose earlier fixed-latency write has not landed. -/
def lateKeys (v : View) (now : Nat) (reads : List Nat) : List Fly := v.fly.filter fun f => decide (f.lands > now) && reads.contains f.key

def lateV (S : Strand) (now : Nat) (reads : List Nat) : List VFly := S.vfly.filter fun f => decide (f.lands > now) && reads.contains f.reg

/-- The view as an early reader sees it: of each late register, the value before one of the writes in flight, or the new one; they land in issue order
(R168; DEDUCED, log entry 8). -/
def oldView (v : View) (n : Nat) (l : List Fly) : View :=
  l.zipIdx.reverse.foldl (fun a f =>
    if Config.earlyOld (n + f.1.key + 512 * f.2) then
      (if f.1.key < 256 then { a with s := a.s.set f.1.key f.1.old } else { a with cr := a.cr.set (f.1.key - 256) f.1.old })
    else a) v

/-- The same for the lanes of vector registers; a lane shows the value before a write only where it shows none of a later one (R323). -/
def oldVregs (S : Strand) (n : Nat) (l : List VFly) : Strand :=
  l.zipIdx.reverse.foldl (fun a f =>
    if Config.earlyOld (n + 2 ^ 40 + f.1.reg + 512 * f.2) then { a with v := putLanes a.v f.1.reg f.1.lanes fun i => f.1.old.getD i 0 } else a) S

/-- What stands in the way of an instruction that is otherwise ready. -/
inductive Gate where
  | go (k : Ctx)
  | hold
  | trap (tr : Trap)
deriving DecidableEq, Repr

/-- Whether a strand has issued bank commands of some kind that have not completed, on whatever core it then ran: those of its entry, and those that its
gang issued before it was placed again (R138, R257). -/
def State.bankBefore (s : State) (g t : Nat) (p : BankWork → Bool) : Bool :=
  s.cores.any fun c => c.2.bank.any fun w =>
    w.gang == g && p w && (w.strand == t || c.1 != (s.gang g).core || w.gen != (s.strand g w.strand).gen)

/-- The checks and waits common to every instruction of a split in RUN: its stall count (R168), a handler of another split (R105), an
`.msacq` of the strand that its bank has not performed (R138), operand ranges (R159), the scoreboard (R167), STALLCHK (R169), poison marks (R166), live-ins (R99). -/
def gate (i : Instr) (s : State) : Gate :=
  let g := s.cur.g
  let t := s.cur.t
  let x := s.cur.x
  let G := s.gang g
  let S := G.strands.getD t Strand.empty
  let X := S.splits.getD x Split.none
  let us := usesOf i
  let reads := (us.filter Use.isRead)
  let writes := (us.filter Use.isWrite)
  let rsk := reads.flatMap Use.sregs ++ (S.ctlReads i).map crKey
  let rvr := reads.flatMap Use.vregs
  let wsk := writes.flatMap Use.sregs
  let wvr := writes.flatMap Use.vregs
  let late := lateKeys X.view s.cycle rsk
  let vlate := lateV S s.cycle rvr
  if X.readyAt > s.cycle then .hold
  else if (match S.eret with | some e => e.split != x | none => false) then .hold
  else if s.bankBefore g t BankWork.acq then .hold
  else
    match operandFault us (16 * S.vblk) S.ntiles G.lrec.wslots G.lrec.nbar with
    | some n => .trap { cause := cOPERAND, detail := BitVec.ofNat 64 n }
    | none =>
      if isGraph i && !S.converged then .trap { cause := cCONVERGENCE }
      else if (rsk ++ wsk).any (fun k => k != 0 && X.view.busy.contains k) || (rvr ++ wvr).any S.vbusy.contains then .hold
      else
        match late.find? (·.chk), vlate.find? (·.chk) with
        | some f, _ => .trap { cause := cSTALLCHK, val := BitVec.ofNat 64 (f.key % 256) }
        | none, some f => .trap { cause := cSTALLCHK, val := BitVec.ofNat 64 f.reg }
        | none, none =>
          match (rsk.filterMap X.view.marks.get?) ++ (rvr.filterMap S.vmarks.get?) with
          | m :: _ => .trap { cause := cPOISON, addr := m.addr, detail := m.detail }
          | [] =>
            let X1 := { X with view := oldView X.view (s.choice 0) late }
            let S1 := oldVregs S (s.choice 0) vlate
            let live := match S.flash with
              | some f => (X1.view.ctl crCHK).getLsbD 1 && !(S.recipe.isSome && S.eret.isNone) && !isFlash i &&
                  (wsk.any (fun r => r != 0 && f.sset.contains r) || wvr.any f.vset.contains)
              | none => false
            if live then .trap { cause := cLIVEIN }
            else
              .go { g := g, t := t, x := x, G := G, S := S1, X := X1, pc := X.pc, next := X.pc + BitVec.ofNat 16 (bytesOf i),
                    stall := (i.com.map fun c => c.stall.toNat).getD 0, yld := (i.com.map Com.yld).getD false, act := S.active X,
                    now := s.cycle }

/-- A split that may issue: its gang is running and it is in RUN. -/
def State.canIssue (s : State) : Bool :=
  let G := s.gang s.cur.g
  let S := G.strands.getD s.cur.t Strand.empty
  (match G.phase with
   | .running => true
   | .stopping _ judged => judged && S.committed && !S.atFlash
   | _ => false) && !S.exited && (S.splits.getD s.cur.x Split.none).st == .run

/-- Issues an instruction for the split that State.cur names: it is held, it traps, or `body` gives its effect. -/
def issue (i : Instr) (body : Ctx → State → State) (s : State) : Host.Outcome State Fault Refusal :=
  if ¬ s.canIssue then .fault .noIssuingSplit
  else
    match gate i s with
    | .hold => .next s
    | .trap tr =>
      let X := s.split s.cur.g s.cur.t s.cur.x
      .next (s.raise s.cur.g s.cur.t s.cur.x X.pc (X.pc + BitVec.ofNat 16 (bytesOf i)) tr)
    | .go k => .next (body k s)

/-- The split goes on at a PC (R297), no earlier than its stall count allows (R168). -/
def Ctx.goto (k : Ctx) (pc : BitVec 16) (s : State) : State :=
  s.setSplit k.g k.t k.x fun X => { X with pc := pc, readyAt := k.now + 1 + k.stall, yld := k.yld }

/-- The instruction is complete. -/
def Ctx.done (k : Ctx) (s : State) : State := k.goto k.next s

/-- The instruction raises a trap (R104). -/
def Ctx.trap (k : Ctx) (tr : Trap) (s : State) : State := s.raise k.g k.t k.x k.pc k.next tr

/-! ## Reading operands -/

def Ctx.s (k : Ctx) (r : BitVec 8) : DWord := k.X.view.scalar r.toNat
def Ctx.s6 (k : Ctx) (r : BitVec 6) : DWord := k.X.view.scalar r.toNat
/-- A control register as the instruction reads it; cr.FSTAT holds the flags of the instructions that have completed (R162). -/
def Ctx.cr (k : Ctx) (n : Nat) : DWord := if n = crFSTAT then k.X.view.fstatAt k.now else k.X.view.ctl n
def Ctx.lanes (k : Ctx) : List Nat := lanesOf k.act
def Ctx.on (k : Ctx) (i : Nat) : Bool := bit k.act i

/-- The lane that lane i reads under a pattern (R163). -/
def patLane : Pat → Nat → Nat
  | .rot n, i => (i + n.val) % 32
  | .bc n, _ => n.val
  | .bf n, i => i ^^^ 2 ^ n.val
  | .mir n, i => i ^^^ (2 ^ (n.val + 1) - 1)
  | _, i => i

/-- ReadOp of a 32-bit position (R163, R278). -/
def Ctx.v (k : Ctx) (f : Src) (i : Nat) : Word :=
  if f.pat = .scalar then low32 (k.s f.reg) else k.S.lane f.reg.toNat (patLane f.pat i)

/-- ReadOp of a pair position. -/
def Ctx.p (k : Ctx) (f : Src) (i : Nat) : DWord :=
  if f.pat = .scalar then k.s f.reg else k.S.lanePair f.reg.toNat (patLane f.pat i)

/-- ReadOp of a typed position, as a number. -/
def Ctx.val (k : Ctx) (ty : Ty) (f : Src) (i : Nat) : Nat := if ty.is64 then (k.p f i).toNat else (k.v f i).toNat

/-! ## Writing results -/

def Ctx.chk (k : Ctx) : Bool := (k.cr crCHK).getLsbD 0

/-- WriteS of a fixed-latency result. -/
def Ctx.setS (k : Ctx) (lat : Nat) (d : BitVec 8) (x : DWord) (s : State) : State :=
  s.setView k.g k.t k.x fun v => v.flyScalar k.chk k.now lat d.toNat x

/-- WriteV of a fixed-latency result in the active lanes. -/
def Ctx.setV (k : Ctx) (lat : Nat) (d : BitVec 8) (f : Nat → Word) (s : State) : State :=
  s.setStrand k.g k.t fun S => S.flyV k.chk k.now lat d.toNat k.lanes f

/-- WriteV of a pair. -/
def Ctx.setP (k : Ctx) (lat : Nat) (d : BitVec 8) (f : Nat → DWord) (s : State) : State :=
  s.setStrand k.g k.t fun S =>
    (S.flyV k.chk k.now lat d.toNat k.lanes fun i => low32 (f i)).flyV k.chk k.now lat (d.toNat + 1) k.lanes fun i => high32 (f i)

/-- WriteV of a typed result given as a number. -/
def Ctx.setT (k : Ctx) (ty : Ty) (lat : Nat) (d : BitVec 8) (f : Nat → Nat) (s : State) : State :=
  if ty.is64 then k.setP lat d (fun i => BitVec.ofNat 64 (f i)) s else k.setV lat d (fun i => BitVec.ofNat 32 (f i)) s

/-- Marks a scalar as awaiting a variable-latency write (R167). -/
def Ctx.busyS (k : Ctx) (d : Nat) (s : State) : State :=
  if d = 0 then s else s.setView k.g k.t k.x fun v => { v with busy := addKey v.busy d }

/-- A variable-latency scalar write lands in the view of the split that issued it, unless its strand has gone (R86, R157). -/
def State.landScalar (s : State) (g t x : Nat) (gen : BitVec 16) (d : Nat) (val : DWord) : State :=
  let S := s.strand g t
  if d = 0 ∨ S.gen ≠ gen ∨ S.freed then s
  else s.setView g t x fun v => { v.putScalar d val with busy := dropKey v.busy d }

end Sys2Proof.Machine
end

