-- ==== Sys2Proof/Machine/Flags.lean ====
section
/-! DEFINITION. Machine/Flags.lean: widths of types, rounding modes and stochastic draws (R186, R187, R265, R324), the flags of cr.FSTAT and the
arithmetic trap (R161, R188, R324), and the reductions that SREDV, VSCAN and VSEGRED share (R320). -/

namespace Sys2Proof.Machine

open Sys2Proof

/-! ## Types (R264) -/

/-- Bits of an element of a type. -/
def tyBits : Ty → Nat
  | .i8 | .n8 | .e4m3 | .e5m2 | .mx8 => 8
  | .i16 | .n16 | .f16 | .bf16 => 16
  | .i32 | .n32 | .f32 => 32
  | .i64 | .n64 | .f64 => 64
  | .mx4 | .cb4 => 4

/-- ElemBytes of a type of a whole number of bytes. -/
def tyBytes (t : Ty) : Nat := tyBits t / 8

def tySigned : Ty → Bool
  | .i8 | .i16 | .i32 | .i64 => true
  | _ => false

/-- The float format of a float type. -/
def tyFmt : Ty → Option FFmt
  | .f64 => some .f64 | .f32 => some .f32 | .f16 => some .f16 | .bf16 => some .bf16 | .e4m3 => some .e4m3 | .e5m2 => some .e5m2
  | _ => none

/-- Decode of a value of a type as an exact number (R177, R180). -/
def decodeTy (t : Ty) (x : Nat) : Num :=
  match tyFmt t with
  | some f => Num.decode f (x % 2 ^ f.width)
  | none => Num.ofInt (intOf (tySigned t) (tyBits t) x) 0

/-- A code of a type narrower than 32 bits, extended to its lane register (R338, R342). -/
def widen32 (t : Ty) (x : Nat) : Nat :=
  if tySigned t && decide (tyBits t < 32) then wrap 32 (intOf true (tyBits t) x) else x

/-- The same extended to a scalar register (R320, R345, R351). -/
def widen64 (t : Ty) (x : Nat) : DWord :=
  if tySigned t then sextN x (tyBits t) else BitVec.ofNat 64 (x % 2 ^ tyBits t)

/-! ## Rounding -/

/-- The mode an RMO selects (R265, R324): cr.RMODE.MODE as the instruction reads it, or the one named. -/
def Ctx.mode (k : Ctx) (r : Rmo) : Mode :=
  match r with
  | .cr => field (k.cr crRMODE).toNat 2 0
  | .rne => 0
  | .rz => 1
  | .ru => 2
  | .rd => 3
  | .rs => 4

def Ctx.nosat (k : Ctx) : Bool := (k.cr crRMODE).getLsbD 4

/-- The draw of R187 for an element index. -/
def Ctx.draw (k : Ctx) (idx : Nat) : Nat := rsDraw (k.cr crSRKEY) k.pc idx

/-- The IEEE flags whose trap is enabled: TEN of cr.RMODE in the order NV, DZ, OF, UF, NX (R161). -/
def tenOf (rmode : DWord) : DWord := (rmode >>> 8) &&& 0x1F

/-! ## Flags and the arithmetic trap -/

/-- Flags of an instruction of latency `lat`, ORed into cr.FSTAT when it completes (R162, R413). -/
def Ctx.flag (k : Ctx) (lat : Nat) (fl : DWord) (s : State) : State :=
  if fl = 0 then s else s.setView k.g k.t k.x fun v => v.addPend (k.now + lat) fl

/-- The instruction has written its results and set its flags: it is complete, or, where a flag's trap is enabled, raises ARITH with the
register it wrote (R188, R324). -/
def Ctx.finish (k : Ctx) (lat : Nat) (all trapped : DWord) (lanes : Word) (d : BitVec 8) (s : State) : State :=
  let s1 := k.flag lat all s
  if trapped = 0 then k.done s1
  else k.trap { cause := cARITH, lanes := lanes, val := d.zeroExtend 64 }
    (s1.setSplit k.g k.t k.x fun X => { X with readyAt := k.now + 1 + k.stall, yld := k.yld })

/-- Finishes an instruction with flags lane by lane. -/
def Ctx.finishLanes (k : Ctx) (lat : Nat) (d : BitVec 8) (fl : Nat → DWord) (s : State) : State :=
  let all := k.lanes.foldl (fun a i => a ||| fl i) (0 : DWord)
  let ten := tenOf (k.cr crRMODE)
  k.finish lat all (all &&& ten) (setOfLanes (k.lanes.filter fun i => fl i &&& ten ≠ 0)) d s

/-- A vector instruction whose lanes give a code of a type and flags (R324). -/
def Ctx.floatV (k : Ctx) (ty : Ty) (lat : Nat) (d : BitVec 8) (f : Nat → Res) (s : State) : State :=
  k.finishLanes lat d (fun i => (f i).flags) (k.setT ty lat d (fun i => widen32 ty (f i).bits) s)

/-- A vector instruction with integer results and no flag (R321). -/
def Ctx.intV (k : Ctx) (ty : Ty) (lat : Nat) (d : BitVec 8) (f : Nat → Nat) (s : State) : State := k.done (k.setT ty lat d f s)

/-- A scalar instruction (R313). -/
def Ctx.intS (k : Ctx) (lat : Nat) (d : BitVec 8) (x : DWord) (s : State) : State := k.done (k.setS lat d x s)

/-! ## Reductions (R320, R331, R332) -/

/-- One step of an integer reduction or of an integer atomic, on w-bit codes. -/
def intOp (op : ROp) (ty : Ty) (a b : Nat) : Nat :=
  let w := tyBits ty
  let lt := decide (intOf (tySigned ty) w a < intOf (tySigned ty) w b)
  match op with
  | .add => (a + b) % 2 ^ w
  | .min => if lt then a else b
  | .max => if lt then b else a
  | .and => a &&& b
  | .or => a ||| b
  | .xor => a ^^^ b
  | .xchg => b

/-- The result over no lane (R320). -/
def intIdent (op : ROp) (ty : Ty) : Nat :=
  let w := tyBits ty
  match op with
  | .and => 2 ^ w - 1
  | .min => if tySigned ty then 2 ^ (w - 1) - 1 else 2 ^ w - 1
  | .max => if tySigned ty then 2 ^ (w - 1) else 0
  | _ => 0

/-- The minimum or maximum of a set of numbers (R320). -/
def floatExt (f : FFmt) (isMax : Bool) (l : List Num) : Res :=
  let fl : DWord := if l.any Num.isSnan then fNV else 0
  match l.filter fun x => !x.isNan with
  | [] => { bits := if l.isEmpty then signBit f isMax + f.infCode else f.canon, flags := fl }
  | x :: r => { bits := (roundTo f 0 0 (r.foldl (fun a b => (minMax isMax a b).1) x)).bits, flags := fl }

/-- A reduction of a set of codes of one type; `draw` is the RS draw of its one rounding. -/
def reduce (op : ROp) (ty : Ty) (mode : Mode) (draw : Nat) (l : List Nat) : Res :=
  match tyFmt ty with
  | none =>
    (match l with
     | [] => { bits := intIdent op ty, flags := 0 }
     | x :: r => { bits := r.foldl (intOp op ty) x, flags := 0 })
  | some f =>
    let ns := l.map (Num.decode f)
    match op with
    | .add => windowSum f mode draw (ns.map Term.of)
    | .max => floatExt f true ns
    | _ => floatExt f false ns

/-- Latency of a reduction, 4 for integers, 6 for FP32, 12 for FP64 (R313, R322). -/
def redLat (ty : Ty) : Nat := if ty = .f64 then 12 else if ty = .f32 then 6 else 4

/-- The latency of an instruction's fixed-latency result (R168, R297, R313, R322); 0 where it has none. -/
def latencyOf : Instr → Nat
  | .call .. | .callx .. | .ovlcall .. | .sysrd .. | .syswr .. | .fltrd .. | .tbatch .. | .sadd .. | .ssub .. | .smul .. | .smulh .. | .sdiv ..
  | .srem .. | .sand .. | .sor .. | .sxor .. | .sshl .. | .sshr .. | .ssra .. | .smin .. | .smax .. | .scmp .. | .ssel .. | .saddi .. | .smovi ..
  | .smovhi .. | .sclz .. | .spopc .. | .sbfx .. | .sbfi .. => 2
  | .srdv .. | .svote .. | .vadd .. | .vsub .. | .vmul .. | .vmulh .. | .vmad .. | .vand .. | .vor .. | .vxor .. | .vshl .. | .vshr .. | .vsra ..
  | .vmin .. | .vmax .. | .vabs .. | .vclz .. | .vpopc .. | .vbfx .. | .vbfi .. | .vsel .. | .vcmp .. | .vaddi .. | .vmov .. | .vmovi .. | .vshuf ..
  | .vlane .. | .vrng .. => 4
  | .sredv _ _ ty _ _ | .vscan _ _ ty _ _ _ | .vsegred _ _ ty _ _ _ => redLat ty
  | .vfadd .. | .vfsub .. | .vfmul .. | .vffma .. | .vfmin .. | .vfmax .. | .vfcmp .. | .vfrnd .. | .vfcvt .. | .vfcls .. => 6
  | .vfdiv .. | .vfsqrt .. | .vfrcp .. | .vfrsq .. | .vfexp2 .. | .vflog2 .. | .vdadd .. | .vdsub .. | .vdmul .. | .vdfma .. | .vdcmp ..
  | .vdcvt .. => 12
  | _ => 0

end Sys2Proof.Machine
end

