-- ==== Sys2Proof/Machine/BankOps.lean ====
section
/-! DEFINITION. Machine/BankOps.lean: what the bank ALUs do (R132-R152, R384-R392): the requests a bank command makes, one at a time, each
atomic on its lines, and their arithmetic. -/

namespace Sys2Proof.Machine

open Sys2Proof

/-! ## Exact cells (R142-R144) -/

/-- A cell's fields. -/
structure Cell where
  value : Nat
  flags : Byte
  count : Nat
deriving DecidableEq, Repr

def cellOf (l : List Byte) : Cell := { value := leAt l 0 40, flags := l.getD 40 0, count := leAt l 41 3 }

/-- The cell's bytes; its reserved bytes keep what they hold. -/
def cellBytes (old : List Byte) (c : Cell) : List Byte := leBytes 40 c.value ++ [c.flags] ++ leBytes 3 c.count ++ old.drop 44

def signed320 (v : Nat) : Int := if v ≥ 2 ^ 319 then (v : Int) - 2 ^ 320 else v

/-- R143 for a term given as an FP32 code. -/
def cellAdd (c : Cell) (t : Nat) : Cell :=
  let n := Num.decode .f32 t
  let fl := match n with
    | .nan _ => c.flags ||| 8
    | .inf false => c.flags ||| 4
    | .inf true => c.flags ||| 2
    | .fin .. =>
      let sum := signed320 c.value + n.atExp (-149)
      if sum < -(2 ^ 319) ∨ sum ≥ 2 ^ 319 then c.flags ||| 0x10 else c.flags
  let v := match n with
    | .fin .. => wrap 320 (signed320 c.value + n.atExp (-149))
    | _ => c.value
  { value := v, flags := if t % 2 ^ 32 = 0x80000000 then fl else fl ||| 0x20, count := min (c.count + 1) 0xFFFFFF }

/-- R144. -/
def cellRead (f : FFmt) (c : Cell) : Nat :=
  let b := fun i => c.flags.getLsbD i
  if b 3 || (b 2 && b 1) || b 4 then f.canon
  else if b 2 then f.infCode
  else if b 1 then signBit f true + f.infCode
  else if c.value = 0 then (if c.count ≠ 0 && !(b 5) then signBit f true else 0)
  else (roundTo f 0 0 (Num.ofInt (signed320 c.value) (-149))).bits

/-! ## Sketches (R146-R150) -/

/-- SketchHash (R147): bucket, and whether the sign is −1. -/
def sketchHash (seed i w : Nat) (key : DWord) : Nat × Bool :=
  let m := 2 ^ 32
  let a := ((seed + 0x6A09E667 * (i + 1)) % m) ||| 1
  let b := seed ^^^ ((0xBB67AE85 * (i + 1)) % m)
  let h := (a * (low32 key).toNat + b * (high32 key).toNat + seed) % m
  (field h 31 (32 - w), field h (31 - w) (31 - w) == 1)

/-- A sketch header (R146). -/
structure SkHdr where
  seed  : Nat
  dep   : Nat
  w     : Nat
  sigma : Int
  sfl   : Byte
deriving DecidableEq, Repr

def skHdrOf (l : List Byte) : SkHdr :=
  { seed := leAt l 0 4, dep := leAt l 4 1, w := leAt l 5 1, sigma := intOf true 8 (leAt l 6 1), sfl := l.getD 7 0 }

def skValid (l : List Byte) : Bool :=
  let h := skHdrOf l
  (h.dep == 1 || h.dep == 3 || h.dep == 5 || h.dep == 7) && decide (3 ≤ h.w) && decide (h.w ≤ 20) && (l.drop 8).all (· == 0)

def skBytes (dep w : Nat) : Nat := 64 + dep * 2 ^ w * 8

/-- The counter of row i, bucket j of an object (R146). -/
def counterAt (obj w i j : Nat) : Nat := obj + 64 + 8 * (i * 2 ^ w + j)

def signed48 (x : Nat) : Int := intOf true 48 x

/-- A KSUPD's contribution (R149): its integer, CNAN, CSAT. -/
def contribution (v : Nat) (e sigma : Int) : Int × Bool × Bool :=
  let top : Int := 2 ^ 47 - 1
  match Num.decode .f32 v with
  | .nan _ => (0, true, false)
  | .inf n => (if n then -top else top, false, true)
  | .fin n m x =>
    let y := if m = 0 then 0 else (roundAt 0 0 n m (x - e - sigma) 0).1
    if (y : Int) > top then (if n then -top else top, false, true) else (if n then -(y : Int) else y, false, false)

def insertInt (x : Int) : List Int → List Int
  | [] => [x]
  | y :: r => if x ≤ y then x :: y :: r else y :: insertInt x r

/-- The median of an odd number of integers (R150). -/
def median (l : List Int) : Int := (l.foldl (fun a x => insertInt x a) []).getD ((l.length - 1) / 2) 0

/-! ## Element-wise updates (R139, R141) -/

/-- An updated element with completion bits 56 and 57. -/
structure Upd where
  bits : Nat
  nan  : Bool
  ovf  : Bool
deriving DecidableEq, Repr

def dec32 (x : Nat) : Num := Num.decode .f32 x

/-- Whether a step made a NaN from operands that are none (completion bit 56). -/
def madeNan (q : List Num × Res) : Bool := (dec32 q.2.bits).isNan && !(q.1.any Num.isNan)

/-- Whether a result overflowed (completion bit 57). -/
def Res.over (r : Res) : Bool := r.flags &&& fOF ≠ 0

/-- An element's result with bits 56 and 57, of the steps that gave it with their operands (R136, R388). -/
def updOf (steps : List (List Num × Res)) (r : Res) : Upd := { bits := r.bits, nan := steps.any madeNan, ovf := r.over }

/-- BRED's operation on an element (R139). -/
def bredOp (op : ROp) (ty : Ty) (old x : Nat) : Nat :=
  if ty = .f32 then (roundTo .f32 0 0 (minMax (op == .max) (dec32 old) (dec32 x)).1).bits else intOp op ty old x

def axpy (mode : Mode) (a x y : Nat) : Upd :=
  let r := fFma .f32 mode 0 false false (dec32 a) (dec32 x) (dec32 y)
  updOf [([dec32 a, dec32 x, dec32 y], r)] r

def scadd (mode : Mode) (a b x y : Nat) : Upd :=
  let t := fMul .f32 mode 0 (dec32 b) (dec32 y)
  let r := fFma .f32 mode 0 false false (dec32 a) (dec32 x) (dec32 t.bits)
  updOf [([dec32 b, dec32 y], t), ([dec32 a, dec32 x, dec32 t.bits], r)] r

/-- Whether clamp bounds are invalid (R141). -/
def clampBad (a b : Nat) : Bool := (dec32 a).isNan || (dec32 b).isNan || Num.below (dec32 b) (dec32 a)

def clampE (a b y : Nat) : Upd :=
  let n := dec32 y
  let r := if n.isNan then FFmt.f32.canon else (roundTo .f32 0 0 (minMax false (minMax true n (dec32 a)).1 (dec32 b)).1).bits
  { bits := r, nan := false, ovf := false }

def mulE (mode : Mode) (x y : Nat) : Upd :=
  let r := fMul .f32 mode 0 (dec32 x) (dec32 y)
  updOf [([dec32 x, dec32 y], r)] r

/-- BEWU.MOMENT of a quad (R141): G, M1, M2, UPD as they become. -/
def moment (mode : Mode) (p : List Nat) (q : List Nat) : List Nat × Bool × Bool :=
  let P := fun i => dec32 (p.getD i 0)
  let g := dec32 (q.getD 0 0)
  let mul := fun a b => fMul .f32 mode 0 a b
  let d := fun (r : Res) => dec32 r.bits
  let t1 := mul (P 1) g
  let m1 := fFma .f32 mode 0 false false (P 0) (dec32 (q.getD 1 0)) (d t1)
  let gg := mul g g
  let t2 := mul (P 3) (d gg)
  let m2 := fFma .f32 mode 0 false false (P 2) (dec32 (q.getD 2 0)) (d t2)
  let r1 := mul (d m2) (P 6)
  let r2 := fSqrt .f32 mode 0 (d r1)
  let den := fAdd .f32 mode 0 (d r2) (P 4)
  let r3 := mul (d m1) (P 5)
  let upd := fDiv .f32 mode 0 (d r3) (d den)
  let M1 := dec32 (q.getD 1 0)
  let M2 := dec32 (q.getD 2 0)
  ([q.getD 0 0, m1.bits, m2.bits, upd.bits],
   [([P 1, g], t1), ([P 0, M1, d t1], m1), ([g, g], gg), ([P 3, d gg], t2), ([P 2, M2, d t2], m2), ([d m2, P 6], r1), ([d r1], r2),
    ([d r2, P 4], den), ([d m1, P 5], r3), ([d r3, d den], upd)].any madeNan,
   m1.over || m2.over || upd.over)

/-! ## Requests -/

/-- Lines that a range of elements of `b` bytes from `y` covers. -/
def rangeLines (y n b : Nat) : Nat := if n = 0 then 0 else (y + n * b - 1) / 64 - y / 64 + 1

def laneAt (w : BankWork) (i : Nat) : BLane := w.lanes.getD i { lane := 0, addr := 0, data := 0, key := 0 }

/-- The elements of a range at `y` that lie in its i-th line: first and number. -/
def lineElems (y n b i : Nat) : Nat × Nat :=
  let lo := max y ((y / 64 + i) * 64)
  let hi := min (y + n * b) ((y / 64 + i + 1) * 64)
  ((lo - y) / b, (hi - lo) / b)

def elemBytes (op : EwOp) : Nat := if op = .moment then 16 else 4

/-- How many requests a command makes. `n` is the valid count of a range command. -/
def reqTotal (kind : BankKind) (lanes n : Nat) : Nat :=
  match kind with
  | .bred .. | .bxadd | .bxrd .. | .bxclr => lanes
  | .baxpy _ _ y => rangeLines y n 4
  | .bewu op _ _ _ y => rangeLines y n (elemBytes op)
  | .ksinit _ _ _ d w => 1 + d * 2 ^ (w - 3)
  | .ksupd _ _ d _ _ _ => lanes * (d + 1)
  | .ksqry _ _ d _ _ _ => lanes * d
  | .ksadd _ _ d w => 1 + d * 2 ^ (w - 3)

/-- The range (share offset, bytes) of an operand that a command reads at its own banks and carries to those it writes (R132); none where it reads
nothing, or what it writes. -/
def operandRange (kind : BankKind) (n : Nat) : Option (Nat × Nat) :=
  match kind with
  | .baxpy _ x y | .bewu .scadd _ _ x y | .bewu .mul _ _ x y => if x = y ∨ n = 0 then none else some (x, 4 * n)
  | .bewu .moment _ _ x _ => if n = 0 then none else some (x, 32)
  | .ksadd a b d w => if a = b then none else some (b, skBytes d w)
  | _ => none

/-- The part of a range in its j-th line. -/
def lineRange (r : Nat × Nat) (j : Nat) : Nat × Nat :=
  let lo := max r.1 ((r.1 / 64 + j) * 64)
  (lo, min (r.1 + r.2) ((r.1 / 64 + j + 1) * 64) - lo)

def BankWork.range (w : BankWork) : Option (Nat × Nat) := operandRange w.kind w.count

/-- The byte ranges (share offset, bytes) of a command's j-th visit at its operand's banks. -/
def readTouches (w : BankWork) (j : Nat) : List (Nat × Nat) := (w.range.map fun r => lineRange r j).toList

/-- Operand visits that stand before request i. -/
def BankWork.needs (w : BankWork) (i : Nat) : Nat :=
  match w.range with
  | none => 0
  | some r =>
    match w.kind with
    | .baxpy _ _ y | .bewu .scadd _ _ _ y | .bewu .mul _ _ _ y =>
      let e := lineElems y w.count 4 i
      (r.1 + 4 * (e.1 + e.2) - 1) / 64 - r.1 / 64 + 1
    | .ksadd .. => i + 1
    | _ => 1

/-- The byte ranges (share offset, bytes) that request i reads or writes. -/
def reqTouches (w : BankWork) (i : Nat) : List (Nat × Nat) :=
  match w.kind with
  | .bred _ ty => [((laneAt w i).addr, tyBytes ty)]
  | .bxadd | .bxrd .. | .bxclr => [((laneAt w i).addr, 64)]
  | .baxpy _ _ y => let e := lineElems y w.count 4 i; [(y + 4 * e.1, 4 * e.2)]
  | .bewu op _ _ _ y =>
    let b := elemBytes op
    let e := lineElems y w.count b i
    [(y + b * e.1, b * e.2)]
  | .ksinit o _ _ _ _ => [(o + 64 * i, 64)]
  | .ksupd o seed d wd _ _ =>
    let L := laneAt w (i / (d + 1))
    let r := i % (d + 1)
    if r = d then [(o, 64)] else [(counterAt o wd r (sketchHash seed r wd L.key).1, 8)]
  | .ksqry o seed d wd _ _ =>
    let L := laneAt w (i / d)
    let r := i % d
    [(counterAt o wd r (sketchHash seed r wd L.key).1, 8)]
  | .ksadd a _ _ _ => [(a + 64 * i, 64)]

/-- Banks that a byte range touches, by the physical address of each line. -/
def banksOf (settings : List Nat) (r : Nat × Nat) : List Nat :=
  if r.2 = 0 then [] else
    (List.range ((r.1 + r.2 - 1) / 64 - r.1 / 64 + 1)).map fun i => bankOf (bankAddr settings ((r.1 / 64 + i) * 64))

/-- Banks that a command still has to visit. -/
def workBanks (settings : List Nat) (w : BankWork) : List Nat :=
  ((List.range (w.reads - w.fetched)).flatMap fun j => (readTouches w (w.fetched + j)).flatMap (banksOf settings)) ++
    (List.range (w.total - w.cur)).flatMap fun i => (reqTouches w (w.cur + i)).flatMap (banksOf settings)

/-- Whether a gang's core has unfinished bank work at some banks (R134: a later request to them waits), or the gang has on a core where it was placed
before (R257). -/
def State.bankBusy (s : State) (g : Nat) (banks : List Nat) : Bool :=
  let G := s.gang g
  s.cores.any fun c => c.2.bank.any fun w => (c.1 == G.core || w.gang == g) && w.part == G.part && (workBanks (s.settings w.part) w).any banks.contains

/-- Whether a command may visit some banks: no earlier command of its core still has to visit them (R134), and none that its gang issued on a core where
it was placed before (R257). -/
def State.mayVisit (s : State) (c : Nat) (w : BankWork) (at_ : List (Nat × Nat)) : Bool :=
  let mine := at_.flatMap (banksOf (s.settings w.part))
  let there := fun (e : BankWork) => (workBanks (s.settings e.part) e).any mine.contains
  !(((s.core c).bank.takeWhile fun e => e.id != w.id).any there) &&
    !(s.cores.any fun k => k.1 != c && k.2.bank.any fun e => e.gang == w.gang && decide (e.id < w.id) && there e)

/-- Whether a command's next operand visit may be performed. -/
def State.mayFetch (s : State) (c : Nat) (w : BankWork) : Bool := decide (w.fetched < w.reads) && s.mayVisit c w (readTouches w w.fetched)

/-- Whether a command's next request may be performed: the operands that it needs have been carried to it. -/
def State.mayApply (s : State) (c : Nat) (w : BankWork) : Bool :=
  decide (w.cur < w.total ∧ w.needs w.cur ≤ w.fetched) && s.mayVisit c w (reqTouches w w.cur)

/-- Whether a command has a visit that may be performed. -/
def State.mayRequest (s : State) (c : Nat) (w : BankWork) : Bool := s.mayFetch c w || s.mayApply c w

/-! ## Performing a request -/

/-- Reads, writes and poison of share offsets of a partition. -/
def State.bkPa (s : State) (p b : Nat) : Nat := bankAddr (s.settings p) b
def State.bkRead (s : State) (p b n : Nat) : List Byte := (List.range n).map fun i => s.mem.read (s.bkPa p (b + i))
def State.bkNat (s : State) (p b n : Nat) : Nat := ofLe (s.bkRead p b n)
def State.bkWrite (s : State) (p b : Nat) (l : List Byte) : State :=
  (List.range l.length).foldl (fun a i => a.putN (s.bkPa p (b + i)) [l.getD i 0]) s
def State.bkPoisoned (s : State) (p b n : Nat) : Bool := (List.range n).any fun i => s.mem.poison.contains (poisonUnit (s.bkPa p (b + i)))
/-- A line that its command leaves poisoned (R110). -/
def State.bkPoison (s : State) (p b : Nat) : State :=
  let a := poisonUnit (s.bkPa p b)
  { s with mem := { s.mem with poison := if s.mem.poison.contains a then s.mem.poison else s.mem.poison ++ [a] } }
def State.bkCure (s : State) (p b : Nat) : State :=
  { s with mem := { s.mem with poison := s.mem.poison.filter (· != poisonUnit (s.bkPa p b)) } }

/-- Completion bits 56 (1), 57 (2), 58 (4) of R136. -/
def BankWork.set (w : BankWork) (b : BitVec 3) : BankWork := { w with bits := w.bits ||| b }

def bNan : BitVec 3 := 1
def bOvf : BitVec 3 := 2
def bPois : BitVec 3 := 4

/-- An operand visit: the line's bytes are read in that bank's order, and carried on (R132). -/
def fetchOperand (s : State) (w : BankWork) : BankWork :=
  match readTouches w w.fetched with
  | r :: _ => { w with fetched := w.fetched + 1, carry := w.carry.set w.fetched (if s.bkPoisoned w.part r.1 r.2 then none else some (s.bkRead w.part r.1 r.2)) }
  | [] => { w with fetched := w.fetched + 1 }

/-- Bytes of an operand as its visit carried them, or as they stand where it lies in what the request writes; none where they were poisoned. -/
def operandAt (s : State) (w : BankWork) (a n : Nat) : Option (List Byte) :=
  match w.range with
  | none => if s.bkPoisoned w.part a n then none else some (s.bkRead w.part a n)
  | some r =>
    let j := a / 64 - r.1 / 64
    (w.carry.getD j none).map fun l => sliceB l (a - (lineRange r j).1) n

/-- One element of a range command with an x operand. -/
def rangeElem (s : State) (p : Nat) (w : BankWork) (x y : Nat) (f : Nat → Nat → Upd) : State × BankWork :=
  match operandAt s w x 4 with
  | none => (s.bkPoison p y, w.set bPois)
  | some l =>
    if s.bkPoisoned p y 4 then (s.bkPoison p y, w.set bPois)
    else
      let r := f (ofLe l) (s.bkNat p y 4)
      (s.bkWrite p y (leBytes 4 r.bits), (w.set (if r.nan then bNan else 0)).set (if r.ovf then bOvf else 0))

/-- Elements `e.1` to `e.1 + e.2 - 1` of a range, in order. -/
def foldElems (e : Nat × Nat) (f : Nat → State × BankWork → State × BankWork) (a : State × BankWork) : State × BankWork :=
  (List.range e.2).foldl (fun b i => f (e.1 + i) b) a

/-- One element of BEWU.MOMENT with the parameter record at x. -/
def momentElem (s : State) (p : Nat) (w : BankWork) (x y : Nat) : State × BankWork :=
  match operandAt s w x 32 with
  | none => (s.bkPoison p y, w.set bPois)
  | some l =>
    if s.bkPoisoned p y 16 then (s.bkPoison p y, w.set bPois)
    else
      let q := (List.range 4).map fun i => s.bkNat p (y + 4 * i) 4
      let r := moment w.mode ((List.range 8).map fun i => leAt l (4 * i) 4) q
      (s.bkWrite p y (r.1.flatMap (leBytes 4)), (w.set (if r.2.1 then bNan else 0)).set (if r.2.2 then bOvf else 0))

/-- One counter of KSUPD. -/
def counterAdd (s : State) (p : Nat) (w : BankWork) (a : Nat) (c : Int) : State × BankWork :=
  if s.bkPoisoned p a 8 then (s, w.set bPois)
  else (s.bkWrite p a (leBytes 8 (wrap 48 (signed48 (s.bkNat p a 8) + c))), w)

/-- Performs request `i` of a command at its banks (R139-R151): the state and the command's own record after it. -/
def perform (s : State) (w : BankWork) (i : Nat) : State × BankWork :=
  let p := w.part
  match w.kind with
  | .bred op ty =>
    let L := laneAt w i
    let n := tyBytes ty
    if s.bkPoisoned p L.addr n then (s, w)
    else (s.bkWrite p L.addr (leBytes n (bredOp op ty (s.bkNat p L.addr n) (L.data.toNat % 2 ^ tyBits ty))), w)
  | .bxadd =>
    let L := laneAt w i
    if s.bkPoisoned p L.addr 64 then (s, w.set bPois)
    else
      let old := s.bkRead p L.addr 64
      let c := cellAdd (cellOf old) (L.data.toNat % 2 ^ 32)
      (s.bkWrite p L.addr (cellBytes old c), w.set (if c.flags.getLsbD 4 then bOvf else 0))
  | .bxrd f64 _ =>
    let L := laneAt w i
    let v := cellRead (if f64 then .f64 else .f32) (cellOf (s.bkRead p L.addr 64))
    let m : Tbl Mark := if s.bkPoisoned p L.addr 64 then w.outMark.set L.lane { addr := L.key, detail := w.pc.zeroExtend 64 } else w.outMark
    (s, { w with out := w.out.set L.lane (BitVec.ofNat 64 v), outMark := m })
  | .bxclr =>
    let L := laneAt w i
    ((s.bkWrite p L.addr (leBytes 64 0)).bkCure p L.addr, w)
  | .baxpy a x y =>
    foldElems (lineElems y w.count 4 i) (fun e b => rangeElem b.1 p b.2 (x + 4 * e) (y + 4 * e) (axpy w.mode a.toNat)) (s, w)
  | .bewu .scadd a b x y =>
    foldElems (lineElems y w.count 4 i) (fun e q => rangeElem q.1 p q.2 (x + 4 * e) (y + 4 * e) (scadd w.mode a.toNat b.toNat)) (s, w)
  | .bewu .mul _ _ x y =>
    foldElems (lineElems y w.count 4 i) (fun e q => rangeElem q.1 p q.2 (x + 4 * e) (y + 4 * e) (mulE w.mode)) (s, w)
  | .bewu .clamp a b _ y =>
    foldElems (lineElems y w.count 4 i)
      (fun e q => rangeElem q.1 p q.2 (y + 4 * e) (y + 4 * e) (fun _ v => clampE a.toNat b.toNat v)) (s, w)
  | .bewu .moment _ _ x y => foldElems (lineElems y w.count 16 i) (fun e q => momentElem q.1 p q.2 x (y + 16 * e)) (s, w)
  | .ksinit o seed sigma d wd =>
    let line := o + 64 * i
    let bytes := if i = 0 then leBytes 4 seed ++ leBytes 1 d ++ leBytes 1 wd ++ leBytes 1 sigma ++ leBytes 57 0 else leBytes 64 0
    ((s.bkWrite p line bytes).bkCure p line, w)
  | .ksupd o seed d wd sigma e =>
    let L := laneAt w (i / (d + 1))
    let r := i % (d + 1)
    let c := contribution (L.data.toNat % 2 ^ 32) e sigma
    if r = d then
      (let add : Byte := (if c.2.1 then 2 else 0) ||| (if c.2.2 then 1 else 0)
       let w1 := if c.2.2 then w.set bOvf else w
       if add = 0 then (s, w1) else (s.bkWrite p (o + 7) [BitVec.ofNat 8 (s.bkNat p (o + 7) 1) ||| add], w1))
    else
      let h := sketchHash seed r wd L.key
      counterAdd s p w (counterAt o wd r h.1) (if h.2 then -c.1 else c.1)
  | .ksqry o seed d wd sigma _ =>
    let L := laneAt w (i / d)
    let r := i % d
    let h := sketchHash seed r wd L.key
    let a := counterAt o wd r h.1
    let v := signed48 (s.bkNat p a 8)
    let q := if h.2 then -v else v
    let w1 : BankWork := { w with out := w.out.set (64 + L.lane * 8 + r) (BitVec.ofInt 64 q) }
    let w2 : BankWork := if s.bkPoisoned p a 8 && (w1.outMark.get? L.lane).isNone then
        { w1 with outMark := w1.outMark.set L.lane { addr := BitVec.ofNat 64 (a - L.data.toNat), detail := w.pc.zeroExtend 64 } }
      else w1
    if r + 1 = d then
      (let med := median ((List.range d).map fun j => ((w2.out.getD (64 + L.lane * 8 + j) 0).toInt))
       (s, { w2 with out := w2.out.set L.lane (BitVec.ofNat 64 (roundTo .f32 0 0 (Num.ofInt med sigma)).bits),
                     ksat := w2.ksat || decide (med.natAbs ≥ 2 ^ 47) }))
    else (s, w2)
  | .ksadd a b _ _ =>
    let x := a + 64 * i
    match operandAt s w (b + 64 * i) 64 with
    | none => (s.bkPoison p x, w.set bPois)
    | some l =>
      if s.bkPoisoned p x 64 then (s.bkPoison p x, w.set bPois)
      else if i = 0 then (s.bkWrite p (a + 7) [BitVec.ofNat 8 (s.bkNat p (a + 7) 1) ||| BitVec.ofNat 8 (leAt l 7 1)], w)
      else
        let sums := (List.range 8).map fun j => wrap 48 (signed48 (s.bkNat p (x + 8 * j) 8) + signed48 (leAt l (8 * j) 8))
        (s.bkWrite p x (sums.flatMap (leBytes 8)), w)

/-- The completion word of R136. -/
def BankWork.word (w : BankWork) : DWord := BitVec.ofNat 64 (2 ^ 63 + w.bits.toNat * 2 ^ 56 + w.count % 2 ^ 56)

/-- Hands a command to the banks of its core, in issue order (R134); the buffer of the core is emptied (R135). -/
def State.bankIssue (s : State) (k : Ctx) (kind : BankKind) (lanes : List BLane) (token n count : Nat) (mode : Mode) (acq : Bool) : Nat × State :=
  let (id, s1) := s.newId
  let w : BankWork :=
    { id := id, fn := k.G.fn, gang := k.g, strand := k.t, gen := k.S.gen, split := k.x, part := k.G.part, pc := k.pc, kind := kind, lanes := lanes, cur := 0,
      total := reqTotal kind lanes.length n, fetched := 0, reads := (operandRange kind count).elim 0 fun r => rangeLines r.1 r.2 1, carry := [], token := token, acq := acq, mode := mode, bits := 0, count := count, out := [],
      outMark := [], ksat := false }
  (id, s1.setCore k.G.core fun C => { C with bank := C.bank ++ [w], rbuf := [] })

end Sys2Proof.Machine
end

