-- ==== Sys2Proof/Machine/Access.lean ====
section
/-! DEFINITION. Machine/Access.lean: a strand's memory accesses: addresses, checks and faults (R113-R115, R121, R126, R341-R344), page formats
(R124, R125, R181-R183), reading and storing with write-combining and the bank read buffer (R122, R135), landing (R165-R167). -/

namespace Sys2Proof.Machine

open Sys2Proof

/-! ## Where an access falls -/

/-- A lane's access: its address as formed, its physical address, and the leaf in `.g`. -/
structure Acc where
  lane : Nat
  addr : DWord
  pa   : Nat
  leaf : Option Leaf
deriving DecidableEq, Repr

/-- Element bytes of a formatted page; 1 for the 4-bit formats, whose byte holds two elements (R124). -/
def pageBytesOf (fmt : Nat) : Nat := if fmt = 1 ∨ fmt = 2 then 2 else 1

/-- Pages of 4-bit elements. -/
def fourBit (fmt : Nat) : Bool := fmt == 7 || fmt == 8

/-- Offset in the page where its scales begin (R124); the page's end where it has none. -/
def Leaf.scaleBase (l : Leaf) : Nat :=
  if l.fmt = 5 ∨ l.fmt = 6 then l.pageBytes - l.pageBytes / 32 else if l.fmt = 7 then l.pageBytes - l.pageBytes / 16 else l.pageBytes

/-- A gang's function for `.bk` has this window: base and size (R43, R114). -/
def State.window (s : State) (G : Gang) : Nat × Nat := layWindow s.layout G.fn

/-- The physical address of a `.sp`, `.cl` or `.bk` offset of `n` bytes, if it is within the space (R114, R115). -/
def State.offsetPa (s : State) (G : Gang) (space : Space) (a n : Nat) : Option Nat :=
  match space with
  | .sp => if a + n ≤ G.lrec.spad then some (spAddr G.core (G.spUnit * 1024 + a)) else none
  | .cl =>
    let c := clusterOfCore G.core * 32 + field a 22 18
    if a ≥ 2 ^ 23 ∨ a % 2 ^ 18 + n > 2 ^ 18 ∨ (s.core c).quarantined then none else some (spAddr c (a % 2 ^ 18))
  | .bk =>
    let w := s.window G
    if a + n ≤ w.2 then some (bankAddr (s.settings G.part) (w.1 + a)) else none
  | .g => none

/-- One address of an access: the checks of R121 steps 1 to 4 in their order, for an agent and a width, or the width of a formatted page's
elements (R126); `loose` where the instruction's width follows the page (R342), so that an address without a page has none to meet. -/
def State.locate (s : State) (G : Gang) (space : Space) (who : Who) (wr rd loose : Bool) (w : Nat) (a : DWord) :
    Except TFault (Nat × Option Leaf) :=
  let align : TFault := { cause := cALIGN, sub := 0, level := 0 }
  match space with
  | .g =>
    (match s.translate G.part a.toNat with
     | .error f => if !loose && a.toNat % w != 0 then .error align else .error f
     | .ok l =>
       if a.toNat % (if l.fmt ≠ 0 then pageBytesOf l.fmt else w) ≠ 0 then .error align
       else match checkTarget (s.settings G.part) who wr rd l with
         | some f => .error f
         | none => .ok (l.pa, some l))
  | _ =>
    if a.toNat % w ≠ 0 then .error align
    else match s.offsetPa G space a.toNat w with
      | some p => .ok (p, none)
      | none => .error { cause := cBOUNDS, sub := 0, level := 0 }

/-- What kind of access it is, for the rules of R125. -/
inductive AccKind where
  | load | store | scalar | atomic | scattered (wr : Bool)
deriving DecidableEq, Repr

/-- R125: whether a page's format refuses an access (PERMISSION 0x08). -/
def formatRefuses (ty : Ty) (kind : AccKind) (l : Leaf) : Bool :=
  l.fmt != 0 &&
    (ty != .f32 || decide (l.off ≥ l.scaleBase) ||
      (match kind with
       | .load => false
       | .store => l.fmt == 8
       | .scalar | .atomic => true
       | .scattered wr => fourBit l.fmt || (wr && l.fmt == 8)))

/-- The trap of the lowest faulting lane, naming every faulting lane (R121); `scal` for a scalar access, which names none. -/
def faultOf (scal : Bool) (fs : List (Nat × DWord × TFault)) : Option Trap :=
  match fs with
  | [] => none
  | (_, a, f) :: _ =>
    some { cause := f.cause, detail := f.detail, addr := a, lanes := if scal then 0 else setOfLanes (fs.map Prod.fst) }

/-- What the completer refuses (PERMISSION 0x0A): judged when it answers, which is after every lane has passed the other checks (R121). -/
def refusedBy (scal : Bool) (accs : List Acc) : Option Trap :=
  faultOf scal (accs.filterMap fun x => match x.leaf with
    | some l => if targetAnswers l then none else some (x.lane, x.addr, { cause := cPERMISSION, sub := 10, level := l.level })
    | none => none)

/-- The width that an access at an address has to be aligned to (R126): none where the page would say and there is none (R342). -/
def State.laneWidth (s : State) (G : Gang) (space : Space) (loose : Bool) (w : Nat) (a : DWord) : Option Nat :=
  if space ≠ .g then some w
  else match s.translate G.part a.toNat with
    | .ok l => some (if l.fmt ≠ 0 then pageBytesOf l.fmt else w)
    | .error _ => if loose then none else some w

/-- An access without a stride. -/
def unstrided (_ : Nat) : Bool := false

/-- The device's own checks of an instruction's accesses (R121, R125, R126): every lane, then one format over all lanes;
`skew` says for a width whether the stride, or a block's base, is misaligned. -/
def State.checkLanes (s : State) (G : Gang) (space : Space) (ty : Ty) (kind : AccKind) (wr rd : Bool) (w : Nat) (skew : Nat → Bool)
    (as : List (Nat × DWord)) : Except Trap (List Acc) :=
  let scal := decide (kind = .scalar)
  let loose := ty == .f32 && !scal && decide (kind ≠ .atomic)
  let rs := as.map fun q =>
    (q.1, q.2, match (if ((s.laneWidth G space loose w q.2).map skew).getD false then Except.error ({ cause := cALIGN, sub := 0, level := 0 } : TFault)
                      else s.locate G space .strand wr rd loose w q.2) with
               | .ok r =>
                 (match r.2 with
                  | some l =>
                    if formatRefuses ty kind l then Except.error ({ cause := cPERMISSION, sub := 8, level := l.level } : TFault) else .ok r
                  | none => .ok r)
               | .error f => .error f)
  let bad := rs.filterMap fun r => match r.2.2 with
    | .error f => some (r.1, r.2.1, f)
    | .ok _ => none
  let accs := rs.filterMap fun r => match r.2.2 with
    | .ok x => some { lane := r.1, addr := r.2.1, pa := x.1, leaf := x.2 : Acc }
    | .error _ => none
  match faultOf scal bad with
  | some t => .error t
  | none =>
    let shapes := accs.filterMap fun x => x.leaf.map Leaf.shape
    match accs with
    | x :: _ =>
      if shapes.any fun f => some f ≠ x.leaf.map Leaf.shape then
        .error { cause := cPERMISSION, detail := BitVec.ofNat 64 (((x.leaf.map Leaf.level).getD 0) * 256 + 9), addr := x.addr,
                 lanes := setOfLanes (as.map Prod.fst) }
      else .ok accs
    | [] => .ok []

/-- The whole check of an instruction's accesses: the device's, then the completer's answers. -/
def State.checkAll (s : State) (G : Gang) (space : Space) (ty : Ty) (kind : AccKind) (wr rd : Bool) (w : Nat) (skew : Nat → Bool)
    (as : List (Nat × DWord)) : Except Trap (List Acc) :=
  match s.checkLanes G space ty kind wr rd w skew as with
  | .error t => .error t
  | .ok accs => match refusedBy (decide (kind = .scalar)) accs with
    | some t => .error t
    | none => .ok accs

/-- The format of the pages that an instruction's lanes reach. -/
def accsFmt (l : List Acc) : Nat :=
  match l with
  | x :: _ => (x.leaf.map Leaf.fmt).getD 0
  | [] => 0

/-- Keeps the translations that an instruction used (R120). -/
def State.noteAccs (s : State) (p : Nat) (l : List Acc) : State :=
  l.foldl (fun a x => match x.leaf with
    | some lf => a.cache p lf
    | none => a) s

/-! ## Reading -/

/-- The line of a bank that holds a byte. -/
def lineOf (a : Nat) : Nat := a - a % 64

def isBank (a : Nat) : Bool := decide (bankBase ≤ a) && decide (a < spBase)

/-- The line of its core's read buffer that an ordinary `.bk` load hits: 64 bytes, then whether the line was poisoned when it was filled (R135;
whether a line is still there is a free value, log entry 10). -/
def State.bufLine (s : State) (g a : Nat) : Option (List Byte) :=
  match (s.core (s.gang g).core).rbuf.get? (lineOf a) with
  | some l => if isBank a && Config.bufferHit (s.choice (lineOf a)) then some l else none
  | none => none

/-- A byte as a split reads it: its own stores not yet performed first (R122, R245, R246), then, for an ordinary `.bk` load, its core's read buffer (R135). -/
def State.readByte (s : State) (g t x : Nat) (buffered : Bool) (a : Nat) : Byte :=
  match (s.strand g t).sees x a with
  | some b => b
  | none => match (if buffered then s.bufLine g a else none) with
    | some l => l.getD (a % 64) 0
    | none => s.mem.read a

def State.readBytes (s : State) (g t x : Nat) (buffered : Bool) (a n : Nat) : List Byte :=
  (List.range n).map fun i => s.readByte g t x buffered (a + i)

/-- The number in `n` bytes as a split reads them. -/
def State.readNat (s : State) (g t x : Nat) (buffered : Bool) (a n : Nat) : Nat := ofLe (s.readBytes g t x buffered a n)

/-- An element of a CB4 page, through its codebook (R183). -/
def State.codebook (s : State) (p slot code : Nat) : Num :=
  let b := (s.part p).codebook.getD slot []
  quietN (Num.decode .bf16 (leAt b (2 * code) 2))

/-- The element format of a page (R124). -/
def pageFFmt (fmt : Nat) : FFmt :=
  if fmt = 1 then .f16 else if fmt = 2 then .bf16 else if fmt = 3 ∨ fmt = 5 then .e4m3 else if fmt = 7 then .e2m1 else .e5m2

/-- R181: an MX element under its scale. -/
def mxValue (x : Nat) (e : Num) : Num :=
  if x = 255 then .nan false else
    match e with
    | .fin n m ex => Num.mk n m (ex + (x : Int) - 127)
    | y => y

/-- The physical address of the scale byte of an element of a split-block page (R124). -/
def Leaf.scalePa (l : Leaf) : Nat := l.pa - l.off + l.scaleBase + (if l.fmt = 7 then l.off / 16 else l.off / 32)

/-- A formatted page with a scale area. -/
def Leaf.split (l : Leaf) : Bool := decide (5 ≤ l.fmt) && decide (l.fmt ≤ 7)

/-- The exact value of element `nib` (0 but for the second element of a byte) at an address of a formatted page (R124, R181, R183), as an agent
reads its bytes. -/
def State.elemAt (s : State) (p : Nat) (rd : Nat → Byte) (l : Leaf) (nib : Nat) : Num :=
  let raw := ofLe ((List.range (pageBytesOf l.fmt)).map fun i => rd (l.pa + i))
  let code := if fourBit l.fmt then (raw >>> (4 * nib)) % 16 else raw
  if l.fmt = 8 then s.codebook p l.cbslot code
  else
    let e := Num.decode (pageFFmt l.fmt) code
    if l.split then mxValue (rd l.scalePa).toNat e else e

/-- The poison mark of an access of a type of `n` bytes, if the bytes it reads are poisoned (R110, R166): those of a page's element, its scale byte
among them; the address is that of the sector, or of the bank's line. -/
def State.markOf (s : State) (g : Nat) (buffered : Bool) (x : Acc) (n : Nat) : Option Mark :=
  let at_ := fun (a : DWord) => some ({ addr := a - BitVec.ofNat 64 (a.toNat % (if isBank x.pa then 64 else 32)), detail := 0 } : Mark)
  match (if buffered then s.bufLine g x.pa else none) with
  | some l => if l.getD 64 0 = 0 then none else at_ x.addr
  | none => match x.leaf with
    | some l =>
      if s.mem.poisoned x.pa (if l.fmt = 0 then n else pageBytesOf l.fmt) then at_ x.addr
      else if l.split && s.mem.poisoned l.scalePa 1 then at_ (x.addr - BitVec.ofNat 64 l.pa + BitVec.ofNat 64 l.scalePa)
      else none
    | none => if s.mem.poisoned x.pa n then at_ x.addr else none

/-- A lane's loaded register value and flags: raw bits extended (R342), or the page's element as FP32 (R125). -/
def Ctx.loadVal (k : Ctx) (s : State) (buffered : Bool) (ty : Ty) (x : Acc) : Res :=
  let raw : Res := { bits := widen32 ty (s.readNat k.g k.t k.x buffered x.pa (tyBytes ty)), flags := 0 }
  match x.leaf with
  | some l =>
    if l.fmt = 0 then raw
    else
      let r := convertF .f32 .ieee 0 0 (s.elemAt k.G.part (s.readByte k.g k.t k.x false) l (x.lane % 2))
      { bits := r.bits, flags := r.flags &&& (fNV ||| fOF ||| fNX) }
  | none => raw

/-- A line of the banks that an ordinary load has read without a hit enters its core's buffer of 32 lines as it then is; a full one loses a line,
which is not said (R135). -/
def fillLine (m : Mem) (n : Nat) (hit : Bool) (b : Tbl (List Byte)) (a : Nat) : Tbl (List Byte) :=
  if (b.get? a).isSome && hit then b
  else
    let b' := if decide (b.length ≥ 32) && (b.get? a).isNone then b.eraseIdx (Config.freeNat n % 32) else b
    Tbl.set b' a (m.readN a 64 ++ [if m.poisoned a 64 then 1 else 0])

def State.fillBuffer (s : State) (g : Nat) (l : List Acc) : State :=
  s.setCore (s.gang g).core fun C =>
    { C with rbuf := (distinct ((l.filter fun x => isBank x.pa).map fun x => lineOf x.pa)).foldl (fun b a =>
        fillLine s.mem (s.choice (2 ^ 60 + a)) (Config.bufferHit (s.choice a)) b a) C.rbuf }

/-- Invalidates a core's bank read buffer (R135, R138). -/
def State.emptyBuffer (s : State) (g : Nat) : State := s.setCore (s.gang g).core fun C => { C with rbuf := [] }

/-! ## Storing -/

/-- Whether a split's store to a page of this memory type waits before it is performed: on a write-combining page always (R256), on a normal one
perhaps, since nothing orders it before later accesses elsewhere (R245, R409; DESIGN CHOICE, log entry 7). -/
def State.posts (s : State) (mtype a : Nat) : Bool :=
  mtype == 1 || (mtype == 0 && decide (a < bankBase) && Config.freeBit (s.choice (2 ^ 66 + a)))

/-- The stores merged in a line that they fill are performed (R122). -/
def State.drainFull (s : State) (g t : Nat) (lines : List Nat) : State :=
  lines.foldl (fun a line =>
    let comb := fun (m : Posted) => m.comb && m.meets line 64
    if (List.range 64).all fun i => (a.strand g t).posted.any fun m => m.comb && m.covers (line + i) then a.drain g t comb else a) s

/-- A store is performed, in its core's buffered copy of a bank line too (R135). -/
def State.performAt (s : State) (g a : Nat) (bytes : List Byte) : State :=
  let s1 := s.putN a bytes
  if isBank a then
    s1.setCore (s1.gang g).core fun C =>
      { C with rbuf := C.rbuf.modify (lineOf a) fun l => l.take (a % 64) ++ bytes ++ l.drop (a % 64 + bytes.length) }
  else s1

/-- A split's store of bytes at a physical address (R122): it waits, or it is performed, after the earlier ones that it overlaps (R245). -/
def State.storeAt (s : State) (g t x : Nat) (mtype : Nat) (a : Nat) (bytes : List Byte) : State :=
  if s.posts mtype a then s.setStrand g t fun S => S.post x a bytes (mtype == 1) else (s.drainAt g t x a bytes.length).performAt g a bytes

/-- Device or strongly ordered pages among an access's (R95, R122). -/
def anyMtype (p : Nat → Bool) (l : List Acc) : Bool := l.any fun x => match x.leaf with
  | some lf => p lf.mtype
  | none => false

/-- An access to a strongly ordered page follows every earlier access of its split (R256), and so does a release (R344): its stores are performed
first; before one to a device page, those that it overlaps. -/
def State.orderBefore (s : State) (k : Ctx) (release : Bool) (w : Nat) (l : List Acc) : State :=
  if release || anyMtype (· == 3) l then s.drainSplit k.g k.t k.x
  else if anyMtype (· == 2) l then l.foldl (fun a x => a.drainAt k.g k.t k.x x.pa w) s
  else s

/-- A write waits while a page it goes to is still to be captured (R130). -/
def State.captureHolds (s : State) (p : Nat) (l : List Acc) : Bool := l.any fun x => match x.leaf with
  | some lf => s.uncaptured p lf
  | none => false

/-- The capture engine learns which page a write waits for (R130 step 3). -/
def State.holdPage (s : State) (p va : Nat) : State :=
  s.setPart p fun P => { P with cap := P.cap.map fun c => { c with first := some (c.first.getD (BitVec.ofNat 64 va)) } }

def State.holdWrite (s : State) (p : Nat) (l : List Acc) : State :=
  match l.find? fun x => s.captureHolds p [x] with
  | some x => s.holdPage p x.addr.toNat
  | none => s

/-! ## Landing -/

/-- Whether the landing buffer of a gang's core has entries for a number of registers (R165). -/
def State.landingRoom (s : State) (g need : Nat) : Bool :=
  decide (((s.core (s.gang g).core).landing.map fun l => max 1 l.regs.length).sum + need ≤ 256)

/-- Whether a load can issue: the outstanding-load counter is below 63 and the landing buffer has the entries (R165, R166). -/
def State.canLoad (s : State) (g t need : Nat) : Bool := decide ((s.strand g t).olc < 63) && s.landingRoom g need

/-- Enters a load's result in the landing buffer; its destination is scoreboarded and the load counted (R165-R167). -/
def State.land (s : State) (g t x : Nat) (dest : LDest) (sval : DWord) (vval : Tbl Word) (regs : List Nat) (mark : Option Mark) (flags : DWord)
    (wait : Option Nat) : State :=
  let (id, s0) := s.newId
  let L : Landing := { id := id, gang := g, strand := t, gen := (s.strand g t).gen, split := x, dest := dest, sval := sval, vval := vval,
                       regs := regs, mark := mark, flags := flags, wait := wait }
  let s1 := s0.setCore (s0.gang g).core fun C => { C with landing := C.landing ++ [L] }
  let s2 := s1.setStrand g t fun S =>
    { S with olc := S.olc + 1,
             vbusy := match dest with
               | .v => regs.foldl addKey S.vbusy
               | .s _ => S.vbusy }
  match dest with
  | .s r => if r = 0 then s2 else s2.setView g t x fun v => { v with busy := addKey v.busy r }
  | .v => s2

/-- A landing entry is written: the whole of its registers at once, with a poison mark if its data was poisoned (R165, R166); a return for a
strand that is gone is discarded (R86). -/
def State.landReturn (s : State) (c : Nat) (L : Landing) : State :=
  let s1 := s.setCore c fun C => { C with landing := C.landing.filter fun l => l.id != L.id }
  let S := s1.strand L.gang L.strand
  if S.gen ≠ L.gen ∨ S.freed then s1 else
    let s2 := s1.setStrand L.gang L.strand fun S =>
      let S1 : Strand := { S with olc := S.olc - 1 }
      match L.dest with
      | .v =>
        { S1 with v := L.vval.foldl (fun a q => a.set q.1 q.2) S1.v,
                  vbusy := L.regs.foldl dropKey S1.vbusy,
                  vmarks := L.regs.foldl (fun a r => match L.mark with
                    | some m => a.set r m
                    | none => a.erase r) S1.vmarks }
      | .s _ => S1
    let s3 := match L.dest with
      | .s r =>
        if r = 0 then s2 else
          s2.setView L.gang L.strand L.split fun v =>
            let v1 := v.putScalar r L.sval
            { v1 with busy := dropKey v1.busy r, marks := match L.mark with
                                                    | some m => v1.marks.set r m
                                                    | none => v1.marks }
      | .v => s2
    s3.addFlags L.gang L.strand L.split L.flags

/-- Words of a vector destination: lanes of one register, or of the two of a pair. -/
def destWords (wide : Bool) (d : Nat) (l : List (Nat × Nat)) : Tbl Word :=
  l.flatMap fun q =>
    (d * 32 + q.1, BitVec.ofNat 32 q.2) :: (if wide then [((d + 1) * 32 + q.1, BitVec.ofNat 32 (q.2 / 2 ^ 32))] else [])

end Sys2Proof.Machine
end

