-- ==== Sys2Proof/Machine/Mem.lean ====
section
/-! DEFINITION. Machine/Mem.lean: loads, stores, WAITL, PREF and CFLUSH (R341-R350). -/

namespace Sys2Proof.Machine

open Sys2Proof

/-! ## Addresses (R341, R346) -/

def Ctx.addr (k : Ctx) (a : BitVec 8) (off : BitVec 32) : DWord := k.s a + sext32 off

/-- The format of the page under an address; RAW where there is none. -/
def State.fmtAt (s : State) (p : Nat) (space : Space) (a : DWord) : Nat :=
  if space = .g then (match s.translate p a.toNat with
    | .ok l => l.fmt
    | .error _ => 0)
  else 0

/-- Element bytes of a strand access of a type at an address (R342): the page's where it has a format and the type is `.f32`. -/
def State.elemWidth (s : State) (p : Nat) (space : Space) (ty : Ty) (a : DWord) : Nat × Nat :=
  let f := if ty = .f32 then s.fmtAt p space a else 0
  if f = 0 then (tyBytes ty, 0) else (pageBytesOf f, f)

/-- Lane addresses of VLD and VST, and whether a 4-bit block is misaligned (R125, R346). -/
def Ctx.unitAddrs (k : Ctx) (s : State) (space : Space) (ty : Ty) (a : DWord) : List (Nat × DWord) × (Nat → Bool) :=
  let w := s.elemWidth k.G.part space ty a
  (k.lanes.map fun i => (i, a + BitVec.ofNat 64 (if fourBit w.2 then i / 2 else i * w.1)), fun _ => fourBit w.2 && a.toNat % 16 != 0)

/-- A stride that is no multiple of a width (R126). -/
def strided (st : DWord) (w : Nat) : Bool := st.toNat % w != 0

/-- Lane addresses of VLDS and VSTS, and whether the stride is misaligned (R126, R346). -/
def Ctx.strideAddrs (k : Ctx) (a st : DWord) : List (Nat × DWord) × (Nat → Bool) :=
  (k.lanes.map fun i => (i, a + BitVec.ofNat 64 i * st), strided st)

/-- Lane addresses of VLDX, VSTX, VATOM and VCAS (R346, R351). -/
def Ctx.indexAddrs (k : Ctx) (a : DWord) (x : Src) : List (Nat × DWord) := k.lanes.map fun i => (i, a + sext32 (k.v x i))

/-! ## Loads -/

/-- Whether an access has to wait for its core's earlier bank requests (R134). -/
def Ctx.bankWaits (k : Ctx) (s : State) (accs : List Acc) : Bool :=
  s.bankBusy k.g ((accs.filter fun x => isBank x.pa).map fun x => bankOf x.pa)

/-- The state in which a load of `w` bytes a lane reads: its translations kept, earlier stores performed where its page orders them, and the core's
buffer emptied by an `.msacq` (R120, R138, R256). -/
def Ctx.beforeLoad (k : Ctx) (m : MemMod) (w : Nat) (accs : List Acc) (s : State) : State :=
  let s1 := (s.noteAccs k.G.part accs).orderBefore k false w accs
  if m.scope = .ms then s1.emptyBuffer k.g else s1

/-- A vector load (R342, R343, R346): every lane checked, then read and landed. -/
def Ctx.vload (k : Ctx) (m : MemMod) (ty : Ty) (d : Nat) (kind : AccKind) (as : List (Nat × DWord) × (Nat → Bool)) (s : State) : State :=
  match s.checkAll k.G m.space ty kind false true (tyBytes ty) as.2 as.1 with
  | .error t => k.trap t s
  | .ok accs =>
    let wide := ty.is64
    if !(s.canLoad k.g k.t (if wide then 2 else 1)) || k.bankWaits s accs then s
    else
      let buffered := m.space == .bk && m.scope != .ms
      let s1 := k.beforeLoad m (tyBytes ty) accs s
      let rs := accs.map fun x => (x.lane, k.loadVal s1 buffered ty x)
      let mark := accs.findSome? fun x => s1.markOf k.g buffered x (tyBytes ty)
      let fl := rs.foldl (fun a r => a ||| r.2.flags) (0 : DWord)
      let s2 := if buffered then s1.fillBuffer k.g accs else s1
      k.done (s2.land k.g k.t k.x .v 0 (destWords wide d (rs.map fun r => (r.1, r.2.bits))) (if wide then [d, d + 1] else [d]) mark fl none)

/-- SLD (R345). -/
def execSld (c : Com) (ty : Ty) (m : MemMod) (d a : BitVec 8) (off : BitVec 32) (s : State) : Host.Outcome State Fault Refusal :=
  issue (.sld c ty m d a off) (fun k s =>
    match s.checkAll k.G m.space ty .scalar false true (tyBytes ty) unstrided [(0, k.addr a off)] with
    | .error t => k.trap t s
    | .ok accs =>
      if !(s.canLoad k.g k.t 1) || k.bankWaits s accs then s
      else
        let buffered := m.space == .bk && m.scope != .ms
        let s1 := k.beforeLoad m (tyBytes ty) accs s
        let val := widen64 ty (accs.foldl (fun _ x => s1.readNat k.g k.t k.x buffered x.pa (tyBytes ty)) 0)
        let mark := accs.findSome? fun x => s1.markOf k.g buffered x (tyBytes ty)
        let s2 := if buffered then s1.fillBuffer k.g accs else s1
        k.done (s2.land k.g k.t k.x (.s d.toNat) val [] [] mark 0 none)) s

def execVld (c : Com) (ty : Ty) (m : MemMod) (d a : BitVec 8) (off : BitVec 32) (s : State) : Host.Outcome State Fault Refusal :=
  issue (.vld c ty m d a off) (fun k s => k.vload m ty d.toNat .load (k.unitAddrs s m.space ty (k.addr a off)) s) s

def execVlds (c : Com) (ty : Ty) (m : MemMod) (d a x : BitVec 8) (off : BitVec 32) (s : State) : Host.Outcome State Fault Refusal :=
  issue (.vlds c ty m d a x off) (fun k s =>
    k.vload m ty d.toNat (.scattered false) (k.strideAddrs (k.addr a off) (k.s x)) s) s

def execVldx (c : Com) (ty : Ty) (m : MemMod) (d a : BitVec 8) (x : Src) (off : BitVec 32) (s : State) :
    Host.Outcome State Fault Refusal :=
  issue (.vldx c ty m d a x off) (fun k s => k.vload m ty d.toNat (.scattered false) (k.indexAddrs (k.addr a off) x, unstrided) s) s

/-- VLDT (R348): lane r reads row r; register d + c receives column c. -/
def execVldt (c : Com) (ty : Ty) (space : Space) (d a x : BitVec 8) (off : BitVec 32) (s : State) : Host.Outcome State Fault Refusal :=
  issue (.vldt c ty space d a x off) (fun k s =>
    let base := k.addr a off
    let w := (s.elemWidth k.G.part space ty base).1
    let cells := k.lanes.flatMap fun r => (List.range 32).map fun j => (r, j)
    let as := cells.map fun q => (q.1, base + BitVec.ofNat 64 q.1 * k.s x + BitVec.ofNat 64 (q.2 * w))
    match s.checkAll k.G space ty (.scattered false) false true (tyBytes ty) (strided (k.s x)) as with
    | .error t => k.trap t s
    | .ok accs =>
      if !(s.canLoad k.g k.t 32) || k.bankWaits s accs then s
      else
        let buffered := space == .bk
        let s1 := k.beforeLoad { space := space, scope := .gang, ord := .plain } (tyBytes ty) accs s
        let rs := accs.map fun q => k.loadVal s1 buffered ty q
        let mark := accs.findSome? fun q => s1.markOf k.g buffered q (tyBytes ty)
        let fl := rs.foldl (fun a r => a ||| r.flags) (0 : DWord)
        let s2 := if buffered then s1.fillBuffer k.g accs else s1
        let vals := (cells.zip rs).map fun q => ((d.toNat + q.1.2) * 32 + q.1.1, BitVec.ofNat 32 q.2.bits)
        k.done (s2.land k.g k.t k.x .v 0 vals ((List.range 32).map (d.toNat + ·)) mark fl none)) s

/-! ## Stores -/

/-- An encoded element of a store: its bytes and its flags. -/
structure Enc where
  acc   : Acc
  bytes : List Byte
  flags : DWord
deriving DecidableEq, Repr

/-- The block of an element, by its first byte, and the element's place in it (R124). -/
def blockOf (x : Acc) : Nat × Nat :=
  match x.leaf with
  | some l => if l.fmt = 7 then (x.pa / 16 * 16, x.lane) else (x.pa / 32 * 32, l.off % 32)
  | none => (0, 0)

/-- Lanes whose MX block is not covered as a whole (PARTBLOCK, R125). -/
def partBlocks (accs : List Acc) : List Acc :=
  accs.filter fun x => (distinct ((accs.filter fun y => (blockOf y).1 == (blockOf x).1).map fun y => (blockOf y).2)).length < 32

/-- The largest finite magnitude among numbers, if one is not zero. -/
def maxMag (l : List Num) : Option Int :=
  l.foldl (fun a x => if x.isZero then a else match a with
    | none => some x.lead
    | some e => some (max e x.lead)) none

/-- The E8M0 scale of a block (R182); 255 with a NaN or an infinity. -/
def mxScale (f : FFmt) (xs : List Num) : Nat :=
  if xs.any fun x => x.isNan || x.isInf then 255
  else
    let emax : Int := match f with
      | .e4m3 => 8
      | .e5m2 => 15
      | _ => 2
    match maxMag xs with
    | none => 0
    | some e => (max (-127) (min 127 (e - emax)) + 127).toNat

/-- An element of a block under its scale (R182). -/
def mxElem (f : FFmt) (nosat : Bool) (mode : Mode) (r : Nat) (scale : Nat) (x : Num) : Res :=
  if scale = 255 then { bits := 0, flags := if x.isNan || x.isInf then fNV else 0 }
  else
    let y := match x with
      | .fin n m e => Num.mk n m (e + 127 - scale)
      | z => z
    convertF f (satOf f true nosat) mode r y

/-- R182 for the elements of one block, in order: the scale byte and the element codes with flags. `xs` are values and RS draws. -/
def mxBlock (f : FFmt) (nosat : Bool) (mode : Mode) (xs : List (Num × Nat)) : Nat × List Res :=
  let sc := mxScale f (xs.map Prod.fst)
  (sc, xs.map fun x => mxElem f nosat mode x.2 sc x.1)

/-- Packs 4-bit codes, the lower nibble first (R124). -/
def packNibbles : List Nat → List Byte
  | a :: b :: r => BitVec.ofNat 8 (a % 16 + b % 16 * 16) :: packNibbles r
  | [a] => [BitVec.ofNat 8 (a % 16)]
  | [] => []

/-- What a vector store writes (R125, R342): each lane's bytes, or an MX block with its scale. -/
def Ctx.encodeStore (k : Ctx) (ty : Ty) (b : Src) (accs : List Acc) : List (Nat × List Byte) × List (Nat × DWord) :=
  let fmt := accsFmt accs
  let mode := k.mode .cr
  let num := fun i => dec32 (k.v b i).toNat
  if fmt = 0 then (accs.map fun x => (x.pa, leBytes (tyBytes ty) (k.val ty b x.lane)), [])
  else if 5 ≤ fmt ∧ fmt ≤ 7 then
    let ord := (List.range 32).filterMap fun j => accs.find? fun x => (blockOf x).2 == j
    let r := mxBlock (pageFFmt fmt) k.nosat mode (ord.map fun x => (num x.lane, k.draw x.lane))
    let fl := (ord.zip r.2).map fun q => (q.1.lane, q.2.flags)
    match ord with
    | x :: _ =>
      (match x.leaf with
       | some l =>
         let codes := r.2.map Res.bits
         let bytes := if fmt = 7 then packNibbles codes else codes.map (BitVec.ofNat 8)
         ([((blockOf x).1, bytes), (l.scalePa, [BitVec.ofNat 8 r.1])], fl)
       | none => ([], fl))
    | [] => ([], fl)
  else
    let f := pageFFmt fmt
    let rs := accs.map fun x => (x, convertF f (satOf f false k.nosat) mode (k.draw x.lane) (num x.lane))
    (rs.map fun q => (q.1.pa, leBytes (pageBytesOf fmt) q.2.bits), rs.map fun q => (q.1.lane, q.2.flags))

/-- The memory type of an instruction's pages, for its own bytes. -/
def accsMtype (accs : List Acc) (a : Nat) : Nat :=
  match accs.find? fun x => x.pa == a with
  | some x => (x.leaf.map Leaf.mtype).getD 0
  | none => match accs with
    | x :: _ => (x.leaf.map Leaf.mtype).getD 0
    | [] => 0

/-- Puts an instruction's stores, lane by lane upwards (R122, R347), after what they have to follow (R256, R344). A line that they fill is performed
with all of them. -/
def Ctx.putStores (k : Ctx) (release : Bool) (accs : List Acc) (ws : List (Nat × List Byte)) (s : State) : State :=
  let s1 := (s.noteAccs k.G.part accs).orderBefore k release ((ws.headD (0, [])).2.length) accs
  (ws.foldl (fun a w => a.storeAt k.g k.t k.x (accsMtype accs w.1) w.1 w.2) s1).drainFull k.g k.t
    (distinct ((ws.filter fun w => accsMtype accs w.1 == 1).map fun w => lineOf w.1))

/-- Performs a store's stores: to a device or strongly ordered page it is irrevocable (R95). -/
def Ctx.performStores (k : Ctx) (release : Bool) (accs : List Acc) (ws : List (Nat × List Byte)) (s : State) : State :=
  let s2 := k.putStores release accs ws s
  if anyMtype (fun t => decide (t ≥ 2)) accs then s2.commit k.g k.t else s2

/-- A vector store (R342, R343, R346, R347): every lane checked, then whole blocks, then the completer's answers, and all
stored. -/
def Ctx.vstore (k : Ctx) (m : MemMod) (ty : Ty) (b : Src) (kind : AccKind) (as : List (Nat × DWord) × (Nat → Bool)) (s : State) : State :=
  match s.checkLanes k.G m.space ty kind true false (tyBytes ty) as.2 as.1 with
  | .error t => k.trap t s
  | .ok accs =>
    let fmt := accsFmt accs
    let pb := if 5 ≤ fmt ∧ fmt ≤ 7 then partBlocks accs else []
    match pb, refusedBy false accs with
    | x :: _, _ => k.trap { cause := cPARTBLOCK, addr := x.addr, lanes := setOfLanes (pb.map Acc.lane) } s
    | [], some t => k.trap t s
    | [], none =>
      if k.bankWaits s accs || s.captureHolds k.G.part accs then s.holdWrite k.G.part accs
      else
        let e := k.encodeStore ty b accs
        let s1 := k.performStores (m.ord == .rel) accs e.1 s
        let fl := fun i => e.2.foldl (fun a q => if q.1 = i then a ||| q.2 else a) (0 : DWord)
        k.finishLanes 0 0 fl s1

/-- SST (R345). -/
def execSst (c : Com) (ty : Ty) (m : MemMod) (a b : BitVec 8) (off : BitVec 32) (s : State) : Host.Outcome State Fault Refusal :=
  issue (.sst c ty m a b off) (fun k s =>
    match s.checkAll k.G m.space ty .scalar true false (tyBytes ty) unstrided [(0, k.addr a off)] with
    | .error t => k.trap t s
    | .ok accs =>
      if k.bankWaits s accs || s.captureHolds k.G.part accs then s.holdWrite k.G.part accs
      else k.done (k.performStores (m.ord == .rel) accs (accs.map fun x => (x.pa, leBytes (tyBytes ty) (k.s b).toNat)) s)) s

def execVst (c : Com) (ty : Ty) (m : MemMod) (a : BitVec 8) (b : Src) (off : BitVec 32) (s : State) : Host.Outcome State Fault Refusal :=
  issue (.vst c ty m a b off) (fun k s => k.vstore m ty b .store (k.unitAddrs s m.space ty (k.addr a off)) s) s

def execVsts (c : Com) (ty : Ty) (m : MemMod) (a : BitVec 8) (b : Src) (x : BitVec 8) (off : BitVec 32) (s : State) :
    Host.Outcome State Fault Refusal :=
  issue (.vsts c ty m a b x off) (fun k s =>
    k.vstore m ty b (.scattered true) (k.strideAddrs (k.addr a off) (k.s x)) s) s

def execVstx (c : Com) (ty : Ty) (m : MemMod) (a : BitVec 8) (b x : Src) (off : BitVec 32) (s : State) :
    Host.Outcome State Fault Refusal :=
  issue (.vstx c ty m a b x off) (fun k s => k.vstore m ty b (.scattered true) (k.indexAddrs (k.addr a off) x, unstrided) s) s

/-! ## WAITL, PREF and CFLUSH (R349, R350) -/

def execWaitl (c : Com) (n : BitVec 6) (s : State) : Host.Outcome State Fault Refusal :=
  issue (.waitl c n) (fun k s => if k.S.olc ≤ n.toNat then k.done s else s) s

/-- PREF never faults, waits or changes a result: the device caches it may fill are not observable. -/
def execPref (c : Com) (a : BitVec 8) (off : BitVec 32) (s : State) : Host.Outcome State Fault Refusal :=
  issue (.pref c a off) (fun k => k.done) s

/-- The leaf of CFLUSH's address, or its fault (R350): it needs RD, and of the targets only a forbidden HBM one refuses it, since on pool and remote
pages it does nothing. -/
def State.flushLeaf (s : State) (p : Nat) (a : DWord) : Except TFault Leaf :=
  match s.translate p a.toNat with
  | .error f => .error f
  | .ok l =>
    match checkTarget (s.settings p) .copy false true l with
    | some f => .error f
    | none => .ok l

def execCflush (c : Com) (a : BitVec 8) (off : BitVec 32) (s : State) : Host.Outcome State Fault Refusal :=
  issue (.cflush c a off) (fun k s =>
    match s.flushLeaf k.G.part (k.addr a off) with
    | .error f => k.trap { cause := f.cause, detail := f.detail, addr := k.addr a off } s
    | .ok l =>
      let s1 := s.cache k.G.part l
      k.done (if l.mtype = 1 then s1.drain k.g k.t fun m => m.comb && m.meets (lineOf l.pa) 64 else s1)) s

end Sys2Proof.Machine
end

