-- ==== Sys2Proof/Machine/Bank.lean ====
section
/-! DEFINITION. Machine/Bank.lean: bank commands at issue (R384-R392), their requests at the banks (R132-R134) and their completion (R136,
R137). -/

namespace Sys2Proof.Machine

open Sys2Proof

/-! ## Checks at issue (R136, R384) -/

/-- A lane's `.bk` offset as an integer: a sum that wraps lies outside every window. -/
def Ctx.bankOff (k : Ctx) (a : BitVec 8) (b : Src) (i : Nat) : Int := (k.s a).toNat + (k.v b i).toInt

def offWord (x : Int) : DWord := BitVec.ofInt 64 x

/-- Whether `n` bytes at an offset leave a window of a size. -/
def outside (size : Nat) (x : Int) (n : Nat) : Bool := decide (x < 0) || decide (x + n > size)

/-- ALIGN, then BOUNDS, over the lanes of a command. -/
def Ctx.laneCheck (k : Ctx) (a : BitVec 8) (b : Src) (w : Nat) (s : State) : Option Trap :=
  let off := k.bankOff a b
  let size := (s.window k.G).2
  let one := fun (cause : Byte) (bad : List Nat) => match bad with
    | [] => none
    | i :: _ => some { cause := cause, addr := offWord (off i), lanes := setOfLanes bad : Trap }
  firstSome (one cALIGN (k.lanes.filter fun i => (offWord (off i)).toNat % w != 0))
    (one cBOUNDS (k.lanes.filter fun i => outside size (off i) w))
where
  firstSome (x y : Option Trap) : Option Trap := match x with
    | some t => some t
    | none => y

/-- The lanes of a command: share offset, value and key of each. -/
def Ctx.bankLanes (k : Ctx) (a : BitVec 8) (b : Src) (data key : Nat → DWord) (s : State) : List BLane :=
  k.lanes.map fun i => { lane := i, addr := (s.window k.G).1 + (k.bankOff a b i).toNat, data := data i, key := key i }

def bankop (sub : Nat) (a : DWord) : Trap := { cause := cBANKOP, detail := BitVec.ofNat 64 sub, addr := a }

/-- Hands a command with a token to its banks. -/
def Ctx.bankGo (k : Ctx) (kind : BankKind) (lanes : List BLane) (d : BitVec 8) (n count : Nat) (s : State) : State :=
  let mode := if k.mode .cr = 4 then 0 else k.mode .cr
  let s1 := (s.bankIssue k kind lanes d.toNat n count mode false).2
  k.done (k.busyS d.toNat (s1.commit k.g k.t))

/-- Hands a command that returns vector values to its banks; they land when it has completed (R165, R387, R391). -/
def Ctx.bankLoad (k : Ctx) (kind : BankKind) (lanes : List BLane) (wide acq : Bool) (d : BitVec 8) (s : State) : State :=
  if !(s.canLoad k.g k.t (if wide then 2 else 1)) then s
  else
    let r := s.bankIssue k kind lanes 0 0 lanes.length 0 acq
    k.done (r.2.land k.g k.t k.x .v 0 [] (if wide then [d.toNat, d.toNat + 1] else [d.toNat]) none 0 (some r.1))

/-! ## BRED and exact cells (R386, R387) -/

def execBred (c : Com) (op : ROp) (ty : Ty) (a : BitVec 8) (b x : Src) (s : State) : Host.Outcome State Fault Refusal :=
  issue (.bred c op ty a b x) (fun k s =>
    match k.laneCheck a b (tyBytes ty) s with
    | some t => k.trap t s
    | none => k.bankGo (.bred op ty) (k.bankLanes a b (fun i => BitVec.ofNat 64 (k.val ty x i)) (fun _ => 0) s) 0 0 k.lanes.length s) s

def execBxadd (c : Com) (d a : BitVec 8) (b x : Src) (s : State) : Host.Outcome State Fault Refusal :=
  issue (.bxadd c d a b x) (fun k s =>
    match k.laneCheck a b 64 s with
    | some t => k.trap t s
    | none => k.bankGo .bxadd (k.bankLanes a b (fun i => (k.v x i).zeroExtend 64) (fun _ => 0) s) d 0 k.lanes.length s) s

def execBxrd (c : Com) (f64 msacq : Bool) (d a : BitVec 8) (b : Src) (s : State) : Host.Outcome State Fault Refusal :=
  issue (.bxrd c f64 msacq d a b) (fun k s =>
    match k.laneCheck a b 64 s with
    | some t => k.trap t s
    | none => k.bankLoad (.bxrd f64 d.toNat) (k.bankLanes a b (fun _ => 0) (fun i => offWord (k.bankOff a b i)) s) f64 msacq d s) s

def execBxclr (c : Com) (d a : BitVec 8) (b : Src) (s : State) : Host.Outcome State Fault Refusal :=
  issue (.bxclr c d a b) (fun k s =>
    match k.laneCheck a b 64 s with
    | some t => k.trap t s
    | none => k.bankGo .bxclr (k.bankLanes a b (fun _ => 0) (fun _ => 0) s) d 0 k.lanes.length s) s

/-! ## Range updates (R140, R388) -/

/-- The checks of a range command: `as` are its bases with their alignment and bytes, `n` and `cap` its counts, `xy` two ranges that may
not partly overlap. -/
def rangeCheck (size : Nat) (as : List (DWord × Nat × Nat)) (n cap : Nat) (xy : Option (Nat × Nat × Nat)) (clamp : Bool) : Option Trap :=
  (as.map fun q => if q.1.toNat % q.2.1 = 0 then none else some { cause := cALIGN, addr := q.1 : Trap }) ++
    (as.map fun q => if q.1.toNat + q.2.2 ≤ size then none else some { cause := cBOUNDS, addr := q.1 : Trap }) ++
    [if n > cap then some (bankop 6 0) else none,
     xy.bind fun q => if q.1 = q.2.1 ∨ q.1 + q.2.2 ≤ q.2.1 ∨ q.2.1 + q.2.2 ≤ q.1 then none else some (bankop 5 0),
     if clamp then some (bankop 6 0) else none] |>.findSome? id

def execBaxpy (c : Com) (d a b x : BitVec 8) (n : BitVec 6) (cap : BitVec 32) (s : State) : Host.Outcome State Fault Refusal :=
  issue (.baxpy c d a b x n cap) (fun k s =>
    let w := s.window k.G
    let xs := (k.s a).toNat
    let ys := (k.s b).toNat
    let N := cap.toNat
    match rangeCheck w.2 [(k.s a, 4, 4 * N), (k.s b, 4, 4 * N)] (k.s6 n).toNat N (some (xs, ys, 4 * N)) false with
    | some t => k.trap t s
    | none => k.bankGo (.baxpy (low32 (k.s x)) (w.1 + xs) (w.1 + ys)) [] d (k.s6 n).toNat (k.s6 n).toNat s) s

def execBewu (c : Com) (op : EwOp) (d a b x : BitVec 8) (n m : BitVec 6) (cap : BitVec 32) (s : State) :
    Host.Outcome State Fault Refusal :=
  issue (.bewu c op d a b x n m cap) (fun k s =>
    let w := s.window k.G
    let xs := (k.s a).toNat
    let ys := (k.s b).toNat
    let N := cap.toNat
    let p := k.s6 m
    let lo := low32 (k.s x)
    let hi := low32 p
    let both := [(k.s a, 4, 4 * N), (k.s b, 4, 4 * N)]
    let chk := match op with
      | .scadd | .mul => rangeCheck w.2 both (k.s6 n).toNat N (some (xs, ys, 4 * N)) false
      | .clamp => rangeCheck w.2 [(k.s b, 4, 4 * N)] (k.s6 n).toNat N none (clampBad lo.toNat hi.toNat)
      | .moment => rangeCheck w.2 [(k.s b, 16, 16 * N), (p, 32, 32)] (k.s6 n).toNat N none false
    match chk with
    | some t => k.trap t s
    | none =>
      k.bankGo (.bewu op lo hi (w.1 + (if op = .moment then p.toNat else xs)) (w.1 + ys)) [] d (k.s6 n).toNat (k.s6 n).toNat s) s

/-! ## Sketches (R146-R151, R389-R392) -/

/-- ALIGN and BOUNDS of an object's header. -/
def headCheck (size : Nat) (o : DWord) : List (Option Trap) :=
  [if o.toNat % 64 = 0 then none else some { cause := cALIGN, addr := o }, if o.toNat < size then none else some { cause := cBOUNDS, addr := o }]

def execKsinit (c : Com) (d a b : BitVec 8) (sigma dep w : BitVec 8) (s : State) : Host.Outcome State Fault Refusal :=
  issue (.ksinit c d a b sigma dep w) (fun k s =>
    let win := s.window k.G
    let o := k.s a
    let D := dep.toNat
    let W := w.toNat
    let shape := [1, 3, 5, 7].contains D && decide (3 ≤ W) && decide (W ≤ 20)
    match (headCheck win.2 o ++ [if shape then none else some (bankop 1 o),
                                 if o.toNat + skBytes D W ≤ win.2 then none else some (bankop 5 o)]).findSome? id with
    | some t => k.trap t s
    | none => k.bankGo (.ksinit (win.1 + o.toNat) (low32 (k.s b)).toNat sigma.toNat D W) [] d 0 (D * 2 ^ W) s) s

/-- A header as its bank gives it to a header check: none while the core's earlier requests there are unfinished (R134, R136). -/
def Ctx.header (k : Ctx) (o : DWord) (s : State) : Option (List Byte) :=
  let b := (s.window k.G).1 + o.toNat
  if s.bankBusy k.g (banksOf (s.settings k.G.part) (b, 64)) then none else some (s.bkRead k.G.part b 64)

/-- The header check of KSUPD and KSQRY (R390, R391), then what issues the command. -/
def Ctx.withHeader (k : Ctx) (a : BitVec 8) (body : SkHdr → State → State) (s : State) : State :=
  let size := (s.window k.G).2
  let o := k.s a
  match (headCheck size o).findSome? id with
  | some t => k.trap t s
  | none =>
    match k.header o s with
    | none => s
    | some l =>
      let h := skHdrOf l
      if !(skValid l) then k.trap (bankop 2 o) s
      else if o.toNat + skBytes h.dep h.w > size then k.trap (bankop 5 o) s
      else body h s

/-- The lanes of a sketch command: value and key. -/
def Ctx.keyLanes (k : Ctx) (data : Nat → DWord) (key : Nat → DWord) : List BLane :=
  k.lanes.map fun i => { lane := i, addr := 0, data := data i, key := key i }

def execKsupd (c : Com) (e : Option (BitVec 8)) (d a : BitVec 8) (b x : Src) (s : State) : Host.Outcome State Fault Refusal :=
  issue (.ksupd c e d a b x) (fun k =>
    k.withHeader a fun h s =>
      let ex := (e.getD ((k.cr crLSCALE).truncate 8)).toInt
      k.bankGo (.ksupd ((s.window k.G).1 + (k.s a).toNat) h.seed h.dep h.w h.sigma ex)
        (k.keyLanes (fun i => (k.v x i).zeroExtend 64) (k.p b)) d 0 k.lanes.length s) s

def execKsqry (c : Com) (msacq : Bool) (d a : BitVec 8) (b : Src) (s : State) : Host.Outcome State Fault Refusal :=
  issue (.ksqry c msacq d a b) (fun k =>
    k.withHeader a fun h s =>
      let win := (s.window k.G).1
      k.bankLoad (.ksqry (win + (k.s a).toNat) h.seed h.dep h.w h.sigma d.toNat)
        (k.keyLanes (fun _ => BitVec.ofNat 64 win) (k.p b)) false msacq d s) s

/-- The header checks of KSADD: the lowest subcode that applies (R153). -/
def ksaddCheck (size : Nat) (a b : DWord) (la lb : List Byte) : Option Trap :=
  let ha := skHdrOf la
  let hb := skHdrOf lb
  let na := skBytes ha.dep ha.w
  let nb := skBytes hb.dep hb.w
  if !(skValid la) then some (bankop 2 a)
  else if !(skValid lb) then some (bankop 2 b)
  else if ha.seed ≠ hb.seed ∨ ha.dep ≠ hb.dep ∨ ha.w ≠ hb.w ∨ ha.sigma ≠ hb.sigma then some (bankop 3 a)
  else if a ≠ b ∧ a.toNat < b.toNat + nb ∧ b.toNat < a.toNat + na then some (bankop 4 a)
  else if a.toNat + na > size then some (bankop 5 a)
  else if b.toNat + nb > size then some (bankop 5 b)
  else none

def execKsadd (c : Com) (d a b : BitVec 8) (s : State) : Host.Outcome State Fault Refusal :=
  issue (.ksadd c d a b) (fun k s =>
    let win := s.window k.G
    let x := k.s a
    let y := k.s b
    let ha := headCheck win.2 x
    let hb := headCheck win.2 y
    match (ha.take 1 ++ hb.take 1 ++ ha.drop 1 ++ hb.drop 1).findSome? id with
    | some t => k.trap t s
    | none =>
      match k.header x s, k.header y s with
      | some la, some lb =>
        (match ksaddCheck win.2 x y la lb with
         | some t => k.trap t s
         | none =>
           let h := skHdrOf la
           k.bankGo (.ksadd (win.1 + x.toNat) (win.1 + y.toNat) h.dep h.w) [] d 0 (h.dep * 2 ^ h.w) s)
      | _, _ => s) s

/-! ## Events of the banks -/

def State.bankWork (s : State) (core id : Nat) : Option BankWork := (s.core core).bank.find? fun w => w.id == id

/-- BANK_REQUEST (R132-R134): the next request of a command reaches its bank and is performed there, or its next operand visit; no rule orders them
but that a request needs its operands (DESIGN CHOICE, log entry 11). -/
def execBankRequest (s : State) : Host.Outcome State Fault Refusal :=
  .next (
    match s.bankWork s.cur.g s.cur.t with
    | none => s
    | some w =>
      let put := fun (s : State) (v : BankWork) => s.setCore s.cur.g fun C => { C with bank := C.bank.map fun e => if e.id == w.id then v else e }
      if s.mayApply s.cur.g w && !(s.mayFetch s.cur.g w && Config.freeBit (s.choice w.id)) then
        (let r := perform s w w.cur
         put r.1 { r.2 with cur := w.cur + 1 })
      else if s.mayFetch s.cur.g w then put s (fetchOperand s w)
      else s)

/-- What a completed BXRD or KSQRY gives its landing entry. -/
def BankWork.fill (w : BankWork) (L : Landing) : Landing :=
  let wide := match w.kind with
    | .bxrd f _ => f
    | _ => false
  { L with vval := destWords wide (L.regs.headD 0) (w.lanes.map fun l => (l.lane, (w.out.getD l.lane 0).toNat)),
           mark := w.lanes.findSome? fun l => w.outMark.get? l.lane, flags := if w.ksat then fKSAT else 0, wait := none }

/-- BANK_COMMAND_COMPLETE (R136, R137): every request has been performed; the token is written, or the values are on their way. -/
def execBankCommandComplete (s : State) : Host.Outcome State Fault Refusal :=
  .next (
    let c := s.cur.g
    match s.bankWork c s.cur.t with
    | none => s
    | some w =>
      if w.cur < w.total then s
      else
        let s1 := s.setCore c fun C =>
          { C with bank := C.bank.filter fun e => e.id != w.id,
                   landing := C.landing.map fun L => if L.wait = some w.id then w.fill L else L }
        s1.landScalar w.gang w.strand w.split w.gen w.token w.word)

end Sys2Proof.Machine
end

