-- ==== Sys2Proof/Machine/Sync.lean ====
section
/-! DEFINITION. Machine/Sync.lean: atomics (R351-R353), FENCE (R354), named barriers (R355, R356) and cluster barriers (R357). -/

namespace Sys2Proof.Machine

open Sys2Proof

/-! ## Atomics -/

/-- Some serial order of the lanes (R353): ascending on a device or strongly ordered page (R122) and where no two name one address, else one that
the manual leaves open (DESIGN CHOICE, log entry 11). -/
def State.serial (s : State) (accs : List Acc) : List Acc :=
  if !(anyMtype (fun t => decide (t ≥ 2)) accs) && accs.any fun x => accs.any fun y => x.lane != y.lane && x.pa == y.pa then
    sortBy (fun (x : Acc) => Config.freeNat (s.choice (2 ^ 40 + x.lane))) accs
  else accs

/-- Lanes on host pages, where only some atomics exist (R123). -/
def hostAccs (accs : List Acc) : List Acc := accs.filter fun x => match x.leaf with
  | some l => l.target == 1
  | none => false

/-- One atomic read-modify-write; `f` gives the new value from the old one, if one is written. -/
def State.rmw (s : State) (k : Ctx) (x : Acc) (w : Nat) (f : Nat → Option Nat) : Nat × State :=
  let s1 := s.drainAt k.g k.t k.x x.pa w
  let old := ofLe (s1.mem.readN x.pa w)
  (old, match f old with
        | some v => s1.putN x.pa (leBytes w v)
        | none => s1)

/-- Performs the lanes of an atomic in a serial order; the old values by lane. -/
def State.rmwAll (s : State) (k : Ctx) (w : Nat) (f : Nat → Nat → Option Nat) (l : List Acc) : Tbl Nat × State :=
  l.foldl (fun a x => let r := a.2.rmw k x w (f x.lane); (Tbl.set a.1 x.lane r.1, r.2)) ([], s)

/-- What stands before an atomic's effect: its trap, a wait, or its accesses and the state in which it acts (R123, R134, R135, R343, R351). -/
inductive AtomicPre where
  | trap (t : Trap)
  | wait (s : State)
  | go (accs : List Acc) (s : State)
deriving DecidableEq, Repr

def Ctx.atomicPre (k : Ctx) (m : MemMod) (ty : Ty) (kind : AccKind) (hostOk returns : Bool) (as : List (Nat × DWord)) (s : State) : AtomicPre :=
  let scal := decide (kind = .scalar)
  match s.checkLanes k.G m.space ty kind true false (tyBytes ty) unstrided as with
  | .error t => .trap t
  | .ok accs =>
    match (if hostOk then [] else hostAccs accs), refusedBy scal accs with
    | x :: r, _ => .trap { cause := cHOSTATOM, addr := x.addr, lanes := if scal then 0 else setOfLanes ((x :: r).map Acc.lane) }
    | [], some t => .trap t
    | [], none =>
      if (returns && !(s.canLoad k.g k.t (if ty.is64 && decide (kind ≠ .scalar) then 2 else 1))) || k.bankWaits s accs ||
          s.captureHolds k.G.part accs then .wait (s.holdWrite k.G.part accs)
      else
        let s1 := ((s.noteAccs k.G.part accs).orderBefore k (m.ord == .rel || m.ord == .acqrel) (tyBytes ty) accs).commit k.g k.t
        .go accs (if m.space = .bk then s1.emptyBuffer k.g else s1)

/-- PCIe has AtomicOps for integer add, exchange and compare (R123). -/
def hostOp (op : ROp) : Bool := op == .add || op == .xchg

/-- The new value of an atomic operation (R351). -/
def atomicNew (op : ROp) (ty : Ty) (b old : Nat) : Nat := intOp op ty old (b % 2 ^ tyBits ty)

/-- The vector result of an atomic lands as a load's does. -/
def Ctx.landOld (k : Ctx) (ty : Ty) (d : Nat) (accs : List Acc) (mark : Option Mark) (r : Tbl Nat × State) : State :=
  let wide := ty.is64
  r.2.land k.g k.t k.x .v 0 (destWords wide d (accs.map fun x => (x.lane, r.1.getD x.lane 0))) (if wide then [d, d + 1] else [d]) mark 0 none

def execVatom (c : Com) (op : ROp) (ty : Ty) (m : MemMod) (nr : Bool) (d a : BitVec 8) (b x : Src) (off : BitVec 32) (s : State) :
    Host.Outcome State Fault Refusal :=
  issue (.vatom c op ty m nr d a b x off) (fun k s =>
    match k.atomicPre m ty .atomic (hostOp op) (!nr) (k.indexAddrs (k.addr a off) x) s with
    | .trap t => k.trap t s
    | .wait s1 => s1
    | .go accs s1 =>
      let r := s1.rmwAll k (tyBytes ty) (fun i old => some (atomicNew op ty (k.val ty b i) old)) (s1.serial accs)
      k.done (if nr then r.2 else k.landOld ty d.toNat accs (accs.findSome? fun q => s1.markOf k.g false q (tyBytes ty)) r)) s

def execVcas (c : Com) (ty : Ty) (m : MemMod) (d a : BitVec 8) (b x : Src) (off : BitVec 32) (s : State) :
    Host.Outcome State Fault Refusal :=
  issue (.vcas c ty m d a b x off) (fun k s =>
    match k.atomicPre m ty .atomic true true (k.indexAddrs (k.addr a off) x) s with
    | .trap t => k.trap t s
    | .wait s1 => s1
    | .go accs s1 =>
      let cmp := fun i => k.val ty { pat := .same, reg := d } i
      let r := s1.rmwAll k (tyBytes ty) (fun i old => if old = cmp i then some (k.val ty b i) else none) (s1.serial accs)
      k.done (k.landOld ty d.toNat accs (accs.findSome? fun q => s1.markOf k.g false q (tyBytes ty)) r)) s

/-- The scalar result of an atomic (R351, R352). -/
def Ctx.landOldS (k : Ctx) (ty : Ty) (d : BitVec 8) (mark : Option Mark) (r : Tbl Nat × State) : State :=
  r.2.land k.g k.t k.x (.s d.toNat) (widen64 ty (r.1.getD 0 0)) [] [] mark 0 none

def execSatom (c : Com) (op : ROp) (ty : Ty) (m : MemMod) (nr : Bool) (d a b : BitVec 8) (off : BitVec 32) (s : State) :
    Host.Outcome State Fault Refusal :=
  issue (.satom c op ty m nr d a b off) (fun k s =>
    match k.atomicPre m ty .scalar (hostOp op) (!nr) [(0, k.addr a off)] s with
    | .trap t => k.trap t s
    | .wait s1 => s1
    | .go accs s1 =>
      let r := s1.rmwAll k (tyBytes ty) (fun _ old => some (atomicNew op ty (k.s b).toNat old)) accs
      k.done (if nr then r.2 else k.landOldS ty d (accs.findSome? fun q => s1.markOf k.g false q (tyBytes ty)) r)) s

def execScas (c : Com) (ty : Ty) (m : MemMod) (d a b : BitVec 8) (off : BitVec 32) (s : State) : Host.Outcome State Fault Refusal :=
  issue (.scas c ty m d a b off) (fun k s =>
    match k.atomicPre m ty .scalar true true [(0, k.addr a off)] s with
    | .trap t => k.trap t s
    | .wait s1 => s1
    | .go accs s1 =>
      let w := 2 ^ tyBits ty
      let r := s1.rmwAll k (tyBytes ty)
        (fun _ old => if old = (k.s d).toNat % w then some ((k.s b).toNat % w) else none) accs
      k.done (k.landOldS ty d (accs.findSome? fun q => s1.markOf k.g false q (tyBytes ty)) r)) s

/-! ## FENCE -/

/-- FENCE (R354): every access of the split has been performed but its stores that wait, which are performed now; FENCE.ms also waits for the
strand's bank commands and empties the buffer (R138). -/
def execFence (c : Com) (sc : Scope) (s : State) : Host.Outcome State Fault Refusal :=
  issue (.fence c sc) (fun k s =>
    if sc = .ms && s.bankBefore k.g k.t (fun _ => true) then s
    else
      let s1 := s.drainSplit k.g k.t k.x
      k.done (if sc = .ms then s1.emptyBuffer k.g else s1)) s

/-! ## Named barriers -/

/-- The phase a wait compares with (R356): the one recorded at the split's last arrival, else the present one. -/
def Ctx.waitPhase (k : Ctx) (key : Nat) (now : Word) : Word := k.X.barP.getD key now

/-- Waits on a barrier whose phase is `now`, for a change from `p`, which the split keeps; a wait that returns at once commits the strand (R95,
R356). -/
def Ctx.await (k : Ctx) (key : Nat) (w : Wait) (p now : Word) (s : State) : State :=
  if now ≠ p then (k.done (s.setSplit k.g k.t k.x fun X => { X with barP := X.barP.erase key })).commit k.g k.t
  else (k.done s).setSplit k.g k.t k.x fun X => { X with st := .wait, wait := some w, barP := X.barP.set key p }

/-- The phase recorded by an arrival. -/
def Ctx.record (k : Ctx) (key : Nat) (p : Word) (s : State) : State := s.setSplit k.g k.t k.x fun X => { X with barP := X.barP.set key p }

def execBars (c : Com) (a : BitVec 8) (n : BitVec 4) (s : State) : Host.Outcome State Fault Refusal :=
  issue (.bars c a n) (fun k s =>
    let v := (k.s a).toNat
    if v < 1 ∨ v > 64 then k.trap { cause := cILLEGAL, detail := 0x0B } s
    else
      let B := k.G.bar n.toNat
      let s1 := s.setGang k.g fun G => { G with bars := G.bars.set n.toNat { B with count := v } }
      k.done (if B.arr ≥ v then s1.completeBar k.g n.toNat else s1)) s

/-- An arrival of the split: a release (R252), with the phase recorded first. -/
def Ctx.arrive (k : Ctx) (n : Nat) (s : State) : State :=
  ((k.record n (k.G.bar n).phase s).drainSplit k.g k.t k.x).arriveBar k.g n (some k.t)

def execBara (c : Com) (n : BitVec 4) (s : State) : Host.Outcome State Fault Refusal :=
  issue (.bara c n) (fun k s => k.done (k.arrive n.toNat s)) s

def execBarw (c : Com) (n : BitVec 4) (s : State) : Host.Outcome State Fault Refusal :=
  issue (.barw c n) (fun k s =>
    let now := (k.G.bar n.toNat).phase
    k.await n.toNat (.bar n.toNat) (k.waitPhase n.toNat now) now s) s

def execBart (c : Com) (n : BitVec 4) (s : State) : Host.Outcome State Fault Refusal :=
  issue (.bart c n) (fun k s =>
    let s1 := k.arrive n.toNat s
    k.await n.toNat (.bar n.toNat) (k.G.bar n.toNat).phase ((s1.gang k.g).bar n.toNat).phase s1) s

/-! ## Cluster barriers -/

/-- Whether every gang of the group lies in the issuing strand's cluster (R357). -/
def State.groupTogether (s : State) (k : Ctx) (grp : Nat) : Bool :=
  (s.group grp).gangs.all fun h => clusterOfCore (s.gang h).core == clusterOfCore k.G.core

/-- CLBAR (R357): an arrival reaches the barrier later (CLUSTER_BARRIER_ARRIVAL). -/
def execClbar (c : Com) (op : ClOp) (n : BitVec 3) (s : State) : Host.Outcome State Fault Refusal :=
  issue (.clbar c op n) (fun k s =>
    let grp := k.G.group.getD 0
    if !k.S.isLaunch || !(s.groupTogether k grp) then k.trap { cause := cILLEGAL, detail := 0x0B } s
    else
      let phase := ((s.group grp).bar n.toNat).phase
      let key := 16 + n.toNat
      let arr := fun (s : State) => ((k.record key phase s).drainSplit k.g k.t k.x).setGroup grp fun K =>
        { K with inflight := K.inflight ++ [(k.g, k.t, k.x, n.toNat)] }
      match op with
      | .arrive => k.done (arr s)
      | .wait => k.await key (.clbar n.toNat) (k.waitPhase key phase) phase s
      | .both => k.await key (.clbar n.toNat) phase phase (arr s)) s

/-- CLUSTER_BARRIER_ARRIVAL: an arrival reaches the barrier unit (R357). It completes the phase with the last live member, and then
commits its strand (R95). -/
def execClusterBarrierArrival (s : State) : Host.Outcome State Fault Refusal :=
  .next (
    let k := s.cur.g
    let n := s.cur.t
    let K := s.group k
    match K.inflight.find? fun a => a.2.2.2 == n with
    | none => s
    | some a =>
      let B := K.bar n
      let s1 := s.setGroup k fun K => { K with inflight := K.inflight.erase a, bars := K.bars.set n { B with arr := B.arr + 1, who := B.who ++ [a.1 * 32 + a.2.1] } }
      let s2 := s1.clSettle k
      if ((s2.group k).bar n).phase ≠ B.phase then s2.commit a.1 a.2.1 else s2)

/-- CLUSTER_BARRIER_RELEASE: a completed phase's waiters go on, those of a later phase do not (R356, R357). -/
def execClusterBarrierRelease (s : State) : Host.Outcome State Fault Refusal :=
  .next (
    let k := s.cur.g
    let n := s.cur.t
    let K := s.group k
    if !(K.release.contains n) then s
    else
      K.gangs.foldl (fun a g => a.releaseWait g true fun X => X.wait == some (.clbar n) && X.barP.getD (16 + n) 0 != (K.bar n).phase)
        (s.setGroup k fun K => { K with release := K.release.erase n }))

end Sys2Proof.Machine
end

