-- ==== Sys2Proof/Machine/Copy.lean ====
section
/-! DEFINITION. Machine/Copy.lean: layout records (R235-R237), the copy unit (R127, R229-R234), static schedules (R239, R240), the copy
instructions (R358-R366) and the events of the copy unit. -/

namespace Sys2Proof.Machine

open Sys2Proof

/-! ## Layout records -/

/-- A layout record's fields (R235). -/
structure LayRec where
  base    : DWord
  space   : Nat
  log2    : Nat
  ndim    : Nat
  swb     : Nat
  swc     : Nat
  swn     : Nat
  extents : List Nat
  strides : List DWord
deriving DecidableEq, Repr

def layRecOf (l : List Byte) : LayRec :=
  { base := BitVec.ofNat 64 (leAt l 0 8), space := leAt l 8 1 % 16, log2 := leAt l 8 1 / 16, ndim := leAt l 9 1, swb := leAt l 10 1,
    swc := leAt l 11 1, swn := leAt l 12 1, extents := (List.range 4).map fun i => leAt l (16 + 4 * i) 4,
    strides := (List.range 4).map fun i => BitVec.ofNat 64 (leAt l (32 + 8 * i) 8) }

/-- Whether a record is invalid (R235). -/
def recBad (l : List Byte) : Bool :=
  let r := layRecOf l
  r.ndim < 1 || r.ndim > 4 || r.swn > 8 || ((r.extents.take r.ndim).any (· == 0)) || leAt l 13 3 != 0 || r.space > 3 || r.log2 > 3 ||
    (r.swn != 0 &&
      ((decide (r.swb < r.swc + r.swn) && decide (r.swc < r.swb + r.swn)) || decide (r.swb + r.swn > 57) || decide (r.swc + r.swn > 57) ||
        decide (r.swb < r.log2) || decide (r.swc < r.log2)))

/-- Whether a stride of a record is no multiple of the width of its elements (R126). -/
def LayRec.strideBad (r : LayRec) (w : Nat) : Bool := (r.strides.take r.ndim).any fun x => x.toNat % w != 0

def LayRec.count (r : LayRec) : Nat := (r.extents.take r.ndim).foldl (· * ·) 1

/-- The indices of the k-th element, i0 fastest (R236). -/
def digitsOf : List Nat → Nat → List Nat
  | [], _ => []
  | e :: r, k => k % e :: digitsOf r (k / e)

/-- o′ of R236. -/
def LayRec.offset (r : LayRec) (idx : List Nat) : DWord :=
  let o := (idx.zip r.strides).foldl (fun (a : DWord) q => a + BitVec.ofNat 64 q.1 * q.2) 0
  if r.swn = 0 then o else o ^^^ (BitVec.ofNat 64 (field o.toNat (r.swc + r.swn - 1) r.swc) <<< r.swb)

def LayRec.elem (r : LayRec) (k : Nat) : DWord := r.offset (digitsOf (r.extents.take r.ndim) k)

def spaceOf (n : Nat) : Space := if n = 0 then .g else if n = 1 then .sp else if n = 2 then .cl else .bk

/-- Key of a gang's record in its core's cache. -/
def recKey (g idx : Nat) : Nat := g * 4096 + idx

/-- The bytes of a gang's record as its scratchpad holds them. -/
def State.recBytes (s : State) (g idx : Nat) : List Byte :=
  let G := s.gang g
  s.mem.readN (spAddr G.core (G.spUnit * 1024 + 64 * idx)) 64

/-- An engine's read of a record (R237): the cached copy, if there is one and the engine uses it, else the scratchpad's, which is then
cached. -/
def State.readRec (s : State) (g idx : Nat) : List Byte × State :=
  let c := (s.gang g).core
  let key := recKey g idx
  let fresh := s.recBytes g idx
  match (s.core c).recs.get? key with
  | some l =>
    if Config.freeBit (s.choice (2 ^ 41 + key)) then (l, s) else (fresh, s.setCore c fun C => { C with recs := C.recs.set key fresh })
  | none =>
    (fresh, s.setCore c fun C =>
      let kept := if C.recs.length ≥ 64 then C.recs.eraseIdx (Config.freeNat (s.choice (2 ^ 42 + key)) % 64) else C.recs
      { C with recs := Tbl.set kept key fresh })

/-- LREC (R365): lanes 0 to 15, active or not, as an ordinary store of the strand. -/
def execLrec (c : Com) (a : Src) (r : BitVec 12) (s : State) : Host.Outcome State Fault Refusal :=
  issue (.lrec c a r) (fun k s =>
    match s.offsetPa k.G .sp (64 * r.toNat) 64 with
    | none => k.trap { cause := cBOUNDS, addr := BitVec.ofNat 64 (64 * r.toNat) } s
    | some p => k.done (s.storeAt k.g k.t k.x 0 p ((List.range 16).flatMap fun i => leBytes 4 (k.v a i).toNat))) s

/-- LFENCE (R237, R365). -/
def execLfence (c : Com) (s : State) : Host.Outcome State Fault Refusal :=
  issue (.lfence c) (fun k s =>
    k.done (s.setCore k.G.core fun C => { C with recs := C.recs.filter fun e => e.1 / 4096 != k.g })) s

/-! ## Moving units -/

/-- Where one end of a unit lies. -/
inductive EndRes where
  | at_ (pa : Nat) (leaf : Option Leaf)
  | far (pkg part va : Nat) (leaf : Leaf)
  | fail (status : Byte)
  | park
deriving DecidableEq, Repr

/-- The status of a copy's translation fault (R232). -/
def tstatus (cause : Byte) : Byte := if cause = cTRANSLATE then 1 else 2

/-- Whether a partition parks copies on pool faults (R128). -/
def State.parks (s : State) (p : Nat) : Bool := (s.part p).pfqctl.getLsbD 0

/-- Resolves one end of a unit of a copy of partition `p` (R121, R127, R230). -/
def State.copyEnd (s : State) (G : Gang) (p : Nat) (space : Space) (wr : Bool) (a n : Nat) : EndRes :=
  match space with
  | .g =>
    (match s.resolve p .copy wr (!wr) a with
     | .error f => if f.cause = cTRANSLATE ∧ f.sub = 4 then (if s.parks p then .park else .fail 0x0A) else .fail (tstatus f.cause)
     | .ok l =>
       if l.target = 3 then .far (field l.pa 54 43) (field l.pa 42 39) (field l.pa 38 0) l
       else if targetAnswers l then .at_ l.pa (some l) else .fail 2)
  | _ => match s.offsetPa G space a n with
    | some x => .at_ x none
    | none => .fail 3

/-- One unit to move: its ends as addresses in their spaces, and the bytes read and written. -/
structure CpUnit where
  dsp : Space
  ssp : Space
  dst : Nat
  src : Nat
  rd  : Nat
  wr  : Nat
  nib : Nat
  sp  : Nat
deriving DecidableEq, Repr

/-- Element bits and page format of a CPYD's source (R227, R362): the explicit type's, or those of the page of its first byte. -/
def sourceFmt (sty : Option Ty) (pageFmt : Nat) : Option (Nat × Nat) :=
  let want := match sty with
    | some .f16 => 1
    | some .e4m3 => 3
    | some .e5m2 => 4
    | some .cb4 => 8
    | _ => 0
  if pageFmt = 0 then (if want = 0 then none else some (if want = 1 then 16 else if want = 8 then 4 else 8, want))
  else if want = 0 ∨ want = pageFmt then
    some (if pageFmt = 1 ∨ pageFmt = 2 then 16 else if pageFmt = 7 ∨ pageFmt = 8 then 4 else 8, pageFmt)
  else none

/-- A CPYD judges its destination space, its type against the format of its first source page, and its block start and capacity, whatever its valid
count is (R227, R362): `idxs` then keeps that format. A page that cannot be read yet is judged when it can. -/
def State.judgeCpyd (s : State) (p : Nat) (c : Copy) : Copy :=
  match c.kind with
  | .cpyd sty _ cap =>
    if !c.idxs.isEmpty || c.bad.isSome then c
    else if c.dsp ≠ .sp then { c with bad := some 2 }
    else
      (match (if c.ssp = .g then (match s.resolve p .copy false true c.src.toNat with
                                  | .ok l => some (l.fmt, l.off)
                                  | .error _ => none) else some (0, 0)) with
       | none => c
       | some f => match sourceFmt sty f.1 with
         | none => { c with idxs := [f.1], bad := some 5 }
         | some (w, fmt) =>
           { c with idxs := [f.1],
                    bad := if decide (5 ≤ f.1 ∧ f.1 ≤ 7) && (f.2 % (if fmt = 7 then 16 else 32) != 0 || cap % 32 != 0) then some 5
                           else if w = 16 ∧ c.src.toNat % 2 ≠ 0 then some 0x0B else none })
  | _ => c

/-- Unit k of a copy, or the status it fails with and the address that fails (R359-R364, R396). -/
def Copy.unitAt (c : Copy) (p k : Nat) : Except (Byte × Nat) CpUnit :=
  let flat := fun n => { dsp := c.dsp, ssp := c.ssp, dst := c.dst.toNat + k * c.unit, src := c.src.toNat + k * c.unit, rd := n, wr := n,
                         nib := 0, sp := p : CpUnit }
  match c.kind with
  | .cpy => .ok (flat c.unit)
  | .cpyt .. =>
    (match c.recs with
     | none => .error (9, 0)
     | some (sr, dr) =>
       let S := layRecOf sr
       let D := layRecOf dr
       let n := 2 ^ S.log2
       let e := c.idxs.getD k k
       let sa := (S.base + c.src + S.elem e).toNat
       let da := (D.base + c.dst + D.elem e).toNat
       if sa % n ≠ 0 then .error (0x0B, sa)
       else if da % n ≠ 0 then .error (0x0B, da)
       else .ok { dsp := spaceOf D.space, ssp := spaceOf S.space, dst := da, src := sa, rd := n, wr := n, nib := 0, sp := p })
  | .cpyg w _ => .ok { flat w with src := c.src.toNat + c.idxs.getD k 0 * w }
  | .cpyd sty _ _ =>
    let w := ((sourceFmt sty (c.idxs.headD 0)).map Prod.fst).getD 8
    .ok { dsp := .sp, ssp := c.ssp, dst := c.dst.toNat + 2 * k, src := c.src.toNat + (if w = 4 then k / 2 else k * (w / 8)),
          rd := if w = 16 then 2 else 1, wr := 2, nib := k % 2, sp := p }
  | .ovld _ len _ _ => .ok (flat (min 8 (len - 8 * k)))
  | .cbld _ => .ok (flat 8)
  | .lkget _ loc => .ok { flat c.unit with sp := (loc.map Prod.snd).getD p }

/-- What trying to move units comes to: how many have moved, or why none has; `sent` when what has been read is on its way to a remote page. -/
inductive Moved where
  | ok (n : Nat) (c : Copy) (s : State)
  | stop (status : Byte) (s : State)
  | park (va : Nat) (wr : Bool)
  | held (va : Nat)
  | ask (c : Copy) (s : State)
  | sent (c : Copy) (s : State)
  | wait
deriving DecidableEq, Repr

/-- A request to a remote package is sent with a tag; none can be where the package is unreachable (R61, R73, R74). -/
def State.askRemote (s : State) (c : Copy) (core pkg part va bytes index : Nat) (wr : Option (List Byte)) (via : Option (Nat × Nat)) : Moved :=
  if (s.peer pkg).unreach then .stop 7 s else
    match s.route pkg with
    | none => .stop 7 s
    | some link =>
      let (id, s1) := s.newId
      let tag := id % 65536
      let f : CopyFlit := { src := s.pkg.pkgid, spart := (s.gang c.gang).part, dpart := part, va := va, bytes := bytes, tag := tag, core := core,
                            off := 0, status := 0, data := wr.getD [] }
      let r : RemReq := { tag := tag, link := link, pkg := pkg, part := part, va := va, bytes := bytes, write := wr.isSome, index := index, got := 0,
                          data := wr.getD [], status := 0, via := via }
      (if wr.isSome then Moved.sent else Moved.ask) { c with rem := (c.rem.drop (c.rem.length - 31)) ++ [r] } (s1.emit (.copy link pkg (if wr.isSome then 0xA else 0x8) f))

/-- Bytes of a remote page that a copy's requests have brought. -/
inductive FarRead where
  | data (l : List Byte)
  | failed (status : Byte)
  | waiting
  | absent
deriving DecidableEq, Repr

def Copy.farBytes (c : Copy) (pkg part va n : Nat) : FarRead :=
  match c.rem.find? fun r => !r.write && r.pkg == pkg && r.part == part && decide (r.va ≤ va) && decide (va + n ≤ r.va + r.bytes) with
  | none => .absent
  | some r =>
    if va + n ≤ r.va + r.got then .data ((r.data.drop (va - r.va)).take n)
    else if r.status ≠ 0 then .failed r.status
    else .waiting

/-- Bytes to ask for at once from an aligned 8-byte unit on, in whole units (R234): the rest of a contiguous copy in this page, at most 4,096. -/
def Copy.askBytes (c : Copy) (k va : Nat) : Nat :=
  match c.kind with
  | .cpy | .lkget .. => max 8 (min (min 4096 ((va % 8 + (c.valid - k) * c.unit + 7) / 8 * 8)) (65536 - va / 8 * 8 % 65536))
  | _ => 8

/-- The virtual page and page bits of a leaf that a request is sent through; none where no translation names its place (R120, R396). -/
def Leaf.via (l : Leaf) : Option (Nat × Nat) := if l.pte = 0 then none else some (l.va / 2 ^ l.bits, l.bits)

/-- The bytes of a unit's source, with the copy as it has latched what it read. -/
inductive SrcRes where
  | got (l : List Byte) (leaf : Option Leaf) (pois : Bool) (c : Copy)
  | stop (m : Moved)
deriving DecidableEq, Repr

/-- The source end of a unit: an LKGET's lies where its home entry says (R396). -/
def State.sourceEnd (s : State) (c : Copy) (u : CpUnit) : EndRes :=
  let near := s.copyEnd (s.gang c.gang) u.sp u.ssp false u.src u.rd
  match c.kind with
  | .lkget _ (some (pkg, part)) => if pkg = s.pkg.pkgid then near else .far pkg part u.src { pte := 0, bits := 16, slot := 0, va := 0 }
  | _ => near

/-- A copy reads each aligned 8-byte unit of its source once (R234): the last of a contiguous source or of its scales (`key` odd), every one that the
elements of a CPYT or CPYG lie in. -/
def Copy.keepUnit (c : Copy) (key : Nat) (l : List Byte) : Copy :=
  { c with latch := (match c.kind with
      | .cpyt .. | .cpyg .. => c.latch
      | _ => c.latch.filter fun q => q.1 % 2 != key % 2).set key l }

/-- The aligned 8-byte unit at a physical address: as it has been read, else as it is, or as it was when the run found it at `m0` where the copy itself
may have overwritten it since (R358; a free value, log entry 18). -/
def State.readUnit (s : State) (p : Nat) (m0 : Mem) (c : Copy) (k stream pa : Nat) : List Byte × Copy :=
  let key := 2 * (pa / 8) + stream
  match c.latch.get? key with
  | some l => (l, c)
  | none =>
    let now := s.getKey p (pa / 8 * 8) 8
    let old := m0.readKey (s.keyOf p) (pa / 8 * 8) 8
    let l := if now ≠ old ∧ Config.freeBit (s.choice (2 ^ 71 + 2 * k + stream)) then old else now
    (l, c.keepUnit key l)

/-- Bytes in one aligned 8-byte unit of another package's memory: latched, brought by an answer, or still to be asked for. -/
def State.readFar (s : State) (c : Copy) (core k stream pkg part va n : Nat) (l : Leaf) : SrcRes :=
  let key := 2 * (2 ^ 72 + (pkg * 16 + part) * 2 ^ 61 + va / 8) + stream
  let cut := fun (u : List Byte) (c : Copy) => SrcRes.got ((u.drop (va % 8)).take n) (some l) false c
  match c.latch.get? key with
  | some u => cut u c
  | none =>
    match c.farBytes pkg part (va / 8 * 8) 8 with
    | .data u => cut u (c.keepUnit key u)
    | .failed st => if st = 4 then .got (List.replicate n 0) (some l) true c else .stop (.stop st s)
    | .waiting => .stop .wait
    | .absent => .stop (s.askRemote c core pkg part (va / 8 * 8) (if stream = 0 then c.askBytes k va else 8) k none l.via)

/-- Whether an access to a place has to wait for the bank requests that its gang's core has made before (R134). -/
def State.bankHolds (s : State) (g pa : Nat) : Bool := isBank pa && s.bankBusy g [bankOf pa]

def State.unitSource (s : State) (m0 : Mem) (c : Copy) (core k : Nat) (u : CpUnit) : SrcRes :=
  match s.sourceEnd c u with
  | .fail st => .stop (.stop st s)
  | .park => .stop (.park u.src false)
  | .at_ pa l =>
    if s.bankHolds c.gang pa then .stop .wait
    else
      let q := s.readUnit u.sp m0 c k 0 pa
      .got ((q.1.drop (pa % 8)).take u.rd) l (s.mem.poisoned pa u.rd) q.2
  | .far pkg part va l => s.readFar c core k 0 pkg part va u.rd l

/-- The scale byte of an element on a split-block page: it lies in the same page as the element (R124). -/
def State.scaleSource (s : State) (m0 : Mem) (c : Copy) (core k : Nat) (l : Leaf) : SrcRes :=
  let pa := l.scalePa
  if l.target = 3 then s.readFar c core k 1 (field l.pa 54 43) (field l.pa 42 39) (field pa 38 0) 1 l
  else
    let q := s.readUnit (s.gang c.gang).part m0 c k 1 pa
    .got ((q.1.drop (pa % 8)).take 1) none (s.mem.poisoned pa 1) q.2

/-- A decoded element as BF16 (R227): RNE, no flag. -/
def bf16Of (x : Num) : List Byte := leBytes 2 (convertF .bf16 .ieee 0 0 x).bits

/-- What a unit's source bytes become at the destination. -/
def State.unitData (s : State) (m0 : Mem) (c : Copy) (core k : Nat) (u : CpUnit) (l : List Byte) (leaf : Option Leaf) : SrcRes :=
  match c.kind with
  | .cpyd sty cb _ =>
    let pf := (leaf.map Leaf.fmt).getD 0
    if sty.isNone && pf != c.idxs.headD pf then .stop (.stop 5 s)
    else
      (match sourceFmt sty pf with
       | none => .stop (.stop 5 s)
       | some (w, fmt) =>
         let raw := ofLe l
         let code := if w = 4 then (raw >>> (4 * u.nib)) % 16 else raw
         if fmt = 8 then
           .got (bf16Of (s.codebook (s.gang c.gang).part (match leaf with
             | some x => if x.fmt = 8 then x.cbslot else cb
             | none => cb) code)) leaf false c
         else
           let e := Num.decode (pageFFmt fmt) code
           match (if 5 ≤ fmt ∧ fmt ≤ 7 then leaf else none) with
           | some x =>
             if x.off ≥ x.scaleBase then .stop (.stop 2 s)
             else
               (match s.scaleSource m0 c core k x with
                | .got d _ pois c' => .got (bf16Of (mxValue (leAt d 0 1) e)) leaf pois c'
                | .stop m => .stop m)
           | none => .got (bf16Of e) leaf false c)
  | _ => .got l leaf false c

/-- Poisons the sector of a destination byte (R232 status 4). -/
def State.poisonAt (s : State) (a : Nat) : State :=
  let u := poisonUnit a
  { s with mem := { s.mem with poison := if s.mem.poison.contains u then s.mem.poison else s.mem.poison ++ [u] } }

/-- A copy to a device or strongly ordered page is irrevocable (R95): its strand is committed at its issue and its start (`strictDest`), or, where the
page has come to be such a page since, when a byte goes there; not once a later FLASH has made the copy restartable. -/
def State.commitCopy (s : State) (c : Copy) (strict : Bool) : State :=
  let S := s.strand c.gang c.strand
  let kept := match S.flash with
    | some f => f.copies.contains c.id
    | none => false
  if strict && S.gen == c.gen && !kept then s.commit c.gang c.strand else s

def strictLeaf (l : Option Leaf) : Bool := match l with
  | some x => decide (x.mtype ≥ 2)
  | none => false

/-- Keeps the translation that an end was found through (R120). -/
def State.noteLeaf (s : State) (p : Nat) (l : Option Leaf) : State := match l with
  | some x => if x.pte = 0 then s else s.cache p x
  | none => s

/-- The bytes that unit k of a copy brings to its destination, and whether they are poisoned. -/
def State.unitBytes (s : State) (m0 : Mem) (c : Copy) (core k : Nat) (u : CpUnit) : SrcRes :=
  match s.unitSource m0 c core k u with
  | .stop m => .stop m
  | .got raw leaf pois0 c0 =>
    match s.unitData m0 c0 core k u raw leaf with
    | .stop m => .stop m
    | .got d l pois1 c1 => .got d l (pois0 || pois1) c1

/-- The bytes of the units from k on that go, one after the other, to the same aligned 8-byte unit of a remote page, which one request writes (R234);
a unit that fails ends them. -/
def State.gather (s : State) (m0 : Mem) (core pkg part : Nat) : Nat → Nat → Nat → List Byte → Copy → SrcRes
  | 0, _, _, l, c => .got l none false c
  | n + 1, k, va, l, c =>
    if k ≥ c.valid ∨ va % 8 = 0 then .got l none false c
    else match c.unitAt (s.gang c.gang).part k with
      | .error _ => .got l none false c
      | .ok u =>
        match s.copyEnd (s.gang c.gang) (s.gang c.gang).part u.dsp true u.dst u.wr with
        | .far pkg' part' va' _ =>
          if pkg' ≠ pkg ∨ part' ≠ part ∨ va' ≠ va then .got l none false c
          else (match s.unitBytes m0 c core k u with
            | .stop (.stop _ _) => .got l none false c
            | .stop m => .stop m
            | .got _ _ true _ => .got l none false c
            | .got d _ false c' => s.gather m0 core pkg part n (k + 1) (va + u.wr) (l ++ d) c')
        | _ => .got l none false c

/-- Tries to move unit k: every byte of it, or none (R232, R234). A remote write takes the units of its aligned 8-byte unit with it, and they have moved
when it is answered. -/
def State.moveUnit (s : State) (m0 : Mem) (c : Copy) (core k : Nat) : Moved :=
  let G := s.gang c.gang
  match c.unitAt G.part k, c.rem.find? fun r => r.write && r.index == k with
  | .error e, _ => .stop e.1 s
  | .ok u, some r =>
    if r.status ≠ 0 then .stop r.status s else if r.got < r.bytes then .wait else .ok (r.bytes / u.wr) { c with rem := c.rem.erase r } s
  | .ok u, none =>
    match s.unitBytes m0 c core k u with
    | .stop m => m
    | .got d leaf pois c1 =>
      let s1 := s.noteLeaf u.sp leaf
      match c.kind with
      | .ovld .. | .cbld _ => if pois then .stop 4 s1 else .ok 1 { c1 with image := c1.image ++ d } s1
      | _ =>
        match s.copyEnd G G.part u.dsp true u.dst u.wr with
        | .fail st => .stop st s1
        | .park => .park u.dst true
        | .at_ pa l =>
          if (match l with | some x => s.uncaptured G.part x | none => false) then .held u.dst
          else if s.bankHolds c.gang pa then .wait
          else if pois then .stop 4 (s1.poisonAt pa)
          else .ok 1 c1 (((s1.noteLeaf G.part l).putKey G.part pa d).commitCopy c (strictLeaf l))
        | .far pkg part va l =>
          if s.uncaptured G.part l then .held u.dst
          else if pois then .stop 4 s1
          else match s.gather m0 core pkg part 8 (k + 1) (va + u.wr) d c1 with
            | .got l' _ _ c2 => (s1.noteLeaf G.part (some l)).askRemote c2 core pkg part va l'.length k (some l') l.via
            | .stop m => m

/-- How far a copy gets: all of it, with its status, or what it has to wait for. -/
inductive Ran where
  | fin (status : Byte)
  | park (va : Nat) (wr : Bool)
  | held (va : Nat)
  | ask
  | wait
deriving DecidableEq, Repr

/-- Where a copy has got to at the start of an aligned 8-byte unit of its destination: it may pause there. -/
structure Pause where
  moved : Nat
  image : List Byte
  latch : Tbl (List Byte)
  block : Option (Space × Nat)
  mem   : Mem
deriving DecidableEq, Repr

/-- The aligned 8-byte unit that a unit's first destination byte lies in. -/
def State.destBlock (s : State) (c : Copy) (k : Nat) : Option (Space × Nat) :=
  match c.unitAt (s.gang c.gang).part k with
  | .ok u => some (u.dsp, u.dst / 8)
  | .error _ => none

/-- Moves units in ascending order from the first that is not moved, or in descending order; `m0` is memory as the run finds it. A run that has to
pause in an aligned 8-byte unit of the destination has not written any of it (R234). -/
def State.moveUnits (m0 : Mem) (core : Nat) (down : Bool) : Nat → Pause → Copy → State → Ran × Copy × State
  | 0, _, c, s => (.fin (c.bad.getD 0), c, s)
  | n + 1, w, c, s =>
    match c.bad with
    | some st => (.fin st, c, s)
    | none =>
      if c.moved ≥ c.valid then (.fin 0, c, s)
      else
        let k := if down then c.valid - 1 - c.moved else c.moved
        let b := s.destBlock c k
        let w := if b.isSome && b == w.block then w else { moved := c.moved, image := c.image, latch := c.latch, block := b, mem := s.mem }
        let back := fun (r : Ran) (c : Copy) (s : State) => (r, { c with moved := w.moved, image := w.image, latch := w.latch }, { s with mem := w.mem })
        match s.moveUnit m0 c core k with
        | .ok i c' s' => State.moveUnits m0 core down n w { c' with moved := c.moved + i } s'
        | .stop st s' => (.fin st, c, s')
        | .park va wr => back (.park va wr) c s
        | .held va => back (.held va) c s
        | .ask c' s' => back .ask c' s'
        | .sent c' s' => (.ask, c', s')
        | .wait => back .wait c s

/-- Runs a copy from where it stands, up or down. -/
def State.runDir (s : State) (core : Nat) (down : Bool) (c : Copy) : Ran × Copy × State :=
  let c1 := s.judgeCpyd (s.gang c.gang).part c
  s.moveUnits s.mem core down (c1.valid - c1.moved) { moved := c1.moved, image := c1.image, latch := c1.latch, block := none, mem := s.mem } c1

def State.runCopy (s : State) (core : Nat) (c : Copy) : Ran × Copy × State := s.runDir core false c

/-- Whether an address of one space may name a byte of the other (R113, R114): of itself, `.sp` of `.cl`, and in `.g` by another VA. -/
def mayAlias (a b : Space) : Bool := a == b || (a == .sp && b == .cl) || (a == .cl && b == .sp)

/-- Whether a copy of which nothing has moved may write what it reads; an image is in place only when it is whole. -/
def Copy.mayOverlap (c : Copy) : Bool :=
  let apart := fun n m => decide (c.src.toNat + n ≤ c.dst.toNat) || decide (c.dst.toNat + m ≤ c.src.toNat)
  c.moved == 0 && match c.kind with
    | .ovld .. | .cbld _ => false
    | .cpy => mayAlias c.dsp c.ssp && !(c.dsp == c.ssp && c.dsp != .g && apart (c.valid * c.unit) (c.valid * c.unit))
    | .cpyd .. => mayAlias .sp c.ssp && !(c.ssp == .sp && apart (2 * c.valid) (2 * c.valid))
    | .cpyg w _ =>
      mayAlias c.dsp c.ssp && !(c.dsp == c.ssp && c.dsp != .g && c.idxs.all fun i =>
        decide (c.src.toNat + i * w + w ≤ c.dst.toNat) || decide (c.dst.toNat + c.valid * w ≤ c.src.toNat + i * w))
    | .lkget .. => c.dsp == .g
    | .cpyt .. => match c.recs with
      | none => false
      | some (sr, dr) => mayAlias (spaceOf (layRecOf dr).space) (spaceOf (layRecOf sr).space)

/-- Whether a byte that a copy will write, with what it reads at its start, lies on a device or strongly ordered page (R95, R122). -/
def State.strictDest (s : State) (c : Copy) : Bool :=
  let G := s.gang c.gang
  let strict := fun (space : Space) (a : Nat) => space == .g && match s.translate G.part a with
    | .ok l => strictLeaf (some l)
    | .error _ => false
  let n := c.valid * c.unit
  match c.kind with
  | .cpy | .cpyg .. | .lkget .. => (pieces (n / 65536 + 2) c.dst.toNat n).any fun q => strict c.dsp q.1
  | .cpyt .. =>
    (match c.recs with
     | none => false
     | some q => let D := layRecOf q.2
                 (List.range (min c.valid D.count)).any fun i => strict (spaceOf D.space) (D.base + c.dst + D.elem i).toNat)
  | .cpyd .. | .ovld .. | .cbld _ => false

/-- A whole copy: one that may overlap itself, and that nothing stops, runs in either order (R358; a free value, log entry 18), but ascending to a
device or strongly ordered page (R122). -/
def State.wholeCopy (s : State) (core : Nat) (c : Copy) : Ran × Copy × State :=
  if !c.mayOverlap || !(Config.freeBit (s.choice (2 ^ 71 + 2 ^ 70))) || s.strictDest c then s.runCopy core c
  else match s.runDir core true c with
    | (.fin 0, c', s') => (.fin 0, c', s')
    | _ => s.runCopy core c

def State.putCopy (s : State) (core : Nat) (c : Copy) : State :=
  s.setCore core fun C => { C with copies := C.copies.map fun x => if x.id = c.id then c else x }

/-- Sends the next request of a copy that needs a remote package. -/
def State.pushCopy (s : State) (core : Nat) (c : Copy) : State :=
  match s.runCopy core c with
  | (.ask, c', s') => s'.putCopy core c'
  | _ => s

/-! ## Issuing -/

def classLimit : CopyCls → Nat
  | .fabric => 8
  | _ => 4

def classCode : CopyCls → Nat
  | .local_ => 0
  | .fabric => 1
  | .pool => 2

/-- The target of a copy's first byte, for its class (R229): none where it does not translate. -/
def State.endTarget (s : State) (p : Nat) (e : Space × Nat × Bool) : Option Nat :=
  if e.1 = .g then
    (match s.resolve p .copy e.2.2 (!e.2.2) e.2.1 with
     | .ok l => if targetAnswers l then some l.target else none
     | .error _ => none)
  else none

def State.copyClass (s : State) (p : Nat) (es : List (Space × Nat × Bool)) : CopyCls :=
  let ts := es.filterMap (s.endTarget p)
  if ts.contains 3 then .fabric else if ts.contains 2 || ts.contains 1 then .pool else .local_

/-- Translations kept of a copy's first bytes (R120). -/
def State.noteEnds (s : State) (p : Nat) (es : List (Space × Nat × Bool)) : State :=
  es.foldl (fun a e =>
    if e.1 = .g then (match s.translate p e.2.1 with
                      | .ok l => a.cache p l
                      | .error _ => a) else a) s

/-- The lowest free descriptor of a class, of 64 (R229). -/
def Core.freeDesc (C : Core) (cls : CopyCls) : Option Nat :=
  firstFrom (fun i => !(C.copies.any fun k => k.cls == cls && k.slot == i)) 64 0

/-- CPY's unit width (R359). -/
def unitWidth (dst src cap : Nat) : Nat :=
  if dst % 8 = 0 ∧ src % 8 = 0 ∧ cap % 8 = 0 then 8
  else if dst % 4 = 0 ∧ src % 4 = 0 ∧ cap % 4 = 0 then 4
  else if dst % 2 = 0 ∧ src % 2 = 0 ∧ cap % 2 = 0 then 2 else 1

/-- LKGET's read of the home entry at its start (R396): the result slot, or status 0x0C. -/
def State.lkgetStart (s : State) (p : Nat) (c : Copy) (l : DWord) : Copy :=
  let e := s.entry p (lkIdx l)
  if lkNull l || e.genA ≠ lkGen l || e.proxy || e.st != .resolved then { c with bad := some 0x0C }
  else
    let u := unitWidth c.dst.toNat e.rva.toNat e.rlen.toNat
    let far := e.peer ≠ s.pkg.pkgid
    { c with src := e.rva, valid := e.rlen.toNat / u, unit := u, kind := .lkget l (some (e.peer, e.ppart)),
             bad := if far && ((s.peer e.peer).unreach || (s.route e.peer).isNone) then some 7 else none }

/-- A record whose bytes lie beyond a gang's scratchpad allocation (R360). -/
def State.beyondSpad (s : State) (g r : Nat) : Option Trap :=
  if (s.offsetPa (s.gang g) .sp (64 * r) 64).isNone then some { cause := cBOUNDS, addr := BitVec.ofNat 64 (64 * r) } else none

/-- What a descriptor reads when it starts: records (R237, R360), index list (R361), home entry (R396). A CPYT to a device or strongly ordered page takes
its elements in ascending destination order (R122). -/
def State.startReads (s : State) (c : Copy) : Copy × State :=
  match c.kind with
  | .cpyt sr dr =>
    if c.bad.isSome || (s.beyondSpad c.gang sr).isSome || (s.beyondSpad c.gang dr).isSome then (c, s) else
      let a := s.readRec c.gang sr
      let b := a.2.readRec c.gang dr
      let S := layRecOf a.1
      let D := layRecOf b.1
      let bad := recBad a.1 || recBad b.1 || S.log2 != D.log2 || S.count != D.count
      let skew := S.strideBad (2 ^ S.log2) || D.strideBad (2 ^ D.log2)
      let c1 : Copy := { c with recs := some (a.1, b.1), valid := if bad then 0 else min c.valid S.count, unit := if bad then 1 else 2 ^ S.log2,
                                bad := if bad then some 9 else if skew then some 0x0B else none }
      ({ c1 with idxs := if s.strictDest c1 then sortBy (fun i => (D.base + c.dst + D.elem i).toNat) (List.range c1.valid) else [] }, b.2)
  | .cpyg _ off =>
    let G := s.gang c.gang
    let base := spAddr G.core (G.spUnit * 1024)
    ({ c with idxs := (List.range c.valid).map fun i => s.getNat (base + off + 4 * i) 4 }, s)
  | .lkget l _ => (s.lkgetStart (s.gang c.gang).part c l, s)
  | _ => (c, s)

/-- The physical bytes that a copy reads and writes, with what it reads at its start, as runs that each lie in one location. -/
def State.copyRuns (s : State) (c : Copy) : List (Nat × Nat) :=
  let G := s.gang c.gang
  let c := s.judgeCpyd G.part c
  let one := fun (e : EndRes) (n : Nat) => match e with
    | .at_ pa l => (pa, n) :: (match l with
      | some x => if x.split then [(x.scalePa, 1)] else []
      | none => [])
    | _ => []
  (List.range c.valid).flatMap fun k => match c.unitAt G.part k with
    | .error _ => []
    | .ok u => one (s.sourceEnd c u) u.rd ++ one (s.copyEnd G G.part u.dsp true u.dst u.wr) u.wr

/-- A split's stores to locations that a copy of its reads or writes are performed before it (R253). -/
def State.beforeCopy (s : State) (c : Copy) : State :=
  let runs := s.copyRuns c
  s.drain c.gang c.strand fun m => m.seen.contains c.split && runs.any fun r => m.meets (r.1 / 8 * 8) 8

/-- A descriptor before it is queued. -/
def Copy.blank : Copy :=
  { id := 0, gang := 0, strand := 0, gen := 0, split := 0, pc := 0, cls := .local_, kind := .cpy, dsp := .g, ssp := .g, dst := 0, src := 0,
    valid := 0, want := 0, unit := 1, token := 0, scope := 0, nb := none, sched := none, slot := 0, st := .queued, moved := 0, recs := none, idxs := [],
    bad := none, rem := [], image := [], latch := [] }

/-- Queues a descriptor in a slot of its class. -/
def State.queueCopy (s : State) (core : Nat) (slot : Nat) (c : Copy) : State :=
  let (id, s1) := s.newId
  s1.setCore core fun C => { C with copies := C.copies ++ [{ c with id := id, slot := slot, want := c.valid }] }

/-- Issues a copy of a strand in a class: it waits for a descriptor, then its checks hold or trap, then it is queued with its token pending
(R229, R230, R358). -/
def Ctx.issueCopyIn (k : Ctx) (cls : CopyCls) (c : Copy) (ends : List (Space × Nat × Bool)) (check : Option Trap) (s : State) : State :=
  match (s.core k.G.core).freeDesc cls with
  | none => s
  | some slot =>
    match check with
    | some t => k.trap t s
    | none =>
      let c1 : Copy := { c with gang := k.g, strand := k.t, gen := k.S.gen, split := k.x, pc := k.pc, cls := cls }
      let at_ := (s.startReads c1).1
      let s1 := ((s.noteEnds k.G.part ends).beforeCopy at_).queueCopy k.G.core slot c1
      let s2 := if s.strictDest at_ then s1.commit k.g k.t else s1
      k.done (k.busyS c.token s2)

/-- Issues a copy whose class its first bytes give (R229). -/
def Ctx.issueCopy (k : Ctx) (c : Copy) (ends : List (Space × Nat × Bool)) (check : Option Trap) (s : State) : State :=
  k.issueCopyIn (s.copyClass k.G.part ends) c ends check s

def scopeCode : Scope → Nat
  | .gang => 0 | .core => 1 | .cluster => 2 | .part => 3 | .dev => 4 | .sys => 5 | .ms => 7

/-- BOUNDS over the bytes a copy will move from a base (R230). -/
def State.copyBounds (s : State) (G : Gang) (space : Space) (a n : Nat) : Option Trap :=
  if space = .g ∨ n = 0 then none
  else
    let windows := if space = .cl then (List.range (min 32 ((a + n - 1) / 2 ^ 18 - a / 2 ^ 18))).map fun i => (a / 2 ^ 18 + i + 1) * 2 ^ 18 else []
    if (a :: (a + n - 1) :: windows).all fun b => (s.offsetPa G space b 1).isSome then none
    else some { cause := cBOUNDS, addr := BitVec.ofNat 64 a }

/-- The first trap of a list of checks. -/
def firstTrap (l : List (Option Trap)) : Option Trap := l.findSome? id

def alignTrap (bad : Bool) (a : DWord) : Option Trap := if bad then some { cause := cALIGN, addr := a } else none

/-- The fields that the CP layout and the token give a copy. -/
def cpCopy (m : CpMod) (d : BitVec 8) : Copy :=
  { Copy.blank with dsp := m.dsp, ssp := m.ssp, token := d.toNat, scope := scopeCode m.scope, nb := if m.nben then some m.nb.toNat else none }

def execCpy (c : Com) (m : CpMod) (d a b x : BitVec 8) (cap : BitVec 32) (s : State) : Host.Outcome State Fault Refusal :=
  issue (.cpy c m d a b x cap) (fun k s =>
    let dst := (k.s a).toNat
    let src := (k.s b).toNat
    let u := unitWidth dst src cap.toNat
    let n := min (k.s x).toNat cap.toNat / u
    k.issueCopy { cpCopy m d with kind := .cpy, dst := k.s a, src := k.s b, valid := n, unit := u } [(m.ssp, src, false), (m.dsp, dst, true)]
      (firstTrap [s.copyBounds k.G m.dsp dst (n * u), s.copyBounds k.G m.ssp src (n * u)]) s) s

/-- The first bytes of a CPYT's ends, by its records as they stand at issue (R229). -/
def State.recEnds (s : State) (g : Nat) (srec drec : Nat) (a b : DWord) : List (Space × Nat × Bool) :=
  let one := fun r (base : DWord) wr =>
    let l := s.recBytes g r
    if recBad l then [] else [(spaceOf (layRecOf l).space, ((layRecOf l).base + base + (layRecOf l).elem 0).toNat, wr)]
  one srec b false ++ one drec a true

def execCpyt (c : Com) (m : CpMod) (d a b x : BitVec 8) (srec drec : BitVec 12) (s : State) : Host.Outcome State Fault Refusal :=
  issue (.cpyt c m d a b x srec drec) (fun k s =>
    let beyond := fun (r : BitVec 12) => if k.s x = 0 then none else s.beyondSpad k.g r.toNat
    k.issueCopy { cpCopy m d with kind := .cpyt srec.toNat drec.toNat, dst := k.s a, src := k.s b, valid := (k.s x).toNat }
      (s.recEnds k.g srec.toNat drec.toNat (k.s a) (k.s b)) (firstTrap [beyond srec, beyond drec]) s) s

def execCpyg (c : Com) (m : CpMod) (lw : BitVec 2) (d a b x : BitVec 8) (cap : BitVec 14) (list : BitVec 18) (s : State) :
    Host.Outcome State Fault Refusal :=
  issue (.cpyg c m lw d a b x cap list) (fun k s =>
    let w := 2 ^ lw.toNat
    let n := min (k.s x).toNat cap.toNat
    let l := 4 * list.toNat
    k.issueCopy { cpCopy m d with kind := .cpyg w l, dst := k.s a, src := k.s b, valid := n, unit := w }
      [(m.ssp, (k.s b).toNat, false), (m.dsp, (k.s a).toNat, true)]
      (firstTrap [alignTrap ((k.s a).toNat % w != 0) (k.s a), alignTrap ((k.s b).toNat % w != 0) (k.s b),
        s.copyBounds k.G .sp l (4 * n), s.copyBounds k.G m.dsp (k.s a).toNat (n * w)]) s) s

def execCpyd (c : Com) (m : CpMod) (sty : Option Ty) (d a b x : BitVec 8) (cap : BitVec 24) (slot : BitVec 8) (s : State) :
    Host.Outcome State Fault Refusal :=
  issue (.cpyd c m sty d a b x cap slot) (fun k s =>
    let n := min (k.s x).toNat cap.toNat
    let w := match sourceFmt sty 0 with
      | some q => q.1
      | none => 0
    k.issueCopy { cpCopy m d with kind := .cpyd sty slot.toNat cap.toNat, dst := k.s a, src := k.s b, valid := n, unit := 2 }
      [(m.ssp, (k.s b).toNat, false), (m.dsp, (k.s a).toNat, true)]
      (firstTrap [alignTrap ((k.s a).toNat % 2 != 0) (k.s a), alignTrap (w == 16 && (k.s b).toNat % 2 != 0) (k.s b),
        (if m.dsp = .sp then s.copyBounds k.G .sp (k.s a).toNat (2 * n) else none),
        s.copyBounds k.G m.ssp (k.s b).toNat ((n * w + 7) / 8)]) s) s

/-- The directory entry of an overlay (R171). -/
def ovdWord (v loading : Bool) (id base len : Nat) : DWord :=
  BitVec.ofNat 64 ((if v then 2 ^ 63 else 0) + (if loading then 2 ^ 62 else 0) + id % 65536 * 2 ^ 32 + base % 65536 * 2 ^ 16 + len % 512)

/-- Clears V of the other entries whose range overlaps a target range (R171). -/
def clearOverlaps (ovd : Tbl DWord) (e base bytes : Nat) : Tbl DWord :=
  ovd.map fun q =>
    let b := field q.2.toNat 31 16
    let l := 256 * field q.2.toNat 8 0
    if q.1 != e && decide (b < base + bytes) && decide (base < b + l) then (q.1, q.2 &&& 0x7FFFFFFFFFFFFFFF#64) else q

def execOvld (c : Com) (m : CpMod) (d a b x : BitVec 8) (id : BitVec 16) (entry : BitVec 4) (s : State) :
    Host.Outcome State Fault Refusal :=
  issue (.ovld c m d a b x id entry) (fun k s =>
    let off := (k.s a).toNat
    let n := (k.s x).toNat
    let len := (n + 255) / 256
    let copy : Copy := { cpCopy m d with kind := .ovld off n id.toNat entry.toNat, src := k.s b, valid := (n + 7) / 8, unit := 8 }
    let bounds : Option Trap := if n < 1 ∨ n > 65536 ∨ off + 256 * len > 65536 then some { cause := cBOUNDS, addr := k.s a } else none
    let hov : Option Trap := if off + 256 * len > 65536 - 256 * k.G.hlen then some { cause := cHANDLEROVERLAP, addr := k.s a } else none
    let check := firstTrap [alignTrap (off % 256 != 0) (k.s a), alignTrap ((k.s b).toNat % 8 != 0) (k.s b), bounds,
      s.copyBounds k.G m.ssp (k.s b).toNat n, hov]
    let s1 := if check.isSome || ((s.core k.G.core).freeDesc (s.copyClass k.G.part [(m.ssp, (k.s b).toNat, false)])).isNone then s else
      s.setGang k.g fun G => { G with ovd := (clearOverlaps G.ovd entry.toNat off (256 * len)).set entry.toNat (ovdWord false true id.toNat off len) }
    k.issueCopy copy [(m.ssp, (k.s b).toNat, false)] check s1) s

def execCbld (c : Com) (m : CpMod) (d b : BitVec 8) (slot : BitVec 8) (s : State) : Host.Outcome State Fault Refusal :=
  issue (.cbld c m d b slot) (fun k s =>
    k.issueCopy { cpCopy m d with kind := .cbld slot.toNat, src := k.s b, valid := 4, unit := 8 } [(m.ssp, (k.s b).toNat, false)]
      (firstTrap [alignTrap ((k.s b).toNat % 8 != 0) (k.s b), s.copyBounds k.G m.ssp (k.s b).toNat 32]) s) s

/-! ## The static schedule (R239) -/

/-- The strand of replays that no CSTAGE issued: they were due at placement (R240). -/
def noStrand : Nat := 32

/-- The replay of an entry that is due at a counter value, if one is. -/
def Sched.due (e : Sched) (stage : Nat) : Option Nat :=
  if stage < e.stage then none
  else if e.period = 0 then (if stage = e.stage then some 0 else none)
  else
    let n := (stage - e.stage) / e.period
    if (stage - e.stage) % e.period = 0 && (e.count == 0 || decide (n < e.count)) then some n else none

/-- The descriptor of a replay. -/
def State.replayCopy (s : State) (g t x : Nat) (pc : BitVec 16) (i n : Nat) (e : Sched) : Copy :=
  let dst := e.dst + BitVec.ofNat 64 n * e.dstep
  let src := e.src + BitVec.ofNat 64 n * e.sstep
  let base : Copy := { Copy.blank with gang := g, strand := t, gen := (s.strand g t).gen, split := x, pc := pc, dst := dst, src := src,
                                       scope := e.scope, nb := if e.arrive then some e.nb else none, sched := some (i, n) }
  let len := e.len.toNat
  if e.cpyt then
    let ends := s.recEnds g (len % 65536) (len / 65536) dst src
    let bad : Option Byte := if (s.beyondSpad g (len % 65536)).isSome ∨ (s.beyondSpad g (len / 65536)).isSome then some 3 else none
    { base with kind := .cpyt (len % 65536) (len / 65536), valid := 2 ^ 64, cls := s.copyClass (s.partOf g) ends, bad := bad }
  else
    let u := unitWidth dst.toNat src.toNat len
    { base with dsp := spaceOf e.dsp, ssp := spaceOf e.ssp, valid := len / u, unit := u,
                cls := s.copyClass (s.partOf g) [(spaceOf e.ssp, src.toNat, false), (spaceOf e.dsp, dst.toNat, true)] }

/-- Issues the replays due at a counter value in ascending entry index; none where a class has no descriptor left. -/
def State.replays (s : State) (g t x : Nat) (pc : BitVec 16) (stage : Nat) : Option State :=
  let es := (s.gang g).lrec.sched
  (List.range es.length).foldl (fun (a : Option State) i =>
    match a with
    | none => none
    | some s' =>
      match es[i]? with
      | none => some s'
      | some e =>
        match e.due stage with
        | none => some s'
        | some n =>
          let c := s'.replayCopy g t x pc i n e
          match (s'.core (s'.gang g).core).freeDesc c.cls with
          | none => none
          | some slot => some ((s'.beforeCopy (s'.startReads c).1).queueCopy (s'.gang g).core slot c)) (some s)

/-- CSTAGE (R366): the counter advances and its due replays are issued; it waits while they have no descriptors. -/
def execCstage (c : Com) (s : State) : Host.Outcome State Fault Refusal :=
  issue (.cstage c) (fun k s =>
    let s1 := (s.setGang k.g fun G => { G with stage := G.stage + 1 }).commit k.g k.t
    match s1.replays k.g k.t k.x k.pc (k.G.stage + 1).toNat with
    | some s2 => k.done s2
    | none => s) s

/-! ## Events of the copy unit -/

def State.copyOf (s : State) (core id : Nat) : Option Copy := (s.core core).copies.find? fun c => c.id == id

/-- Whether a descriptor may start (R127, R229, R230): it is the first of its class that has not, no parked copy stands before it, and its
class is below its limit. -/
def Core.mayStart (C : Core) (c : Copy) : Bool :=
  let q := C.copies.filter fun k => k.cls == c.cls
  let before := q.takeWhile fun k => k.id != c.id
  c.st == .queued && before.all (fun k => k.st == .active) && decide (before.length < classLimit c.cls)

/-- A copy is parked on a pool page (R127, R128). -/
def State.parkCopy (s : State) (core : Nat) (c : Copy) (va : Nat) (wr : Bool) : State :=
  let G := s.gang c.gang
  let seq := (s.part G.part).pfSeq
  let f : PFault := { va := BitVec.ofNat 64 va, seq := seq, core := core, desc := BitVec.ofNat 8 (classCode c.cls * 64 + c.slot), write := wr,
                      region := G.region, gang := G.index }
  (s.putCopy core { c with st := .parked seq }).setPart G.part fun P =>
    { P with pfSeq := (P.pfSeq + 1) % 2 ^ 32, pfWait := P.pfWait ++ [f] }

/-- COPY_DESCRIPTOR_START (R230): the copy reads what it reads at its start; it parks at once if its first page is a pool page that is not
present, and asks a remote package for its first bytes. -/
def execCopyDescriptorStart (s : State) : Host.Outcome State Fault Refusal :=
  .next (
    let core := s.cur.g
    match s.copyOf core s.cur.t with
    | none => s
    | some c =>
      if !((s.core core).mayStart c) then s
      else
        let r := s.startReads { c with st := .active }
        let s1 := ((r.2.beforeCopy r.1).commitCopy r.1 (s.strictDest r.1)).putCopy core r.1
        match s1.runCopy core r.1 with
        | (.ask, c', s') => s'.putCopy core c'
        | (.park va wr, c', _) => if c'.moved = 0 then s1.parkCopy core r.1 va wr else s1
        | _ => s1)

/-- POOL_PAGE_NOT_PRESENT (R127): an active copy has moved its bytes up to a pool page that is not present, and is parked. -/
def execPoolPageNotPresent (s : State) : Host.Outcome State Fault Refusal :=
  .next (
    let core := s.cur.g
    match s.copyOf core s.cur.t with
    | none => s
    | some c =>
      if c.st != .active then s
      else match s.runCopy core c with
        | (.park va wr, c', s') => s'.parkCopy core c' va wr
        | _ => s)

/-- FAULT_QUEUE_ENTRY (R128): the oldest pool fault of a partition is written to its queue, if the queue can be read and has room, and
MSI-X vector 1 of the exporter is raised. -/
def execFaultQueueEntry (s : State) : Host.Outcome State Fault Refusal :=
  .next (
    let p := s.cur.g
    let P := s.part p
    match P.pfWait with
    | [] => s
    | f :: rest =>
      let base := P.pfqbase.toNat / 4096 * 4096
      let log := field P.pfqctl.toNat 11 8
      match s.readVa p base 64 with
      | .error _ => s
      | .ok h =>
        let prod := leAt h 0 4
        if (prod + 2 ^ 32 - leAt h 4 4) % 2 ^ 32 ≥ 2 ^ log then s
        else
          let bytes := leBytes 8 f.va.toNat ++ leBytes 4 f.seq ++ leBytes 2 f.core ++ [f.desc, if f.write then 1 else 0] ++
            leBytes 2 f.region ++ leBytes 4 f.gang ++ leBytes 10 0
          match s.writeVa p (base + 64 + prod % 2 ^ log * 32) bytes with
          | .error _ => s
          | .ok s1 =>
            match s1.writeVa p base (leBytes 4 ((prod + 1) % 2 ^ 32)) with
            | .error _ => s
            | .ok s2 =>
              let s3 := s2.setPart p fun P => { P with pfWait := rest }
              match s3.exporter p with
              | some e => s3.msix e 1
              | none => s3)

/-- The MAGIC of a Kweyn-P image (R174). -/
def isPortable (l : List Byte) : Bool := leAt l 0 4 == 0x3150574B

/-- What the translation cache gives a partition for an image (R176). -/
inductive TransRes where
  | native (l : Native) (s : State)
  | busy (s : State)
deriving DecidableEq, Repr

/-- A lookup (R176): a hit needs the partition's bit; a miss starts one translation, shared by the partition's own misses. -/
def State.transLookup (s : State) (p : Nat) (image : List Byte) : TransRes :=
  match s.trans.find? fun e => e.image == image with
  | some e =>
    if e.vis.getLsbD p then .native e.native { s with trans := s.trans.map fun q => if q.id = e.id then { q with used := s.stepNo } else q }
    else if e.busy.contains p then .busy s
    else .busy { s with trans := s.trans.map fun q => if q.id = e.id then { q with busy := q.busy ++ [p] } else q }
  | none =>
    let (id, s1) := s.newId
    .busy { s1 with trans := s1.trans ++ [{ id := id, image := image, native := .failed 0, vis := 0, busy := [p], used := s.stepNo }] }

/-- Whether the header of a Kweyn-P image is good for a strand with `nv` vector registers (R174, R175). -/
def portableOk (nv : Nat) (l : List Byte) : Bool :=
  leAt l 4 2 == 1 && leAt l 8 4 % 4 == 0 && decide (leAt l 8 4 ≤ 65536) &&
    decide (64 + leAt l 8 4 ≤ l.length) && decide (leAt l 12 1 < nv)

/-- MOD16 of a native instruction (R261): as volend gives it, but for the registers that it names, which stay (R175): the whole of FLASH's, bits [11:0]
of BAXPY's and BEWU's. -/
def volendMod (major : BitVec 8) (old new : BitVec 16) : BitVec 16 :=
  if major = 0x12 then old
  else if major = 0xD4 ∨ major = 0xD5 then new.extractLsb' 12 4 ++ old.extractLsb' 0 12
  else new

/-- The native instruction for a Kweyn-P one (R175): its length, registers and other fields stay; volend gives MAJOR, MINOR and the MOD16 of a format
that has one, and STALL lets the instruction's own result land before the next issues (R168; DEDUCED, log entry 13). -/
def volendOne (w : BitVec 128) : Option (BitVec 128) :=
  (Config.volend w).map fun q =>
    let r : Raw := { Raw.unpack w with major := q.1, minor := q.2.1 }
    let r1 : Raw := match ((majorFmts q.1.toNat).getD []).find? fun f => f.len == r.len with
      | some .f96i => { r with b := volendMod q.1 r.b q.2.2 }
      | some .f96a | some .f128m => { r with m := volendMod q.1 r.m q.2.2 }
      | _ => r
    let lat := match decodeRaw 0 r1 with
      | .ok i => latencyOf i
      | .error _ => 0
    { r1 with stall := BitVec.ofNat 4 (lat - 1) }.pack

/-- The native code for Kweyn-P code, instruction by instruction at the same offsets, or the offset of the first that fails (R174, R175). -/
def volendCode : Nat → Nat → List Byte → Native
  | 0, _, _ => .image []
  | k + 1, off, l =>
    match l with
    | [] => .image []
    | b :: _ =>
      let len := b.extractLsb' 0 2
      let n := lenBytes len
      let w := BitVec.ofNat 128 (ofLe (l.take n))
      if len = 3 ∨ l.length < n ∨ off % 32 + n > 32 then .failed off
      else match volendOne w with
        | none => .failed off
        | some v => match volendCode k (off + n) (l.drop n) with
          | .image r => .image (leBytes n v.toNat ++ r)
          | .failed o => .failed o

/-- What volend makes of an image whose header is good; the header stays in front of the code (DEDUCED, log entry 13). -/
def volendImage (l : List Byte) : Native :=
  match volendCode 16384 64 (sliceB l 64 (leAt l 8 4)) with
  | .image r => .image (l.take 64 ++ r)
  | .failed o => .failed o

/-- The cache holds 16 MiB of native images: the entries used least recently go, but for those with a load in flight (R176). -/
def State.trimTrans (s : State) : State :=
  let size := fun (e : Trans) => match e.native with
    | .image l => l.length
    | .failed _ => 0
  let keep := (sortBy (fun (e : Trans) => s.stepNo - e.used) s.trans).foldl (fun (a : Nat × List Nat) e =>
    if !e.busy.isEmpty || a.1 + size e ≤ 2 ^ 24 then (a.1 + size e, a.2 ++ [e.id]) else (2 ^ 24, a.2)) (0, [])
  { s with trans := s.trans.filter fun e => keep.2.contains e.id }

/-- The words an overlay places: its own bytes, or their native image (R174, R175). -/
def State.placeable (s : State) (p nv : Nat) (image : List Byte) : TransRes :=
  if !(isPortable image) then .native (.image image) s
  else if !(portableOk nv image) then .native (.failed 0) s
  else s.transLookup p image

/-- Writes bytes into code space, zero to the end of their last granule (R363). -/
def putCode (code : Tbl Byte) (off len : Nat) (l : List Byte) : Tbl Byte := tblPut code off (sliceB l 0 (256 * len))

/-- Statuses that become a scheduled copy's fault (R240). -/
def schedCause (st : Byte) : Byte × Nat :=
  if st = 1 then (cTRANSLATE, 0) else if st = 3 then (cBOUNDS, 0) else if st = 4 then (cPOISON, 0)
  else if st = 0x0B then (cALIGN, 0) else if st = 9 then (cILLEGAL, 0) else (cPERMISSION, 0)

/-- The address at which a copy that has failed stands: that of the end of its next unit that fails. -/
def State.failAddr (s : State) (c : Copy) : DWord :=
  match c.unitAt (s.gang c.gang).part c.moved with
  | .error e => BitVec.ofNat 64 e.2
  | .ok u =>
    if c.bad.isSome then 0
    else BitVec.ofNat 64 (match s.sourceEnd c u with
      | .fail _ => u.src
      | .at_ pa _ => if s.mem.poisoned pa u.rd then u.src else u.dst
      | _ => u.dst)

/-- The end of a copy (R232, R233): its own effect, its token, its barrier, and a scheduled copy's fault, which names slot 0 and PC 0 for a replay that
was due at placement (R240). -/
def State.finishCopy (s : State) (core : Nat) (c : Copy) (st : Byte) : State :=
  let p := (s.gang c.gang).part
  let bytes := match c.kind with
    | .ovld _ n _ _ => min (8 * c.moved) n
    | _ => c.moved * c.unit
  let s0 := s.setCore core fun C => { C with copies := C.copies.filter fun k => k.id != c.id }
  let tok := fun (s : State) (st : Byte) (n : Nat) =>
    s.landScalar c.gang c.strand c.split c.gen c.token (BitVec.ofNat 64 (2 ^ 63 + st.toNat % 128 * 2 ^ 56 + n % 2 ^ 56))
  let s1 := match c.kind with
    | .ovld off n id e =>
      let len := (n + 255) / 256
      let here := (List.range len).map (off / 256 + ·)
      (match (if st = 0 then s0.placeable p (16 * (s.strand c.gang c.strand).vblk) c.image else .native (.failed 0) s0) with
       | .native (.image l) s0 =>
         tok ((s0.setGang c.gang fun G =>
           { G with code := putCode G.code off len l, ovd := G.ovd.set e (ovdWord true false id off len),
                    own := G.own ++ here.filter fun n => !(G.own.contains n), evicted := G.evicted.filter fun n => !(here.contains n) }).evict core) 0 bytes
       | _ => tok (s0.setGang c.gang fun G => cancelOvd G c) (if st = 0 then 0x30 else st) (if st = 0 then 0 else bytes))
    | .cbld slot =>
      tok (if st = 0 then s0.setPart p fun P => { P with codebook := P.codebook.set slot c.image } else s0) st bytes
    | _ => tok s0 st bytes
  let s2 := match c.nb with
    | some n => s1.arriveBar c.gang n none
    | none => s1
  match c.sched with
  | some (i, n) =>
    if st = 0 then s2 else
      s2.fault c.gang (if c.strand = noStrand then 0 else c.strand) c.split c.pc { cause := (schedCause st).1, addr := s.failAddr c, detail := BitVec.ofNat 64 (n % 2 ^ 32 * 256 + i) } false tcFAULT
  | none => s2

/-- COPY_COMPLETE (R232): every byte the copy moves is moved, and it completes; an overlay whose translation runs waits for it. -/
def execCopyComplete (s : State) : Host.Outcome State Fault Refusal :=
  .next (
    let core := s.cur.g
    match s.copyOf core s.cur.t with
    | none => s
    | some c =>
      if c.st != .active then s
      else match s.wholeCopy core c with
        | (.ask, c', s') => s'.putCopy core c'
        | (.held va, _, _) => s.holdPage (s.gang c.gang).part va
        | (.fin st, c', s') =>
          (match c'.kind with
           | .ovld .. =>
             (match (if st = 0 then s'.placeable (s'.gang c.gang).part (16 * (s'.strand c.gang c.strand).vblk) c'.image else .native (.failed 0) s') with
              | .busy s'' => s''
              | .native .. => s'.finishCopy core c' st)
           | _ => s'.finishCopy core c' st)
        | _ => s)

end Sys2Proof.Machine
end

