-- ==== Sys2Proof/Machine/Invoke.lean ====
section
/-! DEFINITION. Machine/Invoke.lean: starting an invocation at the home table, for INVK, INVKA and INVOKE (R66, R70, R75, R394). -/

namespace Sys2Proof.Machine

open Sys2Proof

/-- What an invocation carries: function index, argument bytes, HOST. -/
structure Inv where
  fidx : Nat
  args : List Byte
  host : Bool
deriving DecidableEq, Repr

/-- Who issues it: partition, issuing region, gang or queue and command. -/
structure Issuer where
  part   : Nat
  region : Nat
  gang   : Option Nat
  queue  : Option (Nat × Nat)
deriving DecidableEq, Repr

/-- Where it goes: a package and partition, or an addressed locket. -/
inductive Target where
  | to (pkg part : Nat)
  | at_ (locket : DWord)
deriving DecidableEq, Repr

def Target.addressed : Target → Bool
  | .to _ _ => false
  | .at_ _ => true

/-- A home entry that does not find room leaves this cause in its null locket (R66, R394). -/
def State.noRoom (s : State) (w : Issuer) : Option Byte :=
  if !(withinBudgets (s.part w.part).regions w.region [0, 0, 0, 0, 0, 1] false) then some tcBUDGET
  else match s.freeEntry w.part with
    | none => some tcTABLEFULL
    | some _ => none

/-- Allocates home entry `i` (R66-R68, R70); with the first entry whose peer is a package, the times of R73 begin. -/
def State.allocHome (s : State) (w : Issuer) (i : Nat) (lflags : Nat) (peer ppart : Nat) (up : Option Nat) : State :=
  let known := s.parts.any fun P => P.2.lrt.any fun e => e.2.st != .free && e.2.peer == peer
  let s0 := if known || peer == s.pkg.pkgid then s else s.setPeer peer fun P => { P with heard := s.cycle, sent := s.cycle }
  let s1 := s0.setPart w.part fun P => { P with regions := chargeUsage P.regions w.region [0, 0, 0, 0, 0, 1] false }
  s1.setEntry w.part i fun e =>
    { Lrt.freshEntry e.gen with st := .pending, lflags := BitVec.ofNat 8 lflags, peer := peer, ppart := ppart, upv := up.isSome,
                                upidx := up.getD 0xFFFF, region := w.region, gang := w.gang, queue := w.queue }

/-- The header of an invocation for home entry `i` (R74). -/
def State.invHdr (s : State) (p i : Nat) (v : Inv) : MsgHdr :=
  let e := s.entry p i
  { MsgHdr.blank with spart := p, dpart := e.ppart, hidx := i, hgen := e.genA, host := v.host, fidx := v.fidx, alen := v.args.length,
                      args := v.args }

/-- A package whose traffic cannot leave: it has no identifier (R61), or the other package is declared unreachable (R73). -/
def State.cannotReach (s : State) (pkg : Nat) : Option Byte :=
  if !s.pkg.pkgidSet && pkg != s.pkg.pkgid then some tcREFUSED
  else if pkg != s.pkg.pkgid && (s.peer pkg).unreach then some tcUNREACHABLE
  else none

/-- INVK's message (R394). -/
def State.sendDirect (s : State) (p i : Nat) (v : Inv) : State :=
  let e := s.entry p i
  match s.cannotReach e.peer with
  | some c => s.tarnish p [i] c
  | none => s.send 1 e.peer (s.invHdr p i v)

/-- INVKA takes the next sequence number of the addressed entry `u` and acts on `u`'s state (R70): tarnished at once, held or sent. -/
def State.sendAddressed (s : State) (p i u : Nat) (v : Inv) : State :=
  let e := s.entry p u
  let s1 := s.setEntry p u fun e => { e with nextSeq := (e.nextSeq + 1) % 65536 }
  if e.st = .tarnished then s1.tarnishOne p i tcUPSTREAM e.root e.origin e.onull
  else match s.cannotReach e.peer with
    | some c => s1.tarnish p [i] c
    | none =>
      let h := { s.invHdr p i v with addressed := true, aseq := e.nextSeq, pidx := e.peerIdx, pgen := e.peerGen }
      if e.st = .pending then s1.setEntry p u fun e => { e with fq := e.fq ++ [{ ty := 2, dst := e.peer, h := h }] }
      else s1.send 2 e.peer h

/-- An invocation (R394): its locket, the home entry it got, and the state. -/
def State.invoke (s : State) (w : Issuer) (t : Target) (v : Inv) : DWord × Option Nat × State :=
  match s.noRoom w, s.freeEntry w.part with
  | some c, _ => (nullLocket s.pkg.pkgid w.part c, none, s)
  | none, none => (nullLocket s.pkg.pkgid w.part tcTABLEFULL, none, s)
  | none, some i =>
    let flags := (if v.host then 0x20 else 0) + (if t.addressed then 0x10 else 0)
    let lk := mkLocket s.pkg.pkgid w.part i (s.entry w.part i).gen flags
    match t with
    | .to pkg part => (lk, some i, (s.allocHome w i flags pkg part none).sendDirect w.part i v)
    | .at_ l =>
      if lkNull l then
        (lk, some i, (s.allocHome w i flags s.pkg.pkgid w.part none).tarnishOne w.part i tcUPSTREAM (BitVec.ofNat 8 (lkFlags l % 64)) 0xFFFF true)
      else
        let u := lkIdx l
        let e := s.entry w.part u
        (lk, some i, (s.allocHome w i flags e.peer e.ppart (some u)).sendAddressed w.part i u v)

/-- An INVKA that finds the home's forwarding store full stalls (R66). -/
def State.storeFull (s : State) (p : Nat) : Bool := decide (s.storeUsed p ≥ Config.forwardStore)

end Sys2Proof.Machine
end

