-- ==== Sys2Proof/Machine/System.lean ====
section
/-! DEFINITION. Machine/System.lean: lockets (R393-R397), control registers (R160-R162, R398), ERET, FLTRD and CLASP (R399-R401). -/

namespace Sys2Proof.Machine

open Sys2Proof

/-! ## Lockets -/

/-- The check of an operand locket (R393). -/
def Ctx.locketTrap (k : Ctx) (l : DWord) (s : State) : Option Trap :=
  if lkPkg l ≠ s.pkg.pkgid ∨ lkPart l ≠ k.G.part then some { cause := cFOREIGNLOCKET }
  else if s.stale k.G.part l then some { cause := cSTALELOCKET }
  else none

/-- A value that reaches a register no sooner than 40 cycles on, or when its entry settles. -/
def Ctx.later (k : Ctx) (d : BitVec 8) (val : Option DWord) (entry : Nat) (lstat : Bool) (lgen : Nat) (s : State) : State :=
  let (id, s1) := s.newId
  let r : LkRes := { id := id, gang := k.g, strand := k.t, gen := k.S.gen, split := k.x, reg := d.toNat, part := k.G.part, val := val,
                     entry := entry, lstat := lstat, lgen := lgen, due := k.now + 40 }
  k.busyS d.toNat { s1 with lkres := s1.lkres ++ [r] }

/-- The argument bytes of lanes 0 to 15 (R394). -/
def Ctx.argBytes (k : Ctx) (b : Src) (n : Nat) : List Byte := ((List.range 16).flatMap fun i => leBytes 4 (k.v b i).toNat).take n

/-- INVK and INVKA once their checks hold: a release at SYS scope, the home table's act, the locket on its way. -/
def Ctx.invokes (k : Ctx) (d : BitVec 8) (t : Target) (b : Src) (fn : BitVec 16) (nb : BitVec 7) (s : State) : State :=
  let s1 := (s.drainSplit k.g k.t k.x).commit k.g k.t
  let w : Issuer := { part := k.G.part, region := k.G.region, gang := some k.g, queue := none }
  let r := s1.invoke w t { fidx := fn.toNat, args := k.argBytes b nb.toNat, host := false }
  k.done (k.later d (some r.1) 0 false 0 r.2.2)

def execInvk (c : Com) (d a : BitVec 8) (b : Src) (fn : BitVec 16) (nb : BitVec 7) (s : State) : Host.Outcome State Fault Refusal :=
  issue (.invk c d a b fn nb) (fun k => k.invokes d (.to (field (k.s a).toNat 11 0) (field (k.s a).toNat 15 12)) b fn nb) s

def execInvka (c : Com) (d a : BitVec 8) (b : Src) (fn : BitVec 16) (nb : BitVec 7) (s : State) : Host.Outcome State Fault Refusal :=
  issue (.invka c d a b fn nb) (fun k s =>
    match k.locketTrap (k.s a) s with
    | some t => k.trap t s
    | none => if s.storeFull k.G.part then s else k.invokes d (.at_ (k.s a)) b fn nb s) s

def execLkwait (c : Com) (d a : BitVec 8) (s : State) : Host.Outcome State Fault Refusal :=
  issue (.lkwait c d a) (fun k s =>
    let l := k.s a
    match k.locketTrap l s with
    | some t => k.trap t s
    | none =>
      let e := s.entry k.G.part (lkIdx l)
      let val := if lkNull l then some (nullStatus l)
        else if e.st = .resolved ∨ e.st = .tarnished then some (statusWord (lkIdx l) e) else none
      k.done (k.later d val (lkIdx l) false (lkGen l) s)) s

def execLkstat (c : Com) (d a : BitVec 8) (s : State) : Host.Outcome State Fault Refusal :=
  issue (.lkstat c d a) (fun k s =>
    let l := k.s a
    match k.locketTrap l s with
    | some t => k.trap t s
    | none =>
      k.done (if lkNull l then k.later d (some (nullStatus l)) 0 false 0 s
              else k.later d (some (statusWord (lkIdx l) (s.entry k.G.part (lkIdx l)))) (lkIdx l) true (lkGen l) s)) s

/-- LKGET (R396): its class is fixed by the home entry at issue. -/
def execLkget (c : Com) (sc : Scope) (dsp : Space) (d a b : BitVec 8) (s : State) : Host.Outcome State Fault Refusal :=
  issue (.lkget c sc dsp d a b) (fun k s =>
    let l := k.s a
    let e := s.entry k.G.part (lkIdx l)
    let far := !(lkNull l) && (e.st == .migrated || e.st == .resolved) && e.peer != s.pkg.pkgid
    let cp : Copy := { Copy.blank with kind := .lkget l none, dsp := dsp, dst := k.s b, token := d.toNat, scope := scopeCode sc }
    k.issueCopyIn (if far then .fabric else .local_) cp []
      (firstTrap [k.locketTrap l s, alignTrap ((k.s b).toNat % 8 != 0) (k.s b)]) s) s

/-- LKREL's transitions at the home entry (R66, R68). -/
def State.lkrel (s : State) (p i : Nat) : State :=
  let e := s.entry p i
  if e.live then s.setEntry p i fun e => { e with rel := true, gen := nextGen e.gen }
  else (s.sendRelease p i).freeHome p i

def execLkrel (c : Com) (a : BitVec 8) (s : State) : Host.Outcome State Fault Refusal :=
  issue (.lkrel c a) (fun k s =>
    let l := k.s a
    match k.locketTrap l s with
    | some t => k.trap t s
    | none => k.done ((if lkNull l then s else s.lkrel k.G.part (lkIdx l)).commit k.g k.t)) s

/-- LOCKET_RESULT_WRITE (R393): a locket or status word reaches its register. -/
def execLocketResultWrite (s : State) : Host.Outcome State Fault Refusal :=
  .next (
    match s.lkres.find? fun r => r.id == s.cur.g with
    | none => s
    | some r =>
      if r.due > s.cycle then s
      else match r.val with
        | none => s
        | some v =>
          let e := s.entry r.part r.entry
          let fresh := r.lstat && e.st != .free && !e.proxy && e.genA == r.lgen && Config.freeBit (s.choice r.id)
          ({ s with lkres := s.lkres.filter fun q => q.id != r.id } : State).landScalar r.gang r.strand r.split r.gen r.reg
            (if fresh then statusWord r.entry e else v))

/-! ## Control registers (R160-R162, R398) -/

/-- cr.SID (R161). -/
def sidWord (G : Gang) (S : Strand) : DWord :=
  BitVec.ofNat 64 (S.gen.toNat * 2 ^ 48 + G.core % 2048 * 2 ^ 32 + (S.vblk - 1) % 16 * 2 ^ 24 + S.role % 4 * 2 ^ 8 + S.slot % 32)

/-- A control register's value for SYSRD; none for a number that names none. -/
def Ctx.sysread (k : Ctx) (n : Nat) : Option DWord :=
  if n = 0x00 then some (sidWord k.G k.S)
  else if n = 0x0A then some (BitVec.ofNat 64 (k.G.spUnit * 1024))
  else if n = 0x0B then some (BitVec.ofNat 64 k.now)
  else if n = 0x0C then some (BitVec.ofNat 64 (k.S.olc % 64))
  else if (1 ≤ n ∧ n ≤ 9) ∨ (0x10 ≤ n ∧ n ≤ 0x13) then some (k.cr n)
  else if 0x20 ≤ n ∧ n ≤ 0x2F then some (k.G.ovd.getD (n - 0x20) 0)
  else none

/-- What SYSWR makes of a writable register (R162): reserved bits read as zero, and a reserved code leaves its field. -/
def crWrite (n : Nat) (old x : DWord) : Option DWord :=
  if n = crCONTRACT then some (if x &&& 3 = 3 then old &&& 3 else x &&& 3)
  else if n = crRMODE then some ((x &&& 0x1F10) ||| (if (x &&& 7).toNat ≥ 5 then old &&& 7 else x &&& 7))
  else if n = crFSTAT then some (x &&& 0x71F)
  else if n = crDTBASE then some (x &&& 0xFFFFFFFFFFFFFFF8)
  else if n = crDTLEN then some (x &&& 0xFFFFFFFF)
  else if n = crCHK then some (x &&& 3)
  else if n = crLSCALE then some (x &&& 0xFF)
  else if n = crSPWT ∨ n = crEPC then some (x &&& 0xFFFF)
  else if n = crSRKEY then some x
  else none

def sysreg (n : BitVec 8) : Trap := { cause := cSYSREG, detail := n.zeroExtend 64 }

def execSysrd (c : Com) (d n : BitVec 8) (s : State) : Host.Outcome State Fault Refusal :=
  issue (.sysrd c d n) (fun k s =>
    match k.sysread n.toNat with
    | none => k.trap (sysreg n) s
    | some v => k.done (k.setS 2 d v s)) s

def execSyswr (c : Com) (a n : BitVec 8) (s : State) : Host.Outcome State Fault Refusal :=
  issue (.syswr c a n) (fun k s =>
    match (if n.toNat = crEPC ∧ k.S.eret.isNone then none else crWrite n.toNat ((s.split k.g k.t k.x).view.ctl n.toNat) (k.s a)) with
    | none => k.trap (sysreg n) s
    | some v => k.done ((s.setView k.g k.t k.x fun w => w.flyCtl k.chk k.now 2 n.toNat v).commit k.g k.t)) s

/-! ## ERET, FLTRD, CLASP -/

def execEret (c : Com) (s : State) : Host.Outcome State Fault Refusal :=
  issue (.eret c) (fun k s =>
    if k.S.eret.isNone then k.trap { cause := cILLEGAL, detail := 8 } s
    else (k.done s).eretReturn k.g k.t k.x (k.cr crEPC)) s

def execFltrd (c : Com) (d : BitVec 8) (w : BitVec 4) (s : State) : Host.Outcome State Fault Refusal :=
  issue (.fltrd c d w) (fun k s => k.done (k.setS 2 d (BitVec.ofNat 64 (ofLe (tblBytes k.S.image (8 * w.toNat) 8))) s)) s

/-- Triggers of one cycle as one (R17, R401). -/
def Trig.join (q r : Trig) : Trig :=
  { q with n := q.n + r.n, src := q.src ||| r.src, who := min q.who r.who, tag := if r.who < q.who then r.tag else q.tag }

/-- A clasp trigger is on its way to every block (R17, R401), with those of its own cycle. -/
def State.clasp (s : State) (who : Nat) (src tag : BitVec 16) : State :=
  let r : Trig := { at_ := s.cycle, n := 1, who := who, src := src, tag := tag }
  s.setPkg fun P =>
    match P.trig.getLast? with
    | some q => { P with trig := if q.at_ = s.cycle then P.trig.dropLast ++ [q.join r] else P.trig ++ [r] }
    | none => { P with trig := [r] }

def execClasp (c : Com) (tag : BitVec 16) (s : State) : Host.Outcome State Fault Refusal :=
  issue (.clasp c tag) (fun k s =>
    k.done ((s.clasp (k.G.core * 32 + k.S.slot) (Config.claspSource k.G.core) tag).commit k.g k.t)) s

end Sys2Proof.Machine
end

