-- ==== Sys2Proof/Machine/Package.lean ====
section
/-! DEFINITION. Machine/Package.lean: events of the package, its management processor and its hardware errors (R9-R11, R16, R17, R46, R54,
R55, R58, R110, R111, R223). -/

namespace Sys2Proof.Machine

open Sys2Proof

/-! ## Reset, fuses, the management processor -/

/-- Lifecycle codes (R58). -/
def lcsCode : Lcs → Byte
  | .manufacture => 1 | .provisioned => 2 | .deployed => 3 | .debug => 4 | .retired => 5

/-- A measurement slot extended with data (R55): the slot's bytes are hashed before the data's (DESIGN CHOICE, log entry 12). -/
def Sec.extend (c : Sec) (slot : Nat) (x : List Byte) : Sec :=
  { c with meas := c.meas.set slot (shake256 (c.meas.getD slot (List.replicate 64 0) ++ x) 64) }

/-- Appends to Limran's management log (R11, R15, R16, R223). -/
def State.logItem (s : State) (i : LogItem) : State := s.setPkg fun P => { P with log := P.log ++ [i] }

/-- COLD_RESET (R54): everything returns to its reset value but the fuses and the bytes of memory, whose keys are gone (R46). Outside events are still
to come, but for flits that had come and were held. -/
def State.coldReset (s : State) : State :=
  { State.reset with
    stepNo := s.stepNo, nextId := s.nextId,
    stim := s.stim.filter fun e => match e.ev with
      | .copyWriteData f => !(s.pkg.held.contains f)
      | _ => true
    mem := s.mem, ctxs := s.ctxs,
    sec := Sec.cold s.sec.seed s.sec.dbgHash s.sec.fused (lcsCode s.sec.fused) }

def execColdReset (s : State) : Host.Outcome State Fault Refusal := .next s.coldReset

/-- MP_WATCHDOG_RESET (R46): Limran stops; an open layout request stays as far as it has got. -/
def execMpWatchdogReset (s : State) : Host.Outcome State Fault Refusal := .next (s.setPkg fun P => { P with mpUp := false })

/-! ## Host attach, power, temperature (R9, R11, R16) -/

/-- UCIE_MODULE_TRAINING_FAILURE (R11). -/
def execUcieModuleTrainingFailure (m : Nat) (s : State) : Host.Outcome State Fault Refusal :=
  let s1 := s.setPkg fun P => { P with ucie0 := P.ucie0 && m % 2 != 0, ucie1 := P.ucie1 && m % 2 != 1 }
  .next (s1.logItem (if s1.pkg.ucie0 || s1.pkg.ucie1 then .ucieDegraded (m % 2) else .ucieDown))

def Clock.down : Clock → Clock
  | .ghz17 => .ghz15
  | _ => .ghz12

def Clock.up : Clock → Clock
  | .ghz12 => .ghz15
  | _ => .ghz17

/-- The clock after a sample, from the last ten (R16); `mw` is in milliwatts. -/
def Pkg.sample (P : Pkg) (mw : Nat) : Pkg :=
  let l := (P.power ++ [mw]).drop (P.power.length - 9)
  let sum := l.foldl (· + ·) 0
  let c :=
    if P.hot then .ghz12
    else if l.length < 10 then P.clock
    else if sum > 10 * 3200000 then P.clock.down
    else if sum < 10 * 3000000 then P.clock.up
    else P.clock
  { P with power := l, clock := c }

/-- POWER_SAMPLE (R9, R16). -/
def execPowerSample (mw : Nat) (s : State) : Host.Outcome State Fault Refusal := .next (s.setPkg fun P => P.sample mw)

/-- JUNCTION_TEMPERATURE_105 (R16): the temperature reaches 105 °C, or is below it again; the rule gives the hold no end, and the model ends it as soon as
the temperature is below (DESIGN CHOICE, log entry 36). -/
def execJunctionTemperature105 (above : Bool) (s : State) : Host.Outcome State Fault Refusal :=
  .next (s.setPkg fun P => { P with hot := above, clock := if above then .ghz12 else P.clock })

/-- THERMAL_TRIP (R16): while `trip` stands nothing moves but outside events, and only COLD_RESET ends it (DESIGN CHOICE, log entry 36). -/
def execThermalTrip (s : State) : Host.Outcome State Fault Refusal := .next ((s.setPkg fun P => { P with trip := true }).logItem .thermalTrip)

/-! ## Clasp (R17, R18) -/

/-- CLASP_TRIGGER (R17): from the MP or a debug event. -/
def execClaspTrigger (src tag : BitVec 16) (s : State) : Host.Outcome State Fault Refusal := .next (s.clasp 65536 src tag)

/-- Counts missed triggers (R17). -/
def satAdd16 (w : BitVec 16) (n : Nat) : BitVec 16 := BitVec.ofNat 16 (min (w.toNat + n) 0xFFFF)

/-- What every block holds now, as the snapshot registers latch it. -/
def State.view (s : State) (src tag : BitVec 16) : Snap :=
  { at_ := s.cycle, src := src, tag := tag, gangs := s.gangs, cores := s.cores, queues := s.queues, parts := s.parts, groups := s.groups,
    ckpts := s.ckpts, fns := s.fns, peers := s.peers, lkres := s.lkres, trans := s.trans,
    banks := s.mem.cells.filter fun c => decide (bankBase ≤ c.1), poison := s.mem.poison.filter fun a => decide (bankBase ≤ a) }

/-- SNAPSHOT_LATCH (R17, R401): the trigger of 24 cycles ago reaches every block, which latch if they are armed then. -/
def execSnapshotLatch (s : State) : Host.Outcome State Fault Refusal :=
  .next (s.setPkg fun P =>
    match P.trig with
    | [] => P
    | q :: r =>
      if s.cycle < q.at_ + 24 then P
      else if !P.armed then { P with trig := r, missed := satAdd16 P.missed q.n }
      else { P with trig := r, armed := false, snap := some (s.view q.src q.tag) })

/-- SNAPSHOT_REARM (R17). -/
def execSnapshotRearm (s : State) : Host.Outcome State Fault Refusal := .next (s.setPkg fun P => { P with armed := true })

/-! ## Hardware errors (R10, R110, R111, R223) -/

/-- Whether a gang holds resources of its core. -/
def Gang.resident (G : Gang) : Bool :=
  match G.phase with
  | .loading | .running | .suspended | .stopping .. | .saving | .checkpointing => true
  | _ => false

def State.residents (s : State) (c : Nat) : List Nat :=
  s.gangs.filterMap fun q => if q.2.resident && q.2.core == c then some q.1 else none

/-- UNCORRECTABLE_CORE_ERROR (R110): the lockets of all killed gangs are tarnished in one step (R71); then each writes its record and is
killed, the other gangs of their groups take GANGFAULT, and the core is quarantined. -/
def execUncorrectableCoreError (core : Nat) (s : State) : Host.Outcome State Fault Refusal :=
  if core ≥ Config.cores then .next s
  else
    let gs := s.residents core
    let p := ((gs.head?).map s.partOf).getD 0
    let s1 := if gs.isEmpty then s else s.tarnish p (gs.flatMap (s.issuedBy p)) tcHWERR
    let s2 := gs.foldl (fun a g =>
      let f := (a.gang g).firstStrand
      a.faultAll g [{ t := f.1, x := 0, pc := f.2, tr := { cause := cUCE } }] true tcHWERR) s1
    let hit : List (Nat × Nat) := gs.foldl (fun l g =>
      l ++ ((s.mates g).filter fun h => !(gs.contains h) && !(l.any fun q => q.1 == h)).map fun h => (h, (s.gang g).index)) []
    let s3 := hit.foldl (fun a h =>
      let f := (a.gang h.1).firstStrand
      a.faultAll h.1 [{ t := f.1, x := 0, pc := f.2, tr := { cause := cGANGFAULT, detail := BitVec.ofNat 64 h.2 } }] false tcFAULT) s2
    .next (s3.setCore core fun C => { C with quarantined := true, drain := none })

/-- POISON_ERROR (R10, R110): a sector of HBM or a line of a bank. -/
def execPoisonError (addr : Nat) (s : State) : Host.Outcome State Fault Refusal :=
  .next (if addr < hbmBytes ∨ (bankBase ≤ addr ∧ addr < bankBase + 2 ^ 29) then s.poisonAt addr else s)

/-- CORRECTABLE_ERROR (R111, R223): counted; the sixteenth of a weight slot within 2^24 cycles fences the slot. -/
def execCorrectableError (setting : Nat) (slot : Option (Nat × Nat)) (s : State) : Host.Outcome State Fault Refusal :=
  let s1 := s.setPkg fun P => { P with cecnt := P.cecnt.set setting (P.cecnt.getD setting 0 + 1) }
  match slot with
  | none => .next s1
  | some (c, w) =>
    let t := ((s.core c).slotErr.getD (w % 4) []).filter (fun at_ => decide (s.cycle < at_ + 2 ^ 24)) ++ [s.cycle]
    let s2 := s1.setCore c fun C => { C with slotErr := C.slotErr.set (w % 4) t }
    .next (if t.length < 16 ∨ (s.core c).fenced.getLsbD (w % 4) then s2
           else (s2.setCore c fun C => { C with fenced := C.fenced ||| BitVec.ofNat 4 (2 ^ (w % 4)) }).logItem (.slotFenced c (w % 4)))

/-- A core's state with its SRAM cleared; bank commands that it has issued run on (R137). -/
def Core.cleared (C : Core) : Core :=
  { Core.reset with quarantined := C.quarantined, failed := C.failed, fenced := C.fenced, slotErr := C.slotErr, gens := C.gens, bank := C.bank }

/-- QUARANTINED_CORE_TEST (R111): a core that passes is scrubbed and returns to service; one that fails stays as it is until cold reset. -/
def execQuarantinedCoreTest (core : Nat) (pass : Bool) (s : State) : Host.Outcome State Fault Refusal :=
  .next (
    if !(s.core core).quarantined || (s.core core).failed then s
    else if !pass then s.setCore core fun C => { C with failed := true }
    else
      let s1 := s.setCore core fun C => { C.cleared with quarantined := false }
      { s1 with mem := s1.mem.scrub fun a => decide (spAddr core 0 ≤ a ∧ a < spAddr core 0 + 2 ^ 18) })

/-- FENCED_SLOT_TEST (R223): a slot that passes returns to service. -/
def execFencedSlotTest (core slot : Nat) (pass : Bool) (s : State) : Host.Outcome State Fault Refusal :=
  .next (
    if pass then s.setCore core fun C =>
      { C with fenced := C.fenced &&& ~~~(BitVec.ofNat 4 (2 ^ (slot % 4))), slotErr := C.slotErr.erase (slot % 4) }
    else s)

end Sys2Proof.Machine
end

