-- ==== Sys2Proof/Machine/Queues.lean ====
section
/-! DEFINITION. Machine/Queues.lean: queues, notify registers and the mapper (R19-R26, R30). -/

namespace Sys2Proof.Machine

open Sys2Proof

/-- A function whose BARs take accesses (R49, R52): presented, bound, and in no function-level reset. -/
def State.barOpen (s : State) (f : Nat) : Bool := s.presented f && (s.fnPart f).isSome && (s.fn f).flr == .off

/-- PF0's package registers (R20, R44, R61, R100) are reached while PF0 is unbound too (DEDUCED, log entry 20). -/
def State.pf0Open (s : State) : Bool := s.presented 0 && (s.fn 0).flr == .off

/-- Whether a queue is a function's (R20). -/
def State.owns (s : State) (f q : Nat) : Bool := (s.queue q).valid && (s.queue q).func == f

/-- QASSIGN_WRITE (R20). -/
def execQassignWrite (q : Nat) (v : DWord) (s : State) : Host.Outcome State Fault Refusal :=
  let Q := s.queue q
  .next (
    if !s.pf0Open || decide (q ≥ Config.queues) || Q.en || Q.err then s
    else s.setQueue q fun Q => { Queue.reset with valid := v.getLsbD 7, func := field v.toNat 5 0, nextCmd := Q.nextCmd })

/-! ## Errors (R30) -/

/-- The error word. -/
def errorWord (tag : Word) (idx : Nat) (cause op : Byte) : DWord :=
  BitVec.ofNat 64 (tag.toNat * 2 ^ 32 + idx % 65536 * 2 ^ 16 + cause.toNat * 2 ^ 8 + op.toNat)

/-- Writes the error word, if it can be written, and raises VEC. -/
def State.tellError (s : State) (q : Nat) (w : DWord) : State :=
  let Q := s.queue q
  let s1 := match s.fnPart Q.func with
    | some p => s.tryWriteVa p Q.desc.errw.toNat (leBytes 8 w.toNat)
    | none => s
  s1.msix Q.func Q.desc.vec

/-- A command that has been taken and has not started: a LAUNCH at the walk, a FENCE (R28). -/
def Cmd.waits (c : Cmd) : Bool :=
  match c.kind with
  | .launch _ _ _ _ started => !started
  | .fence .. => true
  | _ => false

/-- The queue stops: commands that have not started are not carried out, and it enters ERROR. An error of a command that had started, in a queue that
has stopped already or is disabled, does the same again (DESIGN CHOICE, log entry 21). -/
def State.queueError (s : State) (q : Nat) (tag : Word) (idx : Nat) (cause op : Byte) : State :=
  (s.tellError q (errorWord tag idx cause op)).setQueue q fun Q => { Q with err := true, cmds := Q.cmds.filter fun c => !c.waits }

/-- R21: a waiting count above the ring's size. -/
def State.ringCheck (s : State) (q : Nat) : State :=
  let Q := s.queue q
  if Q.en && !Q.err && decide ((Q.pidx - Q.cidx).toNat > 2 ^ Q.desc.log2n) then s.queueError q 0 Q.cidx.toNat 0x0C 0 else s

/-! ## Enabling, disabling, reset (R22) -/

def qdescOf (l : List Byte) : QDesc :=
  { ring := BitVec.ofNat 64 (leAt l 0 8), log2n := leAt l 8 1, prio := leAt l 9 1, region := leAt l 10 2, vec := leAt l 12 2,
    ciwb := BitVec.ofNat 64 (leAt l 16 8), errw := BitVec.ofNat 64 (leAt l 24 8) }

/-- The first check that a descriptor fails. -/
def qdescBad (l : List Byte) : Option Byte :=
  let d := qdescOf l
  if leAt l 14 2 ≠ 0 ∨ leAt l 32 32 ≠ 0 then some 0x02
  else if d.ring.toNat % 4096 ≠ 0 ∨ d.ciwb.toNat % 8 ≠ 0 ∨ d.errw.toNat % 8 ≠ 0 then some 0x03
  else if d.log2n < 4 ∨ d.log2n > 16 ∨ d.prio > 15 ∨ d.vec > 255 then some 0x0E
  else none

/-- A descriptor error: the error word only to an aligned ERRW, VEC only in range. -/
def State.descError (s : State) (q : Nat) (cause : Byte) : State :=
  let Q := s.queue q
  let w := errorWord 0 Q.cidx.toNat cause 0
  let s1 := match s.fnPart Q.func with
    | some p => if Q.desc.errw.toNat % 8 = 0 then s.tryWriteVa p Q.desc.errw.toNat (leBytes 8 w.toNat) else s
    | none => s
  (if Q.desc.vec ≤ 255 then s1.msix Q.func Q.desc.vec else s1).setQueue q fun Q => { Q with err := true }

/-- EN goes from 0 to 1: the descriptor is read and checked. -/
def State.enableQueue (s : State) (f q : Nat) : State :=
  match s.fnPart f with
  | none => s
  | some p =>
    match s.readVa p ((s.fn f).qtbase.toNat + 64 * q) 64 with
    | .error _ => s.setQueue q fun Q => { Q with en := true, err := true }
    | .ok l =>
      let s1 := s.setQueue q fun Q => { Q with en := true, desc := qdescOf l }
      match qdescBad l with
      | some c => s1.descError q c
      | none => s1.ringCheck q

/-- QRESET forgets a command that failed after it had started, and the SIGNALs that wait behind it (DESIGN CHOICE, log entry 21). -/
def dropFailed : Bool → List Cmd → List Cmd
  | _, [] => []
  | b, c :: r =>
    match c.kind with
    | .failed => dropFailed true r
    | .signal .. => if b then dropFailed b r else c :: dropFailed b r
    | _ => c :: dropFailed b r

/-- A write of QCTL, EN judged as it stands before (R22). A queue that waits in a command stands at a command boundary (DEDUCED, log entry 21). -/
def State.writeQctl (s : State) (f q : Nat) (en reset : Bool) : State :=
  if !(s.barOpen f && s.owns f q) then s
  else
    let was := (s.queue q).en
    let s1 := if reset && !was then s.setQueue q fun Q => { Q with pidx := 0, cidx := 0, err := false, cmds := dropFailed false Q.cmds } else s
    if en && !was then s1.enableQueue f q
    else if !en && was then
      s1.setQueue q fun Q => { Q with en := false, bound := none, idle := none, stop := false, cmds := Q.cmds.filter fun c => !c.waits }
    else s1

/-- QUEUE_ENABLE: a write of EN alone; one of EN and QRESET together is a REGISTER_WRITE of QCTL. -/
def execQueueEnable (f q : Nat) (s : State) : Host.Outcome State Fault Refusal := .next (s.writeQctl f q true false)

def execQueueDisable (f q : Nat) (qreset : Bool) (s : State) : Host.Outcome State Fault Refusal := .next (s.writeQctl f q false qreset)

/-- QRESET: a write of QRESET that leaves EN as it is. -/
def execQreset (f q : Nat) (s : State) : Host.Outcome State Fault Refusal := .next (s.writeQctl f q (s.queue q).en true)

/-! ## Notify registers (R23, R24) -/

/-- A queue's idle count starts when it is bound and empty (R26 step 2). -/
def Queue.settleIdle (Q : Queue) (now : Nat) : Queue :=
  if Q.bound.isSome && Q.pidx == Q.cidx then { Q with idle := some (Q.idle.getD now) } else { Q with idle := none }

/-- NOTIFY_WRITE (R24): `off` is the offset in the queue's 64-byte block, whose bytes past the register are reserved. -/
def execNotifyWrite (f q : Nat) (v : DWord) (size off : Nat) (s : State) : Host.Outcome State Fault Refusal :=
  .next (
    if !s.barOpen f || decide (off ≥ 8) then s
    else if decide (off ≠ 0) || decide (size ≠ 8) || !(s.owns f q) then s.setFn f fun F => { F with dncnt := satInc F.dncnt }
    else ((s.setQueue q fun Q => { Q with pidx := low32 v }).ringCheck q).setQueue q fun Q => Q.settleIdle s.cycle)

/-! ## The mapper (R26) -/

/-- READY and not bound; a stopped queue is not served (R51). -/
def State.queueReady (s : State) (q : Nat) : Bool :=
  let Q := s.queue q
  Q.valid && Q.en && !Q.err && !Q.stop && Q.pidx != Q.cidx && Q.bound.isNone && (s.fnPart Q.func).isSome && (s.fn Q.func).flr == .off

def State.readyQueues (s : State) : List Nat := (s.queues.map Prod.fst).filter s.queueReady

def State.boundCount (s : State) : Nat := (s.queues.filter fun q => q.2.bound.isSome).length

/-- The queue that a free slot goes to: of the highest PRIO, the first after the one last bound at that priority. -/
def State.nextToBind (s : State) : Option Nat :=
  let rd := s.readyQueues
  let pr := fun q => (s.queue q).desc.prio
  let top := rd.foldl (fun a q => max a (pr q)) 0
  let l := rd.filter fun q => pr q == top
  match s.rr.get? top with
  | none => l.head?
  | some last => ((l.filter fun q => decide (q > last)).head?).or l.head?

/-- MAPPER_BIND (R26 step 1). -/
def execMapperBind (s : State) : Host.Outcome State Fault Refusal :=
  .next (
    if s.boundCount ≥ Config.activeSlots then s
    else match s.nextToBind with
      | none => s
      | some q =>
        { s.setQueue q fun Q => { Q with bound := some s.cycle, idle := none } with rr := s.rr.set (s.queue q).desc.prio q })

/-- SLOT_IDLE_FREE (R26 step 2). -/
def execSlotIdleFree (s : State) : Host.Outcome State Fault Refusal :=
  let q := s.cur.g
  .next (
    match (s.queue q).bound, (s.queue q).idle with
    | some _, some t => if s.cycle < t + 4096 then s else s.setQueue q fun Q => { Q with bound := none, idle := none }
    | _, _ => s)

/-- SLOT_BIND_LIMIT (R26 step 3); what the queue waits in is kept and goes on when it is bound again. -/
def execSlotBindLimit (s : State) : Host.Outcome State Fault Refusal :=
  let q := s.cur.g
  .next (
    match (s.queue q).bound with
    | some t =>
      if s.cycle < t + 65536 || !(s.readyQueues.any fun r => decide ((s.queue r).desc.prio ≥ (s.queue q).desc.prio)) then s
      else s.setQueue q fun Q => { Q with bound := none, idle := none }
    | none => s)

end Sys2Proof.Machine
end

