-- ==== Sys2Proof/Machine/Commands.lean ====
section
/-! DEFINITION. Machine/Commands.lean: the command front end (R27-R30), launch records and schedules (R31, R32, R238), region commands
(R34-R39), INVOKE (R75), SIGNAL, FENCE, CAPTURE and capture generations (R130, R131). -/

namespace Sys2Proof.Machine

open Sys2Proof

/-! ## Taking a slot (R21, R27, R30) -/

/-- Whether the front end may take a slot of a queue: it is bound and runs, nothing of it waits to start, and a slot is announced. -/
def State.mayTake (s : State) (q : Nat) : Bool :=
  let Q := s.queue q
  Q.bound.isSome && Q.en && !Q.err && !Q.stop && Q.pidx != Q.cidx && !(Q.cmds.any Cmd.waits) && (s.fn Q.func).flr == .off

/-- The slot at a queue's consumer index, if it can be read. -/
def State.slotAt (s : State) (p q : Nat) : Option (List Byte) :=
  let Q := s.queue q
  (s.readVa p (Q.desc.ring.toNat + 64 * (Q.cidx.toNat % 2 ^ Q.desc.log2n)) 64).toOption

/-- The OP at the head of a queue that may be taken. -/
def State.headOp (s : State) (q : Nat) : Option Nat :=
  if s.mayTake q then
    match s.fnPart (s.queue q).func with
    | none => none
    | some p => some (((s.slotAt p q).map fun l => leAt l 0 1).getD 0)
  else none

/-- Operand bytes of each command: offset and length. -/
def cmdBytes (op : Nat) : List (Nat × Nat) :=
  if op = 1 then [(8, 8), (16, 4), (20, 4)]
  else if op = 2 then [(8, 8), (16, 2), (18, 2)]
  else if op = 3 then [(8, 8), (16, 2)]
  else if op = 4 then [(16, 2)]
  else if op = 5 then [(8, 8), (16, 2), (18, 2), (20, 1), (24, 8), (32, 8), (40, 8)]
  else if op = 6 then [(8, 8), (16, 8)]
  else if op = 7 then [(8, 8), (16, 8), (24, 2)]
  else [(8, 8), (16, 8)]

def cmdFlags (op : Nat) : Nat := if op = 5 then 3 else if op = 7 ∨ op = 8 then 1 else 0

/-- Addresses and their alignment: offset, bytes, and the FLAGS bits that put the operand to use (0: always used). That an INVOKE's status address
without WAIT, and a FENCE's without MEMWAIT, need not be aligned is the model's (DESIGN CHOICE, log entry 21). -/
def cmdAligns (op : Nat) : List (Nat × Nat × Nat) :=
  if op = 1 then [(8, 256, 0)]
  else if op = 2 ∨ op = 3 then [(8, 512, 0)]
  else if op = 5 then [(8, 8, 0), (24, 8, 0), (32, 8, 1)]
  else if op = 6 then [(8, 4096, 0)]
  else if op = 7 then [(8, 8, 0)]
  else if op = 8 then [(8, 8, 1)]
  else []

/-- Operands and their ranges (R27, R49 for the vector): offset, bytes, least, greatest, FLAGS bits. -/
def cmdRanges (op : Nat) : List (Nat × Nat × Nat × Nat × Nat) :=
  if op = 1 then [(16, 4, 1, 2 ^ 24, 0)]
  else if op = 2 then [(18, 2, 1, 4095, 0)]
  else if op = 4 then [(16, 2, 1, 4095, 0)]
  else if op = 5 then [(20, 1, 0, 64, 0)]
  else if op = 7 then [(24, 2, 0, 255, 1)]
  else []

def flagUsed (l : List Byte) (m : Nat) : Bool := m == 0 || leAt l 1 1 &&& m != 0

/-- The first check of R27 that a slot of a listed OP fails. -/
def cmdBad (l : List Byte) : Option Byte :=
  let op := leAt l 0 1
  let used := fun i => decide (i < 2 ∨ (4 ≤ i ∧ i < 8)) || (cmdBytes op).any fun u => decide (u.1 ≤ i ∧ i < u.1 + u.2)
  if leAt l 1 1 &&& (255 - cmdFlags op) ≠ 0 || (List.range 64).any fun i => !(used i) && l.getD i 0 != 0 then some 0x02
  else if (cmdAligns op).any fun a => flagUsed l a.2.2 && leAt l a.1 8 % a.2.1 != 0 then some 0x03
  else if (cmdRanges op).any fun r => flagUsed l r.2.2.2.2 && (decide (leAt l r.1 r.2.1 < r.2.2.1) || decide (leAt l r.1 r.2.1 > r.2.2.2.1)) then
    some 0x0E
  else none

def slotTag (l : List Byte) : Word := BitVec.ofNat 32 (leAt l 4 4)

/-- The queue stops at the command at its consumer index (R30). -/
def State.stopAt (s : State) (q : Nat) (l : List Byte) (cause : Byte) : State :=
  s.queueError q (slotTag l) (s.queue q).cidx.toNat cause (l.getD 0 0)

/-- Takes a slot of the given OP: its checks, then CIWB, then the command's own effect. -/
def State.take (s : State) (q op : Nat) (go : Nat → List Byte → State) : State :=
  if s.headOp q ≠ some op then s
  else
    match s.fnPart (s.queue q).func with
    | none => s
    | some p =>
      match s.slotAt p q with
      | none => s
      | some l =>
        match cmdBad l with
        | some c => s.stopAt q l c
        | none =>
          match s.writeLeaves p (s.queue q).desc.ciwb.toNat 8 with
          | .error _ => s.stopAt q l 0x04
          | .ok _ => go p l

/-- A command starts: CIDX passes it and is written to CIWB (R21, R28); none where CIWB cannot be written. -/
def State.startCmd (s : State) (q : Nat) : Option State :=
  match s.fnPart (s.queue q).func with
  | none => none
  | some p =>
    match s.writeVa p (s.queue q).desc.ciwb.toNat (leBytes 8 ((s.queue q).cidx + 1).toNat) with
    | .error _ => none
    | .ok s1 => some (s1.setQueue q fun Q => { Q with cidx := Q.cidx + 1 }.settleIdle s.cycle)

/-- A command that starts at once goes on to its effect. -/
def State.startNow (s : State) (q : Nat) (l : List Byte) (go : State → State) : State :=
  match s.startCmd q with
  | none => s.stopAt q l 0x04
  | some s1 => go s1

/-- Enters a command that has been taken. -/
def State.enter (s : State) (q : Nat) (l : List Byte) (idx : Nat) (k : CmdKind) : State :=
  s.setQueue q fun Q =>
    { Q with cmds := Q.cmds ++ [{ id := Q.nextCmd, op := l.getD 0 0, idx := idx, tag := slotTag l, kind := k }], nextCmd := Q.nextCmd + 1 }

/-- A command that has started fails and never completes (R28, R29); its queue stops at it (R30). -/
def State.failCmd (s : State) (q : Nat) (c : Cmd) (cause : Byte) : State :=
  (s.setQueue q fun Q => { Q with cmds := Q.cmds.map fun d => if d.id = c.id then { d with kind := .failed } else d }).queueError q c.tag c.idx cause c.op

/-- A command completes (R29). -/
def State.completeCmd (s : State) (q id : Nat) : State := s.setQueue q fun Q => { Q with cmds := Q.cmds.filter fun c => c.id != id }

/-- OP_NOT_DEFINED (R27, R30): an OP that is not listed, or a slot that cannot be read, when no command was read. -/
def execOpNotDefined (s : State) : Host.Outcome State Fault Refusal :=
  let q := s.cur.g
  .next (
    if !(s.mayTake q) then s
    else
      match s.fnPart (s.queue q).func with
      | none => s
      | some p =>
        match s.slotAt p q with
        | none => s.queueError q 0 (s.queue q).cidx.toNat 0x04 0
        | some l => if 1 ≤ leAt l 0 1 ∧ leAt l 0 1 ≤ 8 then s else s.stopAt q l 0x01)

/-! ## Launch records (R31, R32) -/

def roleOf (l : List Byte) (k : Nat) : Role :=
  let o := 16 + 24 * k
  { ovl := BitVec.ofNat 64 (leAt l o 8), ovlLen := leAt l (o + 8) 4, entry := leAt l (o + 12) 2, strands := leAt l (o + 14) 1,
    vblk := leAt l (o + 15) 1, tiles := leAt l (o + 16) 1 }

def lrecOf (l : List Byte) : LRec :=
  { region := leAt l 0 2, roles := (List.range (min 3 (leAt l 2 1))).map (roleOf l), contract := leAt l 3 1, nbar := leAt l 4 1,
    wslots := leAt l 5 1, spad := leAt l 8 4, sched := [], dtbase := BitVec.ofNat 64 (leAt l 104 8),
    dtlen := BitVec.ofNat 32 (leAt l 112 4), recipe := BitVec.ofNat 64 (leAt l 120 8),
    args := (List.range 8).map fun i => BitVec.ofNat 64 (leAt l (128 + 8 * i) 8) }

def Role.bad (r : Role) : Bool :=
  r.ovl.toNat % 256 != 0 || r.ovlLen < 1 || r.ovlLen > 65536 || r.entry % 4 != 0 || r.entry ≥ r.ovlLen || r.strands < 1 || r.strands > 32 ||
    r.vblk < 1 || r.vblk > 16 || r.tiles > 16

/-- Whether a record is invalid (R32), but for the gang indices. -/
def lrecBad (l : List Byte) : Bool :=
  let n := leAt l 2 1
  let R := lrecOf l
  let sum := fun (f : Role → Nat) => R.roles.foldl (fun a r => a + f r) 0
  n < 1 || n > 3 || R.contract > 2 || R.nbar > 16 || R.wslots > 4 || R.spad % 1024 != 0 || R.spad > 262144 || leAt l 96 1 > 64 ||
    leAt l 88 8 % 64 != 0 || R.dtbase.toNat % 8 != 0 || R.recipe.toNat % 8 != 0 || R.roles.any Role.bad ||
    sum (fun r => r.strands) > 32 || sum (fun r => r.strands * r.tiles) > 16 ||
    (R.roles.any fun a => R.roles.any fun b => a.ovl == b.ovl && a.ovlLen != b.ovlLen) ||
    leAt l 6 2 != 0 || leAt l 12 4 != 0 || leAt l 97 7 != 0 || leAt l 116 4 != 0 || leAt l 192 64 != 0 ||
    (List.range 3).any fun k => leAt l (16 + 24 * k + 17) 7 != 0 || (k ≥ n && leAt l (16 + 24 * k) 24 != 0)

def schedOf (l : List Byte) : Sched :=
  { scope := leAt l 47 1, arrive := leAt l 46 1 ≥ 128, nb := leAt l 46 1 % 16, dsp := leAt l 45 1 / 16, ssp := leAt l 45 1 % 16,
    cpyt := leAt l 44 1 == 1, count := leAt l 42 2, period := leAt l 40 2, stage := leAt l 36 4, len := BitVec.ofNat 32 (leAt l 32 4),
    dstep := BitVec.ofNat 64 (leAt l 24 8), sstep := BitVec.ofNat 64 (leAt l 16 8), dst := BitVec.ofNat 64 (leAt l 8 8),
    src := BitVec.ofNat 64 (leAt l 0 8) }

/-- Whether a schedule entry fails its check (R238): its NB too, arriving or not; a KIND that is not defined fails it too (DEDUCED, log entry 22). -/
def schedBad (nbar : Nat) (l : List Byte) : Bool :=
  let e := schedOf l
  leAt l 48 16 != 0 || field (leAt l 46 1) 6 4 != 0 || e.dsp > 3 || e.ssp > 3 || e.scope > 5 || e.nb ≥ nbar || leAt l 44 1 > 1

/-- A launch record with its schedule, as read and checked once: the cause of R30 where it fails. The region is judged in between. -/
def State.readLaunch (s : State) (p va : Nat) (region : Nat → Option Byte) : Except Byte LRec :=
  match s.readVa p va 256 with
  | .error _ => .error 0x04
  | .ok l =>
    if lrecBad l then .error 0x05
    else
      let R := lrecOf l
      match region R.region with
      | some c => .error c
      | none =>
        let n := leAt l 96 1
        match s.readVa p (leAt l 88 8) (64 * n) with
        | .error _ => .error 0x04
        | .ok e =>
          let es := (List.range n).map fun i => sliceB e (64 * i) 64
          if es.any (schedBad R.nbar) then .error 0x05 else .ok { R with sched := es.map schedOf }

/-- A gang's demand on budgets (R39): gangs, blocks, scratchpad KiB, tiles, weight slots, lockets. -/
def LRec.demand (R : LRec) : List Nat :=
  [1, R.roles.foldl (fun a r => a + r.strands * r.vblk) 0, (R.spad + 1023) / 1024, R.roles.foldl (fun a r => a + r.strands * r.tiles) 0,
   R.wslots, 0]

/-- Whether a region is defined, and is a queue's REGION or below it (R30 cause 0x06). -/
def State.regionCause (s : State) (p q r : Nat) : Option Byte :=
  let rs := (s.part p).regions
  let top := (s.queue q).desc.region
  if (rs.get? top).isSome && (rs.get? r).isSome && (regionChain rs 8 r).any fun c => c.1 == top then none else some 0x06

/-- The next gang of a LAUNCH comes to the region walk. -/
def State.walkGang (s : State) (q id : Nat) (R : LRec) (index total : Nat) (p : Nat) : State :=
  let (g, s1) := s.newId
  { s1 with gangs := s1.gangs.set g { Gang.empty with part := p, fn := (s.queue q).func, queue := some q, cmd := id, region := R.region,
                                                      index := index, count := total, lrec := R } }

/-- LAUNCH (R28, R31): its record is read and checked, and its first gang comes to the walk. The gang indices are judged last (DESIGN CHOICE, log
entry 21). -/
def execLaunch (s : State) : Host.Outcome State Fault Refusal :=
  let q := s.cur.g
  .next (s.take q 1 fun p l =>
    let n := leAt l 16 4
    let first := leAt l 20 4
    match s.readLaunch p (leAt l 8 8) (s.regionCause p q) with
    | .error c => s.stopAt q l c
    | .ok R =>
      if first + n > 2 ^ 32 then s.stopAt q l 0x05
      else
        (s.enter q l (s.queue q).cidx.toNat (.launch R (first + 1) (n - 1) n false)).walkGang q (s.queue q).nextCmd R first n p)

/-! ## Regions (R34-R39) -/

def rcbOf (l : List Byte) : Rcb :=
  { ovr := BitVec.ofNat 64 (leAt l 0 8), prio := leAt l 8 1, flags := BitVec.ofNat 8 (leAt l 9 1 % 8), pmode := leAt l 10 1,
    ckptn := leAt l 12 2, setmask := BitVec.ofNat 16 (leAt l 14 2), tslice := leAt l 16 4, handler := BitVec.ofNat 64 (leAt l 24 8),
    hentry := BitVec.ofNat 16 (leAt l 32 2), hlen := leAt l 34 2, fring := BitVec.ofNat 64 (leAt l 40 8), frlog2 := leAt l 48 1,
    budgets := (List.range 6).map fun i => leAt l (64 + 4 * i) 4 }

/-- Every region's effective mask lies within its parent's (R36). -/
def masksOk (rs : Tbl Region) : Bool :=
  rs.all fun r => r.1 == 0 || (effRcb rs r.1).setmask &&& ~~~((effRcb rs r.2.parent).setmask) == 0

/-- REGION.CREATE (R34-R38). The order of its own checks, and that a parent under destruction takes it, are the model's (DESIGN CHOICE, log entry 21). -/
def execRegionCreate (s : State) : Host.Outcome State Fault Refusal :=
  let q := s.cur.g
  .next (s.take q 2 fun p l =>
    let up := leAt l 16 2
    let r := leAt l 18 2
    let rs := (s.part p).regions
    match s.regionCause p q up with
    | some c => s.stopAt q l c
    | none =>
      match s.readVa p (leAt l 8 8) 512 with
      | .error _ => s.stopAt q l 0x04
      | .ok b =>
        let depth := ((rs.get? up).map Region.depth).getD 0 + 1
        let rs1 := rs.set r (Region.make up depth (rcbOf b) (some (BitVec.ofNat 64 (leAt l 8 8))))
        if (rs.get? r).isSome then s.stopAt q l 0x09
        else if depth > 7 then s.stopAt q l 0x08
        else if !(masksOk rs1) then s.stopAt q l 0x0B
        else s.startNow q l fun s => s.setPart p fun P => { P with regions := rs1 })

/-- REGION.SET (R35, R36, R38): the RCB is read again; the root keeps every override bit and the partition's settings. -/
def execRegionSet (s : State) : Host.Outcome State Fault Refusal :=
  let q := s.cur.g
  .next (s.take q 3 fun p l =>
    let r := leAt l 16 2
    let rs := (s.part p).regions
    match s.regionCause p q r with
    | some c => s.stopAt q l c
    | none =>
      match s.readVa p (leAt l 8 8) 512 with
      | .error _ => s.stopAt q l 0x04
      | .ok b =>
        let c := if r = 0 then { rcbOf b with ovr := BitVec.allOnes 64 } else rcbOf b
        let rs1 := rs.modify r fun R => { R with rcb := c, image := some (BitVec.ofNat 64 (leAt l 8 8)) }
        if (r = 0 ∧ c.setmask ≠ setmaskOf (s.settings p)) ∨ !(masksOk rs1) then s.stopAt q l 0x0B
        else s.startNow q l fun s => s.setPart p fun P => { P with regions := rs1 })

/-- Gangs of a region that have passed the walk and have not exited. -/
def State.regionGangs (s : State) (p r : Nat) : List Nat :=
  s.gangs.filterMap fun g => if g.2.part == p && g.2.region == r && g.2.phase != .walk then some g.1 else none

/-- A destroyed region is defined no longer, once its last gang has exited and no child is defined any more; then its parent may go. Lockets that it
issued and that are still allocated go on counting at its ancestors (DESIGN CHOICE, log entry 23). -/
def State.forgetRegion (p : Nat) : Nat → Nat → State → State
  | 0, _, s => s
  | k + 1, r, s =>
    match (s.part p).regions.get? r with
    | none => s
    | some R =>
      if !R.destroying || !(s.regionGangs p r).isEmpty || (s.part p).regions.any fun c => c.1 != 0 && c.2.parent == r then s
      else State.forgetRegion p k R.parent (s.setPart p fun P =>
        { P with regions := Tbl.erase P.regions r,
                 lrt := P.lrt.map fun e => if !e.2.proxy && e.2.region == r then (e.1, { e.2 with region := R.parent }) else e })

/-- A destruction completes when the region's last gang has exited (R28, R29, R39), whatever children it has been given meanwhile. -/
def State.settleDestroy (s : State) (p r : Nat) : State :=
  match (s.part p).regions.get? r with
  | none => s
  | some R =>
    if !R.destroying || !(s.regionGangs p r).isEmpty then s
    else
      State.forgetRegion p 8 r
        { s with queues := s.queues.map fun q =>
            if s.fnPart q.2.func == some p then (q.1, { q.2 with cmds := q.2.cmds.filter fun c => c.kind != .destroy r }) else q }

/-- REGION.DESTROY (R28, R35, R39): no new admission from now on; marks of the region's waiting gangs are cleared (R79). -/
def execRegionDestroy (s : State) : Host.Outcome State Fault Refusal :=
  let q := s.cur.g
  .next (s.take q 4 fun p l =>
    let r := leAt l 16 2
    let rs := (s.part p).regions
    let already := ((rs.get? r).map Region.destroying).getD false
    match s.regionCause p q r with
    | some c => s.stopAt q l c
    | none =>
      if !already && rs.any fun c => c.1 != 0 && c.2.parent == r then s.stopAt q l 0x0A
      else s.startNow q l fun s1 =>
        let gs := s1.regionGangs p r
        let s2 := (s1.enter q l (s.queue q).cidx.toNat (.destroy r)).setPart p fun P =>
          { P with regions := P.regions.modify r fun R => { R with destroying := true } }
        ({ s2 with cores := s2.cores.map fun c =>
            if (c.2.drain.map fun g => gs.contains g).getD false then (c.1, { c.2 with drain := none }) else c } : State).settleDestroy p r)

/-- USAGE's bytes (R34). -/
def usageBytes (R : Region) : List Byte := (R.usage.flatMap fun n => leBytes 4 (min n 0xFFFFFFFF)) ++ leBytes 4 R.dropped.toNat

/-- USAGE_WRITEBACK (R38); one that cannot be written is dropped (DESIGN CHOICE, log entry 21). -/
def execUsageWriteback (s : State) : Host.Outcome State Fault Refusal :=
  let p := s.cur.g
  let r := s.cur.t
  .next (
    match (s.part p).regions.get? r with
    | none => s
    | some R =>
      match R.image with
      | none => s
      | some a =>
        if !R.dirty || s.cycle < R.wbAt then s
        else (s.tryWriteVa p (a.toNat + 256) (usageBytes R)).setPart p fun P =>
          { P with regions := P.regions.modify r fun R => { R with dirty := false, wbAt := s.cycle + 1024 } })

/-! ## INVOKE (R29, R75) -/

/-- The status word of a waiting INVOKE is written, and it completes. -/
def State.finishInvoke (s : State) (q : Nat) (c : Cmd) : State :=
  match c.kind with
  | .invoke va st _ _ =>
    if st = 0 then s
    else
      let s1 := match s.fnPart (s.queue q).func with
        | some p => s.tryWriteVa p va.toNat (leBytes 8 st.toNat)
        | none => s
      s1.completeCmd q c.id
  | _ => s

/-- The status of a locket just issued, 0 while it is neither resolved nor tarnished. -/
def State.issuedStatus (s : State) (p : Nat) (lk : DWord) (e : Option Nat) : DWord :=
  match e with
  | none => nullStatus lk
  | some i => if (s.entry p i).st = .resolved ∨ (s.entry p i).st = .tarnished then statusWord i (s.entry p i) else 0

/-- An INVOKE whose addressed locket is no locket of the queue's partition, or stale (R75). -/
def State.badTarget (s : State) (p : Nat) (lk : DWord) : Bool := lkPkg lk != s.pkg.pkgid || lkPart lk != p || s.stale p lk

/-- INVOKE: a waiting one whose locket has settled ends; else one is taken. With a full forwarding store it is not taken (R66). -/
def execInvoke (s : State) : Host.Outcome State Fault Refusal :=
  let q := s.cur.g
  .next (
    match (s.queue q).cmds.find? fun c => match c.kind with
      | .invoke _ st _ _ => st != 0
      | _ => false with
    | some c => s.finishInvoke q c
    | none =>
      s.take q 5 fun p l =>
        let wait := leAt l 1 1 % 2 == 1
        let addr := leAt l 1 1 / 2 % 2 == 1
        let lk := BitVec.ofNat 64 (leAt l 40 8)
        let region := (s.queue q).desc.region
        if ((s.part p).regions.get? region).isNone then s.stopAt q l 0x06
        else
          match s.readVa p (leAt l 24 8) (leAt l 20 1), s.writeLeaves p (leAt l 8 8) 8,
              (if wait then s.writeLeaves p (leAt l 32 8) 8 else .ok []) with
          | .ok args, .ok _, .ok _ =>
            if addr && s.badTarget p lk then s.stopAt q l 0x10
            else if addr && s.storeFull p then s
            else s.startNow q l fun s1 =>
              let id := (s.queue q).nextCmd
              let t : Target := if addr then .at_ lk else .to (field (leAt l 16 2) 11 0) (field (leAt l 16 2) 15 12)
              let r := s1.invoke { part := p, region := region, gang := none, queue := some (q, id) } t
                { fidx := leAt l 18 2, args := args, host := true }
              let s2 := r.2.2.tryWriteVa p (leAt l 8 8) (leBytes 8 r.1.toNat)
              if !wait then s2
              else s2.enter q l (s.queue q).cidx.toNat
                (.invoke (BitVec.ofNat 64 (leAt l 32 8)) (s2.issuedStatus p r.1 r.2.1) (r.2.1.getD 0)
                  ((r.2.1.map fun i => (s2.entry p i).genA).getD 0))
          | _, _, _ => s.stopAt q l 0x04)

/-! ## SIGNAL and FENCE (R28, R29) -/

/-- SIGNAL starts at once. -/
def execSignal (s : State) : Host.Outcome State Fault Refusal :=
  let q := s.cur.g
  .next (s.take q 7 fun _ l =>
    s.startNow q l fun s1 =>
      s1.enter q l (s.queue q).cidx.toNat
        (.signal (BitVec.ofNat 64 (leAt l 8 8)) (BitVec.ofNat 64 (leAt l 16 8)) (leAt l 1 1 % 2 == 1) (leAt l 24 2)))

/-- SIGNAL_WRITE: every earlier command has completed; a write that cannot be performed stops the queue at the SIGNAL. -/
def execSignalWrite (s : State) : Host.Outcome State Fault Refusal :=
  let q := s.cur.g
  .next (
    match (s.queue q).cmds, s.fnPart (s.queue q).func with
    | c :: _, some p =>
      (match c.kind with
       | .signal va value irq vec =>
         (match s.writeLeaves p va.toNat 8 with
          | .error _ => s.failCmd q c 0x04
          | .ok ls =>
            if ls.any fun x => s.uncaptured p x.1 then s.holdPage p va.toNat
            else
              let s1 := (s.tryWriteVa p va.toNat (leBytes 8 value.toNat)).completeCmd q c.id
              if irq then s1.msix (s.queue q).func vec else s1)
       | _ => s)
    | _, _ => s)

/-- FENCE releases the later commands of its queue: it starts and completes. -/
def State.releaseFence (s : State) (q : Nat) (c : Cmd) : State :=
  match s.startCmd q with
  | none => s.queueError q c.tag c.idx 0x04 c.op
  | some s1 => s1.completeCmd q c.id

/-- A FENCE at the head of its queue's open commands, in a bound queue. -/
def State.openFence (s : State) (q : Nat) : Option Cmd :=
  match (s.queue q).cmds with
  | c :: _ => (match c.kind with
    | .fence .. => if (s.queue q).bound.isSome && !(s.queue q).stop then some c else none
    | _ => none)
  | [] => none

/-- QUEUE_FENCE: one that waits for earlier commands alone is released when they have completed; else one is taken. -/
def execQueueFence (s : State) : Host.Outcome State Fault Refusal :=
  let q := s.cur.g
  .next (
    match s.openFence q with
    | some c => (match c.kind with
      | .fence false _ _ _ => s.releaseFence q c
      | _ => s)
    | none => s.take q 8 fun _ l =>
      s.enter q l (s.queue q).cidx.toNat
        (.fence (leAt l 1 1 % 2 == 1) (BitVec.ofNat 64 (leAt l 8 8)) (BitVec.ofNat 64 (leAt l 16 8)) s.cycle))

/-- FENCE_POLL (R28): the word is polled once the earlier commands have completed, and every 1,024 cycles. -/
def execFencePoll (s : State) : Host.Outcome State Fault Refusal :=
  let q := s.cur.g
  .next (
    match s.openFence q, s.fnPart (s.queue q).func with
    | some c, some p => (match c.kind with
      | .fence true va value due =>
        if s.cycle < due then s
        else
          (match s.readVa p va.toNat 8 with
           | .error _ => s.queueError q c.tag c.idx 0x04 c.op
           | .ok b =>
             if ofLe b ≥ value.toNat then s.releaseFence q c
             else s.setQueue q fun Q =>
               { Q with cmds := Q.cmds.map fun d => if d.id = c.id then { d with kind := .fence true va value (s.cycle + 1024) } else d })
      | _ => s)
    | _, _ => s)

/-! ## CAPTURE (R130, R131) -/

/-- The first leaf, in ascending VA, that satisfies `ok`, below a table of a level (R117). -/
def leafIn (m : Mem) (settings : List Nat) (ok : Leaf → Bool) : Nat → Nat → Nat → Nat → Option Leaf
  | 0, _, _, _ => none
  | k + 1, lv, tab, base =>
    if ¬ hbmOwned settings tab (tableBytes lv) then none
    else (List.range (tableBytes lv / 16)).findSome? fun i =>
      let slot := tab + 16 * i
      let e := ofLe (m.readN slot 16)
      let va := base + i * 2 ^ levelBits lv
      if e % 2 = 0 ∨ malformed lv e then none
      else if field e 2 2 = 1 then
        (let l : Leaf := { pte := e, bits := levelBits lv, slot := slot, va := va }
         if ok l then some l else none)
      else leafIn m settings ok k (lv + 1) (field e 56 8 * 256) va

/-- The lowest page that is still to be captured. -/
def State.nextUncaptured (s : State) (p : Nat) : Option Leaf :=
  if (s.part p).ptbase.toNat % 2 = 0 then none
  else leafIn s.mem (s.settings p) (s.uncaptured p) 4 0 (field (s.part p).ptbase.toNat 56 22 * 2 ^ 22) 0

/-- The 64 bytes of the header (R131). -/
def capHeader (status : Nat) (gen : Bool) (pages used : Nat) : List Byte :=
  leBytes 4 status ++ [if gen then 1 else 0, 0, 0, 0] ++ leBytes 8 pages ++ leBytes 8 used ++ leBytes 40 0

/-- Whether a capture area may be used: every page of it is mapped, writable and not tracked. -/
def State.areaOk (s : State) (p : Nat) (c : CapGen) : Bool :=
  match s.writeLeaves p c.area.toNat (max c.bytes 64) with
  | .error _ => false
  | .ok ls => ls.all fun x => !x.1.ctrk

/-- The generation closes, and its CAPTURE completes. -/
def State.closeCapture (s : State) (p : Nat) (c : CapGen) (status : Nat) : State :=
  ((s.tryWriteVa p c.area.toNat (capHeader status (s.part p).capG c.pages c.used)).setPart p fun P => { P with cap := none }).completeCmd
    c.queue c.cmd

/-- The capture instant of a generation whose area is good. A store that was issued before it and is performed before its page is copied is in the copy
(R130, R256; DEDUCED, log entry 23). -/
def State.openCapture (s : State) (p : Nat) (c : CapGen) : State :=
  let gen := !(s.part p).capG
  let s1 := (s.setPart p fun P => { P with capG := gen, cap := some c }).tryWriteVa p c.area.toNat (capHeader 1 gen 0 64)
  if (s1.nextUncaptured p).isNone then s1.closeCapture p c 2 else s1

/-- The header of an area that is no good. -/
def State.badArea (s : State) (p : Nat) (c : CapGen) : State := s.tryWriteVa p c.area.toNat (capHeader 4 (s.part p).capG 0 64)

/-- CAPTURE (R29, R130): where no generation is open its area is judged at once, and the queue stops at it or the generation opens; else it waits. -/
def execCapture (s : State) : Host.Outcome State Fault Refusal :=
  let q := s.cur.g
  .next (s.take q 6 fun p l =>
    let c : CapGen := { area := BitVec.ofNat 64 (leAt l 8 8), bytes := leAt l 16 8, used := 64, pages := 0, queue := q, cmd := (s.queue q).nextCmd,
                        first := none }
    let free := (s.part p).cap.isNone && (s.part p).capWait.isEmpty
    if free && !(s.areaOk p c) then (s.badArea p c).stopAt q l 0x0F
    else s.startNow q l fun s1 =>
      let s2 := s1.enter q l (s.queue q).cidx.toNat .capture
      if free then s2.openCapture p c else s2.setPart p fun P => { P with capWait := P.capWait ++ [c] })

/-- CAPTURE_START: a CAPTURE that waited begins its generation, or fails with status 4 and cause 0x0F. -/
def execCaptureStart (s : State) : Host.Outcome State Fault Refusal :=
  let p := s.cur.g
  let P := s.part p
  .next (
    match P.cap, P.capWait with
    | none, c :: rest =>
      let s1 := s.setPart p fun P => { P with capWait := rest }
      if s.areaOk p c then s1.openCapture p c
      else
        (match (s.queue c.queue).cmds.find? fun d => d.id == c.cmd with
         | some d => (s1.badArea p c).failCmd c.queue d 0x0F
         | none => s1.badArea p c)
    | _, _ => s)

/-- CGEN of a page becomes G in its entry, and cached copies of the entry go (R130 step 2). -/
def State.markCaptured (s : State) (p : Nat) (l : Leaf) : State :=
  let b := (s.mem.read (l.slot + 12)).toNat
  let b1 := b - b / 2 % 2 * 2 + (if (s.part p).capG then 2 else 0)
  (s.putNat (l.slot + 12) 1 b1).setPart p fun P => { P with tlb := P.tlb.filter fun e => e.slot != l.slot }

/-- After an overflow every page left is marked without being copied (R131). -/
def State.markRest (p : Nat) : Nat → State → State
  | 0, s => s
  | k + 1, s =>
    match s.nextUncaptured p with
    | none => s
    | some l => State.markRest p k (s.markCaptured p l)

def sizeCode (bits : Nat) : Nat := if bits = 30 then 2 else if bits = 21 then 1 else 0

/-- Whether the capture engine may read the whole of a page (R119): its target and permissions are judged for every 64 KiB of it. That it reaches pool
and remote pages as the copy engine does is the model's (R12, R130; DESIGN CHOICE, log entry 23). -/
def State.mayCapture (s : State) (p : Nat) (l : Leaf) : Bool :=
  (List.range (l.pageBytes / 65536)).all fun i =>
    let piece : Leaf := { l with va := l.va - l.off + 65536 * i }
    (checkTarget (s.settings p) .copy false false piece).isNone && targetAnswers piece

/-- CAPTURE_PAGE_COPY: the page a write waits for, else the lowest, is copied and marked; the last one closes the generation. A page that cannot be read
whole is marked and not copied (DESIGN CHOICE, log entry 21). -/
def execCapturePageCopy (s : State) : Host.Outcome State Fault Refusal :=
  let p := s.cur.g
  .next (
    match (s.part p).cap with
    | none => s
    | some c =>
      let held := c.first.bind fun va => match s.walk p va.toNat with
        | .ok l => if s.uncaptured p l then some { l with va := va.toNat - va.toNat % 2 ^ l.bits } else none
        | .error _ => none
      match held.or (s.nextUncaptured p) with
      | none => s.closeCapture p c 2
      | some l =>
        let n := l.pageBytes
        if !(s.mayCapture p l) then
          let s1 := s.markCaptured p l
          if (s1.nextUncaptured p).isNone then s1.closeCapture p c 2 else s1
        else if c.used + 16 + n > c.bytes then (State.markRest p (2 ^ 41) s).closeCapture p c 3
        else
          let rec_ := leBytes 8 l.va ++ [BitVec.ofNat 8 (sizeCode l.bits)] ++ leBytes 7 0
          let s1 := (s.tryWriteVa p (c.area.toNat + c.used) (rec_ ++ s.bytesAt p { l with va := l.va - l.off } n)).markCaptured p l
          let c1 := { c with used := c.used + 16 + n, pages := c.pages + 1, first := none }
          let s2 := (s1.setPart p fun P => { P with cap := some c1 }).tryWriteVa p c.area.toNat (capHeader 1 (s.part p).capG c1.pages c1.used)
          if (s2.nextUncaptured p).isNone then s2.closeCapture p c1 2 else s2)

end Sys2Proof.Machine
end

