-- ==== Sys2Proof/Machine/Control.lean ====
section
/-! DEFINITION. Machine/Control.lean: control flow (R297-R312), dispatch tables and spawning (R84, R300, R310), division and rejoin
(R87, R157, R302-R304). -/

namespace Sys2Proof.Machine

open Sys2Proof

/-! ## ILL, NOP and uniform branches (R298, R299) -/

def execIll (c : Com) (s : State) : Host.Outcome State Fault Refusal := issue (.ill c) (fun k => k.trap { cause := cILLEGAL }) s
def execNop (c : Com) (s : State) : Host.Outcome State Fault Refusal := issue (.nop c) (fun k => k.done) s

/-- The trap of a word that is no instruction (R266). -/
def badTrap (w : BadWord) : Trap :=
  match w with
  | .unassigned => { cause := cILLEGAL, detail := 1 }
  | .future => { cause := cFUTURE }
  | .length => { cause := cLENGTH }

def execUnassignedMajor (w : BadWord) (s : State) : Host.Outcome State Fault Refusal :=
  issue (.unassignedMajor w) (fun k => k.trap (badTrap w)) s

def execBra (c : Com) (off : BitVec 16) (s : State) : Host.Outcome State Fault Refusal :=
  issue (.bra c off) (fun k => k.goto (branchTarget k.pc off)) s

def execBrc (c : Com) (cond : Cond) (a : BitVec 8) (off : BitVec 16) (s : State) : Host.Outcome State Fault Refusal :=
  issue (.brc c cond a off) (fun k => if condInt cond (k.s a).toInt 0 then k.goto (branchTarget k.pc off) else k.done) s

/-- WriteS of a link register (R297). -/
def Ctx.link (k : Ctx) (d : BitVec 8) (s : State) : State := k.setS 2 d (k.next.zeroExtend 64) s

def execCall (c : Com) (d : BitVec 8) (off : BitVec 16) (s : State) : Host.Outcome State Fault Refusal :=
  issue (.call c d off) (fun k s => k.goto (branchTarget k.pc off) (k.link d s)) s

def execRet (c : Com) (a : BitVec 8) (s : State) : Host.Outcome State Fault Refusal :=
  issue (.ret c a) (fun k =>
    let t : BitVec 16 := (k.s a).truncate 16
    if t.toNat % 4 ≠ 0 then k.trap { cause := cDISPATCH, detail := 4 } else k.goto t) s

/-! ## Dispatch (R84, R300) -/

/-- A dispatch table entry as read (R84). -/
structure DEntry where
  target : BitVec 16
  sp     : Bool
  vblk   : Nat
deriving DecidableEq, Repr

def dEntryOf (x : Nat) : DEntry := { target := BitVec.ofNat 16 x, sp := field x 16 16 == 1, vblk := field x 23 20 + 1 }

/-- A nonzero reserved bit, or a TARGET that is not a multiple of 4 (R300 step 4). -/
def dEntryBad (x : Nat) : Bool := field x 63 24 != 0 || field x 19 17 != 0 || x % 4 != 0

def Ctx.entryVa (k : Ctx) (idx : Nat) : DWord := k.cr crDTBASE + BitVec.ofNat 64 (8 * idx)

/-- R300's checks over the active lanes, in their order: the entry of each lane, or the trap of the first check that fails. -/
def Ctx.dispatch (k : Ctx) (spawn : Bool) (a : Src) (s : State) : Except Trap (List (Nat × Nat × DEntry) × List Acc) :=
  let idx := fun i => (k.v a i).toNat
  let len := field (k.cr crDTLEN).toNat 31 0
  let fail := fun (sub : Nat) (bad : List Nat) =>
    ({ cause := cDISPATCH, detail := BitVec.ofNat 64 sub, addr := k.entryVa (idx (bad.headD 0)), lanes := setOfLanes bad } : Trap)
  match k.lanes.filter fun i => decide (idx i ≥ len) with
  | b :: r => .error (fail 1 (b :: r))
  | [] =>
    match s.checkAll k.G .g .n64 (.scattered false) false true 8 unstrided (k.lanes.map fun i => (i, k.entryVa (idx i))) with
    | .error t => .error t
    | .ok accs =>
      let poisoned := accs.filter fun x => s.mem.poisoned x.pa 8
      match poisoned with
      | x :: _ =>
        .error { cause := cPOISON, addr := x.addr - BitVec.ofNat 64 (x.addr.toNat % 32), lanes := setOfLanes (poisoned.map Acc.lane) }
      | [] =>
        let es := accs.map fun x => (x.lane, idx x.lane, s.readNat k.g k.t k.x false x.pa 8)
        match (if spawn then es.filter fun e => !(dEntryOf e.2.2).sp else []) with
        | b :: r => .error (fail 2 ((b :: r).map Prod.fst))
        | [] =>
          match es.filter fun e => dEntryBad e.2.2 with
          | b :: r => .error (fail 3 ((b :: r).map Prod.fst))
          | [] => .ok (es.map fun e => (e.1, e.2.1, dEntryOf e.2.2), accs)

def execJmpx (c : Com) (a : Src) (s : State) : Host.Outcome State Fault Refusal :=
  issue (.jmpx c a) (fun k s =>
    if k.act = 0 then k.done s
    else match k.dispatch false a s with
      | .error t => k.trap t s
      | .ok (es, accs) =>
        let s1 := (s.noteAccs k.G.part accs).orderBefore k false 8 accs
        match distinct (es.map fun e => e.2.1), es with
        | [_], e :: _ => k.goto e.2.2.target s1
        | _, _ => k.trap { cause := cILLEGAL, detail := 0x0A } s1) s

/-! ## Division (R157, R302, R303) -/

/-- The view a new split receives: registers as they stand, no write of the dividing split still to come (R157; DEDUCED, log entry 17). -/
def View.fork (v : View) : View := { v with written := [], busy := [], pend := [] }

/-- The lowest-numbered split entry that is FREE or EXITED (R302). -/
def Strand.freeSplit (S : Strand) : Option Nat :=
  firstFrom (fun x => !(S.splits.getD x Split.none).st.live) 4 0

/-- Splits off lanes into a new split at a PC. -/
def Ctx.splitOff (k : Ctx) (mask : Word) (pc : BitVec 16) (s : State) : State :=
  s.setStrand k.g k.t fun S =>
    match S.freeSplit with
    | none => S
    | some e =>
      let X := S.splits.getD k.x Split.none
      { S.share k.x [e] with splits := S.splits.set e { Split.none with st := .run, pc := pc, mask := mask, view := X.view.fork,
                                                                        readyAt := k.now + 1 + k.stall } }

/-- The dividing split keeps these lanes and goes on at a PC. -/
def Ctx.keep (k : Ctx) (mask : Word) (pc : BitVec 16) (s : State) : State :=
  k.goto pc (s.setSplit k.g k.t k.x fun X => { X with mask := mask, view := { X.view with written := [] } })

def execVbr (c : Com) (a : Src) (off : BitVec 16) (s : State) : Host.Outcome State Fault Refusal :=
  issue (.vbr c a off) (fun k s =>
    let tk := laneSet fun i => k.on i && k.v a i != 0
    if tk = 0 then k.done s
    else if tk = k.act then k.goto (branchTarget k.pc off) s
    else if k.S.liveSplits.length > 1 then k.trap { cause := cILLEGAL, detail := 0x0A } s
    else k.keep (k.X.mask &&& ~~~tk) k.next (k.splitOff tk (branchTarget k.pc off) s)) s

/-- CALLX's division among the ascending distinct indices of the active lanes (R302). -/
def Ctx.callDivide (k : Ctx) (round : Bool) (es : List (Nat × Nat × DEntry)) (xs : List Nat) (s : State) : State :=
  let lanesAt := fun x => setOfLanes ((es.filter fun e => e.2.1 == x).map Prod.fst)
  let pcAt := fun x => ((es.find? fun e => e.2.1 == x).map fun e => e.2.2.target).getD 0
  let here := xs.headD 0
  let s1 := ((xs.take 4).drop 1).foldl (fun a x => k.splitOff (lanesAt x) (pcAt x) a) s
  let s2 := k.keep (lanesAt here ||| (k.X.mask &&& ~~~k.act)) (pcAt here) s1
  let defer := (xs.drop 4).foldl (fun a x => a ||| lanesAt x) (0 : Word)
  s2.setStrand k.g k.t fun S =>
    if round then { S with disp := S.disp.map fun d => { d with defer := defer } }
    else if xs.length > 4 then { S with disp := some { cpc := k.pc, defer := defer, held := 0 } }
    else S

def execCallx (c : Com) (d : BitVec 8) (a : Src) (s : State) : Host.Outcome State Fault Refusal :=
  issue (.callx c d a) (fun k s =>
    if k.act = 0 then k.done s
    else match k.dispatch false a s with
      | .error t => k.trap t s
      | .ok (es, accs) =>
        let s1 := (s.noteAccs k.G.part accs).orderBefore k false 8 accs
        let xs := distinct (es.map fun e => e.2.1)
        if xs.length ≤ 1 then k.goto (((es.head?).map fun e => e.2.2.target).getD 0) (k.link d s1)
        else
          let round := match k.S.disp with
            | some r => r.cpc == k.pc
            | none => false
          if k.S.liveSplits.length > 1 || (k.S.disp.isSome && !round) then k.trap { cause := cILLEGAL, detail := 0x0A } s1
          else k.callDivide round es xs (k.link d s1)) s

/-! ## JOIN and EXIT (R87, R88, R304, R308) -/

/-- R157: the merged view. `vs` are the merging splits' views in ascending order; cr.FSTAT is ORed, and every other register comes from the
highest that wrote it. -/
def mergeViews (vs : List View) : View :=
  match vs with
  | [] => View.empty
  | v0 :: r =>
    let last := fun k => (vs.filter fun v => v.written.contains k).getLast?
    let keys := vs.flatMap View.written
    let m := keys.foldl (fun (a : View) k =>
      match last k with
      | none => a
      | some v =>
        if k < 256 then
          { a with s := a.s.set k (v.s.getD k 0), marks := match v.marks.get? k with
                                                   | some x => a.marks.set k x
                                                   | none => a.marks.erase k }
        else if k = crKey crFSTAT then a
        else { a with cr := a.cr.set (k - 256) (v.ctl (k - 256)) }) v0
    { m with cr := m.cr.set crFSTAT (r.foldl (fun a v => a ||| v.ctl crFSTAT) (v0.ctl crFSTAT)), written := [], pend := vs.flatMap View.pend }

/-- Whether a write that the splits of a strand issued has still to land (R157, R323). -/
def Strand.pendingWrites (S : Strand) (now : Nat) : Bool :=
  !S.vbusy.isEmpty || (S.vfly.any fun f => decide (f.lands > now)) ||
    S.liveSplits.any fun x =>
      let v := (S.splits.getD x Split.none).view
      !v.busy.isEmpty || v.fly.any fun f => decide (f.lands > now)

/-- What comes of a strand whose live splits are all in JOIN. -/
inductive Rejoin where
  | merged (S : Strand)
  | nesting (lanes : Word)
  | deadlock
deriving DecidableEq, Repr

/-- R304 and R88 for splits in JOIN, the lowest of them first. -/
def Strand.rejoin (S : Strand) (ready : Nat) : Rejoin :=
  let live := S.liveSplits
  let X := fun x => S.splits.getD x Split.none
  match live with
  | [] => .deadlock
  | lo :: _ =>
    let j := (X lo).pc
    if live.any fun x => (X x).pc ≠ j then .deadlock
    else
      let mask := live.foldl (fun a x => a ||| (X x).mask) (0 : Word)
      let next := j + 8#16
      let base : Split := { X lo with st := .run, mask := mask, view := mergeViews (live.map fun x => (X x).view), pc := next,
                                      readyAt := live.foldl (fun a x => max a (X x).readyAt) ready }
      let others := S.splits.map fun q => if live.contains q.1 && q.1 != lo then (q.1, Split.none) else q
      let eret := S.eret.map fun e => if live.contains e.split then { e with split := lo } else e
      let go := fun (S : Strand) (X : Split) => ({ S.unite (live.filter (· != lo)) lo with splits := Tbl.set others lo X, eret := eret } : Strand)
      match S.disp with
      | none => .merged (go S base)
      | some d =>
        if j ≠ d.cpc + 8#16 then .merged (go S base)
        else if d.defer ≠ 0 then
          (let up := (lanesOf mask).filter fun i => !(bit S.vacant i) && !(bit d.held i)
           let bad := up.filter fun i => S.counters.getD i 0 = 255
           if bad ≠ [] then .nesting (setOfLanes bad)
           else
             let S1 : Strand := { S with counters := up.foldl (fun a i => a.set i (a.getD i 0 + 1)) S.counters,
                                         disp := some { d with defer := 0, held := d.held ||| setOfLanes up } }
             .merged (go S1 { base with mask := mask ||| d.defer, pc := d.cpc }))
        else
          let S1 : Strand := { S with counters := (lanesOf d.held).foldl (fun a i => a.set i (a.getD i 0 - 1)) S.counters, disp := none }
          .merged (go S1 base)

def execJoin (c : Com) (s : State) : Host.Outcome State Fault Refusal :=
  issue (.join c) (fun k s =>
    let others := k.S.liveSplits.filter (· != k.x)
    let inJoin := fun x => (k.S.splits.getD x Split.none).st == .join
    let S1 : Strand := { k.S with splits := k.S.splits.modify k.x fun X => { X with st := .join, readyAt := k.now + 1 + k.stall, yld := k.yld } }
    if !(others.all inJoin) then s.setStrand k.g k.t fun _ => S1
    else
      match S1.rejoin (k.now + 1 + k.stall) with
      | .deadlock => k.trap { cause := cREJOIN, all := true } s
      | .nesting l => k.trap { cause := cNESTING, lanes := l } s
      | .merged S2 => if k.S.pendingWrites k.now then s else s.setStrand k.g k.t fun _ => S2) s

/-- Nothing that is still to come of a split that has left reaches the entry again. -/
def State.disown (s : State) (g t x : Nat) : State :=
  let c := (s.gang g).core
  let s1 := s.setCore c fun C =>
    { C with landing := C.landing.map fun l => if l.gang == g && l.strand == t && l.split == x then { l with split := 4 } else l,
             copies := C.copies.map fun l => if l.gang == g && l.strand == t && l.split == x then { l with split := 4 } else l,
             bank := C.bank.map fun l => if l.gang == g && l.strand == t && l.split == x then { l with split := 4 } else l }
  { s1 with lkres := s1.lkres.map fun l => if l.gang == g && l.strand == t && l.split == x then { l with split := 4 } else l }

def execExit (c : Com) (s : State) : Host.Outcome State Fault Refusal :=
  issue (.exit c) (fun k s =>
    let S1 : Strand := { k.S.leave k.x with splits := k.S.splits.modify k.x fun X => { X with st := .exited, view := View.empty, todo := none },
                                             eret := match k.S.eret with
                                               | some e => if e.split = k.x then none else some e
                                               | none => none }
    let s1 := (s.disown k.g k.t k.x).setStrand k.g k.t fun _ => S1
    match S1.liveSplits with
    | [] => s1.exitStrand k.g k.t
    | lo :: _ =>
      if !(S1.liveSplits.all fun x => (S1.splits.getD x Split.none).st == .join) then s1
      else if S1.pendingWrites k.now then s
      else
        let pc := (S1.splits.getD lo Split.none).pc
        match S1.rejoin k.now with
        | .deadlock => s1.raise k.g k.t lo pc (pc + 8#16) { cause := cREJOIN, all := true }
        | .nesting l => s1.raise k.g k.t lo pc (pc + 8#16) { cause := cNESTING, lanes := l }
        | .merged S2 => s1.setStrand k.g k.t fun _ => S2) s

/-! ## Nesting counters (R155, R305-R307) -/

/-- Lanes of the split's mask that are not vacant. -/
def Ctx.held (k : Ctx) : List Nat := (lanesOf k.X.mask).filter fun i => !(bit k.S.vacant i)

def Ctx.count (k : Ctx) (i : Nat) : Nat := (k.S.counters.getD i 0).toNat

/-- Gives lanes of the mask new counters. -/
def Ctx.recount (k : Ctx) (f : Nat → Nat) (s : State) : State :=
  s.setStrand k.g k.t fun S => { S with counters := k.held.foldl (fun a i => a.set i (BitVec.ofNat 8 (f i))) S.counters }

/-- c(lane): the test of the operand, inverted by INV (R305). -/
def Ctx.cond (k : Ctx) (inv : Bool) (a : Src) (i : Nat) : Bool := (k.v a i != 0) != inv

def execVif (c : Com) (inv : Bool) (a : Src) (s : State) : Host.Outcome State Fault Refusal :=
  issue (.vif c inv a) (fun k s =>
    let bad := k.held.filter fun i => k.count i == 255
    if bad ≠ [] then k.trap { cause := cNESTING, lanes := setOfLanes bad } s
    else k.done (k.recount (fun i => if k.count i ≥ 1 then k.count i + 1 else if k.cond inv a i then 0 else 1) s)) s

def execVelse (c : Com) (s : State) : Host.Outcome State Fault Refusal :=
  issue (.velse c) (fun k s =>
    k.done (k.recount (fun i => if k.count i = 0 then 1 else if k.count i = 1 then 0 else k.count i) s)) s

def execVendif (c : Com) (s : State) : Host.Outcome State Fault Refusal :=
  issue (.vendif c) (fun k s => k.done (k.recount (fun i => k.count i - 1) s)) s

def execVloop (c : Com) (s : State) : Host.Outcome State Fault Refusal :=
  issue (.vloop c) (fun k s =>
    let bad := k.held.filter fun i => decide (k.count i ≥ 254)
    if bad ≠ [] then k.trap { cause := cNESTING, lanes := setOfLanes bad } s
    else k.done (k.recount (fun i => if k.count i ≥ 1 then k.count i + 2 else 0) s)) s

def execVbreak (c : Com) (inv : Bool) (a : Src) (s : State) : Host.Outcome State Fault Refusal :=
  issue (.vbreak c inv a) (fun k s => k.done (k.recount (fun i => if k.on i && k.cond inv a i then 2 else k.count i) s)) s

def execVcont (c : Com) (inv : Bool) (a : Src) (s : State) : Host.Outcome State Fault Refusal :=
  issue (.vcont c inv a) (fun k s => k.done (k.recount (fun i => if k.on i && k.cond inv a i then 1 else k.count i) s)) s

/-- VENDL's counters before it leaves (R306): continued lanes rejoin, then the lanes that end their loop leave it. -/
def Ctx.endlCount (k : Ctx) (inv : Bool) (a : Src) (i : Nat) : Nat :=
  if k.count i ≤ 1 then (if k.cond inv a i then 0 else 2) else k.count i

def execVendl (c : Com) (inv : Bool) (a : Src) (off : BitVec 16) (s : State) : Host.Outcome State Fault Refusal :=
  issue (.vendl c inv a off) (fun k s =>
    if k.held.any fun i => k.endlCount inv a i == 0 then k.goto (branchTarget k.pc off) (k.recount (k.endlCount inv a) s)
    else k.done (k.recount (fun i => k.endlCount inv a i - 2) s)) s

/-! ## FLASH (R93, R309) -/

def runRegs (r : Run) : List Nat := (List.range r.count.toNat).map (r.first.toNat + ·)

/-- A copy as it is issued again (R98). -/
def Copy.anew (c : Copy) : Copy :=
  { c with st := .queued, moved := 0, recs := none, idxs := [], rem := [], image := [], latch := [], valid := c.want, bad := if c.bad = some 3 then c.bad else none,
           kind := match c.kind with
             | .lkget l _ => .lkget l none
             | k => k }

/-- Whether a rewind keeps a copy of a strand, to issue it again: it was issued before the FLASH (R93), or by the static schedule (R95,
R239). -/
def Strand.keeps (S : Strand) (c : Copy) : Bool :=
  c.sched.isSome || match S.flash with
    | some f => f.copies.contains c.id
    | none => false

/-- Withdraws a strand's arrivals at a phase that is still incomplete (R96). -/
def Bar.withdraw (b : Bar) (who : Nat) : Bar :=
  { b with arr := b.arr - (b.who.filter (· == who)).length, who := b.who.filter (· != who) }

def startSplit (pc : BitVec 16) (v : View) : Split := { Split.none with st := .run, pc := pc, mask := BitVec.allOnes 32, view := v }

/-- Whether a strand's flash state has a scalar register among its live-ins. -/
def Strand.livesIn (S : Strand) (r : Nat) : Bool := match S.flash with
  | some f => f.sset.contains r
  | none => false

/-- A rewound strand: what R96 keeps of it, its live-ins and control registers (R98; DEDUCED, log entry 26), at its FLASH or its initial point; its fault
image and its plan read as zero (R382, R400). `tokens` are live-ins that bank commands have still to write (R403). -/
def Strand.atPoint (S : Strand) (tokens : List Nat) : Strand :=
  let X := S.splits.getD (S.liveSplits.headD 0) Split.none
  let S1 : Strand := { S with
    counters := (lanesOf S.vacant).foldl (fun (a : Tbl Byte) i => a.set i 1) [], vbusy := [], vfly := [], disp := none, olc := 0, eret := none,
    image := [], recipe := none, tregs := [], graph := [], forces := [], plan := none, committed := false, atFlash := true }
  match S.flash with
  | none => { S1 with v := S.initV, vmarks := [], splits := [(0, startSplit S.initPc S.initView)] }
  | some f =>
    { S1 with v := S.v.filter fun q => f.vset.contains (q.1 / 32), vmarks := S.vmarks.filter fun q => f.vset.contains q.1,
              splits := [(0, startSplit f.pc { X.view.landed with s := X.view.s.filter fun q => f.sset.contains q.1, written := [], busy := tokens,
                                                                  marks := X.view.marks.filter fun q => f.sset.contains q.1 })] }

/-- A rewound strand's bank command, which runs on (R137): its token is written only to a live-in (R98, R403). -/
def BankWork.rewound (S : Strand) (w : BankWork) : BankWork := { w with split := 0, token := if S.livesIn w.token then w.token else 0 }

/-- Rewinds a strand to its FLASH (R96 step 1). -/
def State.rewind (s : State) (g t : Nat) : State :=
  let G := s.gang g
  let S := s.strand g t
  let mine := fun (c : Copy) => c.gang == g && c.strand == t && c.gen == S.gen
  let ours := fun (w : BankWork) => w.gang == g && w.strand == t && w.gen == S.gen
  let kept := (s.core G.core).copies.filter fun c => mine c && S.keeps c
  let tokens := ((s.core G.core).bank.filter fun w => ours w && S.livesIn w.token).map BankWork.token
  let s0 := s.drain g t fun _ => true
  let s1 := (s0.cancelCopies G.core fun c => mine c && !(S.keeps c)).setCore G.core fun C =>
    { C.dropForces (fun f => f.gang == g && f.strand == t) with
      copies := C.copies.filter fun c => !(mine c), landing := C.landing.filter fun l => !(l.gang == g && l.strand == t),
      bank := C.bank.map fun w => if ours w then w.rewound S else w }
  let s2 := { s1 with
    lkres := s1.lkres.filter fun r => !(r.gang == g && r.strand == t),
    groups := s1.groups.map fun (k : Nat × Group) =>
      if some k.1 = G.group then (k.1, { k.2 with bars := k.2.bars.map fun (b : Nat × Bar) => (b.1, b.2.withdraw (32 * g + t)) }) else k }
  s2.setGang g fun G =>
    { G with rewound := G.rewound ++ kept.map Copy.anew, lapAt := G.lapAt.filter (· != t), bars := G.bars.map fun (b : Nat × Bar) => (b.1, b.2.withdraw t),
             strands := G.strands.modify t fun S => S.atPoint (distinct tokens) }

/-- Scheduled copies of a stopping gang that are no strand's any more, for its CSTAGE has exited or they were due at placement, are recorded as
restartable too (R240). -/
def State.sweepSched (s : State) (g : Nat) : State :=
  let G := s.gang g
  let orphan := fun (c : Copy) => c.gang == g && c.sched.isSome && !(match G.strands.get? c.strand with
    | some S => !S.exited && c.gen == S.gen
    | none => false)
  let kept := (s.core G.core).copies.filter orphan
  (s.setCore G.core fun C => { C with copies := C.copies.filter fun c => !(orphan c) }).setGang g fun G => { G with rewound := G.rewound ++ kept.map Copy.anew }

/-- Copies of a strand whose token is not yet written (R93). -/
def State.openCopies (s : State) (g t : Nat) : List Nat :=
  ((s.core (s.gang g).core).copies.filter fun c => c.gang == g && c.strand == t).map Copy.id

def execFlash (c : Com) (f : FlashSet) (s : State) : Host.Outcome State Fault Refusal :=
  issue (.flash c f) (fun k s =>
    if k.S.eret.isSome || !k.S.converged || !k.S.graph.isEmpty then k.trap { cause := cFLASHSTATE } s
    else
      let st : Flash := { pc := k.pc, next := k.next, vset := distinct (runRegs f.v0 ++ runRegs f.v1),
                          sset := distinct (runRegs f.s0 ++ runRegs f.s1), recipe := f.recipe.toNat, copies := s.openCopies k.g k.t }
      let s1 := k.done (s.setStrand k.g k.t fun S => { S with flash := some st, committed := false, recipe := none })
      match k.G.phase with
      | .stopping .. => s1.rewind k.g k.t
      | _ => s1) s

/-! ## SPAWN (R84, R310) -/

/-- Deposits one thread; none where its lane has to wait (R84 step 2), with the state in which it waits. -/
def State.deposit (s : State) (k : Ctx) (th : Thread) : Option State × State :=
  let C := s.core k.G.core
  let cr : Tbl DWord := [crCONTRACT, crDTBASE, crDTLEN, crSPWT].map fun n => (n, k.cr n)
  match C.bins.find? fun b => b.2.gang == k.g && b.2.entry == th.idx with
  | some (n, b) =>
    if b.threads.length ≥ 32 then (none, s)
    else
      let full := decide (b.threads.length + 1 ≥ 32)
      let b1 : Bin := { b with threads := b.threads ++ [th.args], by_ := if b.by_.contains (k.t, k.x) then b.by_ else b.by_ ++ [(k.t, k.x)], due := b.due || full, fullAt := if full then some s.cycle else b.fullAt }
      (some (s.setCore k.G.core fun C => { C with bins := C.bins.set n b1 }), s)
  | none =>
    match firstFrom (fun n => (C.bins.get? n).isNone) 8 0 with
    | some n =>
      let b : Bin := { gang := k.g, entry := th.idx, target := th.target, vblk := th.vblk, threads := [th.args], first := s.cycle,
                       spwt := field (k.cr crSPWT).toNat 15 0, due := false, by_ := [(k.t, k.x)], fullAt := none, cr := cr }
      (some (s.setCore k.G.core fun C => { C with bins := C.bins.set n b }), s)
    | none =>
      let oldest := C.bins.foldl (fun (a : Option (Nat × Bin)) b => match a with
        | none => some b
        | some x => if b.2.first < x.2.first then some b else some x) none
      match oldest with
      | some (n, _) => (none, s.setCore k.G.core fun C => { C with bins := C.bins.modify n fun b => { b with due := true } })
      | none => (none, s)

/-- Deposits threads in order until one has to wait: what is left, and the state. -/
def State.deposits (k : Ctx) : List Thread → State → List Thread × State
  | [], s => ([], s)
  | th :: r, s =>
    match s.deposit k th with
    | (some s', _) => State.deposits k r s'
    | (none, s') => (th :: r, s')

/-- A bin when a SPAWN completes: with a timer of 0 it is due if that SPAWN put threads in it (R84 step 3). -/
def Bin.spawned (b : Bin) (g t x : Nat) : Bin :=
  if b.gang = g ∧ b.by_.contains (t, x) then { b with due := b.due || b.spwt == 0, by_ := b.by_.filter (· != (t, x)) } else b

/-- A SPAWN deposits what it can, and completes when nothing is left. -/
def Ctx.spawnOn (k : Ctx) (ths : List Thread) (s : State) : State :=
  match State.deposits k ths s with
  | ([], s1) =>
    let s2 := s1.setCore k.G.core fun C => { C with bins := C.bins.map fun b => (b.1, b.2.spawned k.g k.t k.x) }
    k.done (s2.setSplit k.g k.t k.x fun X => { X with todo := none })
  | (rest, s1) => s1.setSplit k.g k.t k.x fun X => { X with todo := some rest }

def execSpawn (c : Com) (a : Src) (b : BitVec 8) (s : State) : Host.Outcome State Fault Refusal :=
  issue (.spawn c a b) (fun k s =>
    match k.X.todo with
    | some rest => k.spawnOn rest s
    | none =>
      if k.act = 0 then k.done (s.commit k.g k.t)
      else match k.dispatch true a s with
        | .error t => k.trap t s
        | .ok (es, accs) =>
          let ths := es.map fun e => ({ idx := e.2.1, target := e.2.2.target, vblk := e.2.2.vblk,
                                        args := (List.range 4).map fun j => k.S.lane (b.toNat + j) e.1 } : Thread)
          k.spawnOn ths (((s.noteAccs k.G.part accs).orderBefore k false 8 accs).commit k.g k.t)) s

/-! ## OVLCALL, TRAP and BKPT (R171, R311, R312) -/

/-- The lowest valid directory entry with an overlay ID (R171). -/
def Gang.overlay (G : Gang) (id : Nat) : Option DWord :=
  ((List.range 16).map fun n => G.ovd.getD n 0).find? fun w => field w.toNat 63 63 == 1 && field w.toNat 47 32 == id

def execOvlcall (c : Com) (d : BitVec 8) (id woff : BitVec 16) (s : State) : Host.Outcome State Fault Refusal :=
  issue (.ovlcall c d id woff) (fun k s =>
    match k.G.overlay id.toNat with
    | none => k.trap { cause := cOVLMISS, val := id.zeroExtend 64 } s
    | some w =>
      if 4 * woff.toNat ≥ 256 * field w.toNat 8 0 then k.trap { cause := cDISPATCH, detail := 5 } s
      else k.goto (BitVec.ofNat 16 (field w.toNat 31 16 + 4 * woff.toNat)) (k.link d s)) s

/-- A resumable trap of an instruction that completes (R105 step 1): its stall count stands. -/
def Ctx.trapDone (k : Ctx) (tr : Trap) (s : State) : State :=
  k.trap tr (s.setSplit k.g k.t k.x fun X => { X with readyAt := k.now + 1 + k.stall, yld := k.yld })

def execTrap (c : Com) (imm : BitVec 16) (s : State) : Host.Outcome State Fault Refusal :=
  issue (.trap c imm) (fun k => k.trapDone { cause := cSWTRAP, val := imm.zeroExtend 64 }) s
def execBkpt (c : Com) (imm : BitVec 16) (s : State) : Host.Outcome State Fault Refusal :=
  issue (.bkpt c imm) (fun k => k.trapDone { cause := cBREAK, val := imm.zeroExtend 64 }) s

end Sys2Proof.Machine
end

