-- ==== Sys2Proof/Machine/Engines.lean ====
section
/-! DEFINITION. Machine/Engines.lean: what returns to a core's landing buffer (R165, R166). -/

namespace Sys2Proof.Machine

open Sys2Proof

/-- LOAD_RETURN (R165): an entry whose value has come is written to its registers. -/
def execLoadReturn (s : State) : Host.Outcome State Fault Refusal :=
  .next (
    match (s.core s.cur.g).landing.find? fun L => L.id == s.cur.t && L.wait.isNone with
    | some L => s.landReturn s.cur.g L
    | none => s)

end Sys2Proof.Machine
end

