-- ==== Sys2Proof/Machine/Placement.lean ====
section
/-! DEFINITION. Machine/Placement.lean: the region walk, the placer, drain-to-fit, slices (R76-R82, R101, R404), the start of a gang (R33,
R106, R170, R171), translation (R176), instruction memory (R173), spawn bins (R84), exit (R85, R29). -/

namespace Sys2Proof.Machine

open Sys2Proof

/-! ## What a core has free (R77, R101) -/

/-- What is taken of a core: strand slots, blocks, scratchpad units, tiles, weight slots (fenced ones too, R223), barriers. -/
structure Occ where
  slots  : List Nat
  blocks : List Nat
  units  : List Nat
  tiles  : List Nat
  wslots : List Nat
  bars   : List Nat
deriving DecidableEq, Repr

/-- What a gang needs of a core: blocks of each strand in order, scratchpad units, tiles, weight slots, barriers. -/
structure Need where
  strands : List Nat
  units   : Nat
  tiles   : Nat
  wslots  : Nat
  bars    : Nat
deriving DecidableEq, Repr

/-- Where it goes: slots and first blocks of the strands in order, first scratchpad unit, tiles, weight slots, barriers, and the part of the core. -/
structure Fit where
  slots  : List Nat
  bases  : List Nat
  unit   : Nat
  tiles  : List Nat
  wslots : List Nat
  bars   : List Nat
  part   : Nat
deriving DecidableEq, Repr

def spanOf (a n : Nat) : List Nat := (List.range n).map (a + ·)

/-- Resources that gangs of a core hold, besides the gangs of `skip`; a gang holds them from its placement until it has exited (R76, R85). -/
def State.occ (s : State) (c : Nat) (skip : List Nat) : Occ :=
  let gs := (s.gangs.filter fun q => q.2.charged && q.2.core == c && !(skip.contains q.1)).map Prod.snd
  let ts := gs.flatMap fun G => (G.strands.filter fun t => !t.2.freed).map Prod.snd
  { slots := ts.map Strand.slot, blocks := ts.flatMap fun t => spanOf t.vbase t.vblk,
    units := gs.flatMap fun G => spanOf G.spUnit (G.lrec.spad / 1024), tiles := gs.flatMap Gang.tiles,
    wslots := (gs.flatMap Gang.wslots) ++ (List.range 4).filter fun w => (s.core c).fenced.getLsbD w, bars := gs.flatMap Gang.bars0 }

/-- The first run of `n` free numbers in [lo, hi). -/
def firstRun (used : List Nat) (lo hi n : Nat) : Option Nat :=
  firstFrom (fun b => (List.range n).all fun i => !(used.contains (b + i))) (hi + 1 - lo - n) lo

/-- The lowest `n` free numbers in [lo, hi). -/
def takeFree (used : List Nat) (lo hi n : Nat) : Option (List Nat) :=
  let l := (spanOf lo (hi - lo)).filter fun i => !(used.contains i)
  if l.length < n then none else some (l.take n)

/-- First-fit of the strands' blocks, in order. -/
def fitBlocks (lo hi : Nat) : List Nat → List Nat → Option (List Nat)
  | _, [] => some []
  | used, n :: r =>
    match firstRun used lo hi n with
    | none => none
    | some b => (fitBlocks lo hi (used ++ spanOf b n) r).map fun l => b :: l

/-- Part 0 is the whole core, 1 its lower half, 2 its upper half (R101): the bounds of a resource of `n`. -/
def partLo (part n : Nat) : Nat := if part = 2 then n / 2 else 0
def partHi (part n : Nat) : Nat := if part = 1 then n / 2 else n

/-- Whether and where a need fits. -/
def fitPart (o : Occ) (d : Need) (part : Nat) : Option Fit := do
  let slots ← takeFree o.slots (partLo part 32) (partHi part 32) d.strands.length
  let bases ← fitBlocks (partLo part 128) (partHi part 128) o.blocks d.strands
  let unit ← firstRun o.units (partLo part 256) (partHi part 256) d.units
  let tiles ← takeFree o.tiles (partLo part 16) (partHi part 16) d.tiles
  let wslots ← takeFree o.wslots (partLo part 4) (partHi part 4) d.wslots
  let bars ← takeFree o.bars (partLo part 64) (partHi part 64) d.bars
  pure { slots := slots, bases := bases, unit := unit, tiles := tiles, wslots := wslots, bars := bars, part := part }

/-- Parts a gang may lie in on a setting (R100, R101). -/
def State.partsOf (s : State) (setting : Nat) : List Nat := if s.pkg.half.getLsbD setting then [1, 2] else [0]

def State.fitOcc (s : State) (c : Nat) (o : Occ) (d : Need) : Option Fit :=
  if (s.core c).quarantined then none else (s.partsOf (settingOfCore c)).findSome? (fitPart o d)

def Occ.add (o : Occ) (d : Need) (f : Fit) : Occ :=
  { slots := o.slots ++ f.slots, blocks := o.blocks ++ (f.bases.zip d.strands).flatMap fun q => spanOf q.1 q.2,
    units := o.units ++ spanOf f.unit d.units, tiles := o.tiles ++ f.tiles, wslots := o.wslots ++ f.wslots, bars := o.bars ++ f.bars }

/-- A gang's strands that have not exited, in role order and then strand order (R77). -/
def Gang.staying (G : Gang) : List Strand :=
  sortBy (fun S => 64 * S.role + S.idx) ((G.strands.filter fun t => !t.2.exited).map Prod.snd)

/-- Strands a gang brings to a core: those of its record, or when it is resumed those that have not exited. -/
def Gang.bring (G : Gang) : List Nat :=
  if G.fresh then G.lrec.roles.flatMap fun r => List.replicate r.strands r.vblk else G.staying.map Strand.vblk

def Gang.need (G : Gang) : Need :=
  { strands := G.bring, units := G.lrec.spad / 1024, tiles := G.lrec.demand.getD 3 0, wslots := G.lrec.wslots, bars := G.lrec.nbar }

/-- Charged to budgets at placement (R39, R84): what it brings, spawned strands included. -/
def Gang.demandNow (G : Gang) : List Nat := [1, G.bring.foldl (· + ·) 0] ++ G.lrec.demand.drop 2

def Need.blocks (d : Need) : Nat := d.strands.foldl (· + ·) 0

/-! ## Choosing a core (R78, R79, R404) -/

/-- A gang's settings: those of the partition in its region's effective mask. -/
def State.regionSettings (s : State) (g : Nat) : List Nat :=
  let G := s.gang g
  let m := (effRcb (s.part G.part).regions G.region).setmask
  (s.settings G.part).filter m.getLsbD

/-- Those that are not scrub-pending (R45). -/
def State.gangSettings (s : State) (g : Nat) : List Nat := (s.regionSettings g).filter fun k => !(s.pkg.scrub.getLsbD k)

/-- Numbers of a list after `last`, then the rest (R78). -/
def rotate (l : List Nat) (last : Nat) : List Nat := (l.filter fun k => decide (k > last)) ++ l.filter fun k => decide (k ≤ last)

/-- Whether a core's draining mark allows a gang there (R79); a gang that is placed in the same cycle has lost its mark. -/
def State.markAllows (s : State) (c g : Nat) (o : Occ) (d : Need) (f : Fit) (placed : List Nat) : Bool :=
  match (s.core c).drain with
  | none => true
  | some m =>
    m == g || placed.contains m || (decide (d.blocks ≥ (s.gang m).need.blocks) && (s.fitOcc c (o.add d f) (s.gang m).need).isSome)

def State.gangsOn (s : State) (c : Nat) : Nat := (s.gangs.filter fun q => q.2.charged && q.2.core == c).length

/-- Of some cores, the one with the fewest gangs that takes a gang, the lowest on a tie; `occ` gives each core's occupancy and its gangs, `placed` the
gangs placed in the same cycle. -/
def State.bestCore (s : State) (g : Nat) (cs : List Nat) (occ : Nat → Occ × Nat) (placed : List Nat) : Option (Nat × Fit) :=
  let d := (s.gang g).need
  let ok := cs.filterMap fun c =>
    match s.fitOcc c (occ c).1 d with
    | some f => if s.markAllows c g (occ c).1 d f placed then some (c, f) else none
    | none => none
  ok.foldl (fun (a : Option (Nat × Fit)) q => match a with
    | none => some q
    | some b => if (occ q.1).2 < (occ b.1).2 then some q else a) none

/-- Where a gang of its own goes now. -/
def State.planOne (s : State) (g : Nat) : Option (Nat × Fit) :=
  let G := s.gang g
  let occ := fun c => (s.occ c [], s.gangsOn c)
  let marked := (s.cores.find? fun c => c.2.drain == some g && (s.gangSettings g).contains (settingOfCore c.1)).map Prod.fst
  let first := marked.bind fun c => (s.fitOcc c (occ c).1 G.need).map fun f => (c, f)
  let last := (((s.part G.part).regions.get? G.region).map Region.lastSet).getD 15
  first.or ((rotate (s.gangSettings g) last).findSome? fun k => s.bestCore g (spanOf (128 * k) 128) occ [])

/-- Places the gangs of a group in order on the cores of one cluster. -/
def State.planIn (s : State) (cl : Nat) : List Nat → (Nat → Occ × Nat) → List (Nat × Nat × Fit) → Option (List (Nat × Nat × Fit))
  | [], _, acc => some acc
  | g :: r, occ, acc =>
    match s.bestCore g (spanOf (32 * cl) 32) occ (acc.map Prod.fst) with
    | none => none
    | some (c, f) =>
      State.planIn s cl r (fun k => if k = c then ((occ k).1.add (s.gang g).need f, (occ k).2 + 1) else occ k) (acc ++ [(g, c, f)])

/-- Gangs that wait at the placer. -/
def Gang.waiting (G : Gang) : Bool := G.phase == .placer || G.phase == .saved

/-- The unit in which a gang is placed: its co-schedule group, or itself (R81). -/
def State.unitOf (s : State) (g : Nat) : List Nat :=
  let G := s.gang g
  match G.group with
  | some k => if G.flags.getLsbD 1 then (s.group k).gangs else [g]
  | none => [g]

/-- Inserts a gang by its index. -/
def insertIdx (s : State) (g : Nat) : List Nat → List Nat
  | [] => [g]
  | h :: r => if (s.gang g).index < (s.gang h).index then g :: h :: r else h :: insertIdx s g r

def State.byIndex (s : State) (l : List Nat) : List Nat := l.foldl (fun a g => insertIdx s g a) []

/-- The members of a unit that are to be placed, in ascending index; none while one of them has still to come to the placer or to exit. -/
def State.unitReady (s : State) (g : Nat) : Option (List Nat) :=
  let u := s.unitOf g
  let G := s.gang g
  let more := match G.queue with
    | some q => if G.flags.getLsbD 1 && G.fresh then
        ((s.queue q).cmds.any fun c => c.id == G.cmd && (match c.kind with | .launch _ _ left _ _ => left != 0 | _ => false)) ||
          s.gangs.any fun h => h.2.queue == some q && h.2.cmd == G.cmd && h.2.phase == .walk
      else false
    | none => false
  if more || u.any fun h => !((s.gang h).waiting || (s.gang h).phase == .dead) then none
  else some (s.byIndex (u.filter fun h => (s.gang h).waiting))

/-- A placement of the unit of a gang that fits now, budgets included (R76). -/
def State.plan (s : State) (g : Nat) : Option (List (Nat × Nat × Fit)) :=
  match s.unitReady g with
  | none => none
  | some [] => none
  | some (h :: r) =>
    let u := h :: r
    let G := s.gang g
    let rs := (s.part G.part).regions
    let sum := u.foldl (fun a k => (a.zip (s.gang k).demandNow).map fun q => q.1 + q.2) [0, 0, 0, 0, 0, 0]
    if !(withinBudgets rs G.region sum false) then none
    else if G.flags.getLsbD 1 then
      let cls := (s.gangSettings g).flatMap fun k => spanOf (4 * k) 4
      let last := ((rs.get? G.region).map Region.lastClus).getD 63
      (rotate cls last).findSome? fun cl => s.planIn cl u (fun c => (s.occ c [], s.gangsOn c)) []
    else (s.planOne g).map fun q => [(g, q.1, q.2)]

/-- The placer's order (R78): priority, then arrival. -/
def State.before (s : State) (h g : Nat) : Bool :=
  let pr := fun k => (effRcb (s.part (s.gang k).part).regions (s.gang k).region).prio
  decide (pr h > pr g ∨ (pr h = pr g ∧ (s.gang h).arrival < (s.gang g).arrival))

/-- Gangs of one queue keep their order (R28, R78). -/
def State.queueBlocks (s : State) (h g : Nat) : Bool :=
  (s.gang h).queue.isSome && (s.gang h).queue == (s.gang g).queue && decide ((s.gang h).arrival < (s.gang g).arrival) &&
    !((s.unitOf g).contains h)

/-- A queue that a context save has stopped has no gang placed (R51). -/
def State.mayServe (s : State) (g : Nat) : Bool :=
  match (s.gang g).queue with
  | some q => !(s.queue q).stop
  | none => true

/-- A gang that the placer may serve: no waiting gang of its queue stands before it. -/
def State.servable (s : State) (g : Nat) : Bool := s.mayServe g && s.gangs.all fun k => !(k.2.waiting && s.queueBlocks k.1 g)

/-- Whether it is a gang's turn: no gang that comes before it and may be served could be placed now. -/
def State.turn (s : State) (g : Nat) : Bool :=
  s.servable g && s.gangs.all fun h =>
    !(h.2.waiting) || (s.unitOf g).contains h.1 || !(s.before h.1 g) || !(s.servable h.1) || (s.plan h.1).isNone

/-! ## The region walk (R39, R76) -/

/-- How many gangs of a need one empty core takes. -/
def capacity (d : Need) (part : Nat) : Nat → Occ → Nat
  | 0, _ => 0
  | k + 1, o => match fitPart o d part with
    | none => 0
    | some f => 1 + capacity d part k (o.add d f)

/-- A demand that no core or cluster of a gang's settings could take even empty (R81, R101, R404), its quarantined cores apart (R77): only of half-file
settings and groups. -/
def State.neverFits (s : State) (g total : Nat) (cosched : Bool) : Bool :=
  let d := (s.gang g).need
  let none_ : Occ := { slots := [], blocks := [], units := [], tiles := [], wslots := [], bars := [] }
  let ks := s.regionSettings g
  let cap := fun k => (s.partsOf k).foldl (fun a h => a + capacity d h 32 none_) 0
  let serving := fun cl => 32 - ((s.cores.filter fun c => clusterOfCore c.1 == cl && c.2.quarantined).length)
  if cosched then ks.all fun k => (spanOf (4 * k) 4).all fun cl => decide (serving cl * cap k < total)
  else !ks.isEmpty && (ks.all fun k => s.pkg.half.getLsbD k) && ks.all fun k => cap k == 0

/-- What the walk says of a gang: the cause that stops it, that it waits, or that it passes. -/
inductive Walk where
  | stop (cause : Byte)
  | wait
  | pass
deriving DecidableEq, Repr

def State.walkOf (s : State) (g : Nat) : Walk :=
  let G := s.gang g
  let rs := (s.part G.part).regions
  match rs.get? G.region with
  | none => .stop 0x0D
  | some R =>
    if R.destroying then .stop 0x0D
    else if !(withinBudgets rs G.region G.lrec.demand true) then .stop 0x07
    else if s.neverFits g G.count ((effRcb rs G.region).flags.getLsbD 1) then .stop 0x07
    else if withinBudgets rs G.region G.lrec.demand false then .pass
    else .wait

/-- A gang past the walk comes to the placer, with what its region gives gangs admitted now (R38). -/
def Gang.admitted (G : Gang) (e : Rcb) (now arrival group : Nat) : Gang :=
  { G with phase := .placer, arrival := arrival, waitFrom := now, flags := e.flags, pmode := if e.pmode = 1 then 1 else 0, ckptn := e.ckptn,
           handler := e.handler, hentry := e.hentry, hlen := e.hlen, group := some group }

/-- The co-schedule group of a LAUNCH that has formed, if the gang joins one. -/
def State.groupOf (s : State) (g : Nat) (e : Rcb) : Option Nat :=
  let G := s.gang g
  if e.flags.getLsbD 1 && G.queue.isSome then
    (s.gangs.find? fun h => h.1 != g && h.2.queue == G.queue && h.2.cmd == G.cmd && h.2.part == G.part && h.2.group.isSome).bind fun h => h.2.group
  else none

def State.admitGang (s : State) (g : Nat) : State :=
  let G := s.gang g
  let e := effRcb (s.part G.part).regions G.region
  let (arrival, s1) := s.newId
  match s.groupOf g e with
  | some k => (s1.setGang g fun G => G.admitted e s.cycle arrival k).setGroup k fun K => { K with gangs := K.gangs ++ [g] }
  | none =>
    let (k, s2) := s1.newId
    { s2.setGang g fun G => G.admitted e s.cycle arrival k with
      groups := s2.groups.set k { gangs := [g], bars := [], inflight := [], release := [] } }

/-- The kind of a LAUNCH command. -/
def Cmd.launchOf (c : Cmd) : Option (LRec × Nat × Nat × Nat × Bool) :=
  match c.kind with
  | .launch R next left total started => some (R, next, left, total, started)
  | _ => none

def State.setCmd (s : State) (q id : Nat) (k : CmdKind) : State :=
  s.setQueue q fun Q => { Q with cmds := Q.cmds.map fun c => if c.id = id then { c with kind := k } else c }

/-- A LAUNCH with no gang left to let in and none that is still there completes (R29). -/
def State.settleLaunch (s : State) (q id : Nat) : State :=
  match ((s.queue q).cmds.find? fun c => c.id == id).bind Cmd.launchOf with
  | some (_, _, 0, _, true) => if s.gangs.any fun h => h.2.queue == some q && h.2.cmd == id then s else s.completeCmd q id
  | _ => s

/-- Frees a group's member. -/
def State.leaveGroup (s : State) (g : Nat) : State :=
  match (s.gang g).group with
  | none => s
  | some k =>
    let l := (s.group k).gangs.filter (· != g)
    if l.isEmpty then { s with groups := s.groups.erase k } else (s.setGroup k fun K => { K with gangs := l }).clSettle k

/-- A gang's draining mark is cleared (R79). -/
def State.unmark (s : State) (g : Nat) : State :=
  { s with cores := s.cores.map fun (d : Nat × Core) => if d.2.drain == some g then (d.1, { d.2 with drain := none }) else d }

/-- A gang that has not been placed is dropped; a destruction of its region may complete (R39). -/
def State.dropGang (s : State) (g : Nat) : State :=
  let s1 := (s.leaveGroup g).unmark g
  ({ s1 with gangs := s1.gangs.erase g } : State).settleDestroy (s.gang g).part (s.gang g).region

/-- A gang of a LAUNCH does not pass (R39): an unstarted LAUNCH stops its queue; of a started one this gang and all after it are dropped,
with the error word and VEC. -/
def State.dropGangs (s : State) (g q : Nat) (cause : Byte) : State :=
  let id := (s.gang g).cmd
  let later := s.gangs.filter fun h => h.2.queue == some q && h.2.cmd == id && h.2.fresh && (h.2.phase == .walk || h.2.phase == .placer) &&
    decide (h.2.index ≥ (s.gang g).index)
  let s0 := later.foldl (fun (a : State) h => a.dropGang h.1) s
  match (s.queue q).cmds.find? fun c => c.id == id with
  | none => s0
  | some c =>
    match c.launchOf with
    | some (R, next, _, total, true) =>
      ((s0.setCmd q id (.launch R next 0 total true)).tellError q (errorWord c.tag c.idx cause c.op)).settleLaunch q id
    | _ => s0.queueError q c.tag c.idx cause c.op

/-- A LAUNCH whose waiting gangs fit nowhere any more fails (R101): those that have run are killed, and the others dropped. That they are killed as by a
fault is the model's (DESIGN CHOICE, log entry 25). -/
def State.shutOut (s : State) (g q : Nat) : State :=
  let waiting := s.gangs.filter fun h => h.2.queue == some q && h.2.cmd == (s.gang g).cmd && h.2.waiting
  let first := (s.byIndex (waiting.map Prod.fst)).headD g
  ((waiting.filter fun h => !h.2.fresh).foldl (fun (a : State) h => a.killGang h.1 tcFAULT) s).dropGangs first q 0x07

/-- An accepted invocation's gang that can no longer be admitted (R64); its proxy entry waits for RELEASE (R69). -/
def State.refuseGang (s : State) (g i : Nat) : State :=
  let p := (s.gang g).part
  (((s.dropGang g).setEntry p i fun e => { e with gang := none }).tarnishProxy p i tcREFUSED false).tryFreeUp p (s.entry p i).upProxy

/-- GANG_ADMISSION (R39, R76). -/
def execGangAdmission (s : State) : Host.Outcome State Fault Refusal :=
  let g := s.cur.g
  let G := s.gang g
  .next (
    if G.phase != .walk || (s.gangs.get? g).isNone then s
    else
      match G.queue, G.proxy with
      | none, some i => (match s.walkOf g with
        | .stop _ => s.refuseGang g i
        | .wait => s
        | .pass => s.admitGang g)
      | some q, _ =>
        (match ((s.queue q).cmds.find? fun c => c.id == G.cmd) with
         | none => { s with gangs := s.gangs.erase g }
         | some c =>
           match c.launchOf with
           | none => s
           | some (R, next, left, total, started) =>
             if (s.queue q).stop || (!started && (s.queue q).bound.isNone) then s
             else
               match s.walkOf g with
               | .stop cause => s.dropGangs g q cause
               | .wait => s
               | .pass =>
                 match (if started then some s else s.startCmd q) with
                 | none => ({ s with gangs := s.gangs.erase g } : State).queueError q c.tag c.idx 0x04 c.op
                 | some s1 =>
                   let s2 := s1.admitGang g
                   if left = 0 then s2.setCmd q c.id (.launch R next 0 total true)
                   else (s2.setCmd q c.id (.launch R (next + 1) (left - 1) total true)).walkGang q c.id R next total G.part)
      | none, none => s)

/-! ## Placement (R33, R76-R81) -/

/-- Images of a record in role order, each once, with where they lie in the code space (R170): VA, bytes, base. -/
def placeImages : List Role → Nat → List (DWord × Nat × Nat) → List (DWord × Nat × Nat)
  | [], _, acc => acc
  | r :: rs, base, acc =>
    if acc.any fun a => a.1 == r.ovl then placeImages rs base acc
    else placeImages rs (base + (r.ovlLen + 255) / 256 * 256) (acc ++ [(r.ovl, r.ovlLen, base)])

def LRec.images (R : LRec) : List (DWord × Nat × Nat) := placeImages R.roles 0 []

/-- A role's first PC. -/
def LRec.firstPc (R : LRec) (role : Nat) : BitVec 16 :=
  match R.roles[role]? with
  | none => 0
  | some r => BitVec.ofNat 16 (((R.images.find? fun i => i.1 == r.ovl).map fun i => i.2.2).getD 0 + r.entry)

/-- A strand's view as it starts (R33 steps 2 to 4, R64, R160). -/
def startView (G : Gang) (role idx : Nat) : View :=
  let sc : List (Nat × DWord) :=
    [(1, BitVec.ofNat 64 G.index), (2, BitVec.ofNat 64 G.count), (3, BitVec.ofNat 64 (role * 256 + idx))] ++
      ((List.range 4).map fun i => (4 + i, G.s4s7.getD i 0)) ++ (List.range 8).map fun i => (8 + i, G.lrec.args.getD i 0)
  let v := sc.foldl (fun (t : Tbl DWord) q => if q.2 = 0 then t else t.set q.1 q.2) []
  { View.empty with
    s := v,
    cr := [(crCONTRACT, BitVec.ofNat 64 G.lrec.contract), (crDTBASE, G.lrec.dtbase), (crDTLEN, zext32 G.lrec.dtlen), (crSPWT, 0x800)] }

/-- The role and index of each launch-record strand, in order. -/
def LRec.members (R : LRec) : List (Nat × Nat × Role) :=
  (List.range R.roles.length).flatMap fun k =>
    match R.roles[k]? with
    | none => []
    | some r => (List.range r.strands).map fun i => (k, i, r)

/-- A launch-record strand before its first instruction. -/
def newStrand (G : Gang) (role idx : Nat) (r : Role) (slot vbase : Nat) (gen : BitVec 16) : Strand :=
  let v := startView G role idx
  { Strand.empty with
    slot := slot, gen := gen, role := role, idx := idx, vblk := r.vblk, vbase := vbase, ntiles := r.tiles,
    splits := [(0, startSplit (G.lrec.firstPc role) v)], initView := v, initPc := G.lrec.firstPc role }

/-- Each start of a strand in a slot advances the slot's generation (R86). -/
def State.nextGen (s : State) (c slot : Nat) : BitVec 16 × State :=
  let n := (s.core c).gens.getD slot 0 + 1
  (n, s.setCore c fun C => { C with gens := C.gens.set slot n })

/-- Puts new strands into slots. -/
def State.seat (c : Nat) (G : Gang) : List ((Nat × Nat × Role) × Nat × Nat) → State → Tbl Strand → Tbl Strand × State
  | [], s, acc => (acc, s)
  | (m, slot, base) :: r, s, acc =>
    let (gen, s1) := s.nextGen c slot
    State.seat c G r s1 (Tbl.set acc slot (newStrand G m.1 m.2.1 m.2.2 slot base gen))

/-- Where a strand that had slot `t` has gone. -/
def movedTo (pl : List (Nat × Nat)) (t : Nat) : Nat := ((pl.find? fun q => q.1 == t).map Prod.snd).getD t

/-- The same for a resumed gang; a plan word reads as zero after a resumption (R382). -/
def State.reseat (c : Nat) : List (Strand × Nat × Nat) → State → Tbl Strand → Tbl Strand × State
  | [], s, acc => (acc, s)
  | (S, slot, base) :: r, s, acc =>
    let (gen, s1) := s.nextGen c slot
    State.reseat c r s1 (Tbl.set acc slot { S with slot := slot, vbase := base, gen := gen, plan := none })

/-- A group's arrivals follow a strand to the slot it has now (R103, R357). -/
def Group.reslot (K : Group) (g : Nat) (new : Nat → Nat) : Group :=
  { K with bars := K.bars.map fun b => (b.1, { b.2 with who := b.2.who.map fun w => if w / 32 = g then 32 * g + new (w % 32) else w }),
           inflight := K.inflight.map fun a => if a.1 = g then (a.1, new a.2.1, a.2.2) else a }

/-- A gang gets its place: resources reserved and charged, its mark cleared, its slice begun (R76, R79, R82). -/
def State.putGang (s : State) (q : Nat × Nat × Fit) : State :=
  let g := q.1
  let c := q.2.1
  let f := q.2.2
  let G := s.gang g
  let pl := f.slots.zip f.bases
  let r := if G.fresh then State.seat c G (G.lrec.members.zip pl) s []
    else State.reseat c (G.staying.zip pl) s []
  let count := G.lrec.members.length
  let new := movedTo ((G.staying.map Strand.slot).zip f.slots)
  let bars := if G.fresh then (List.range G.lrec.nbar).map fun n => (n, ({ count := count, arr := 0, phase := 0, who := [] } : Bar))
    else G.bars.map fun b => (b.1, { b.2 with who := b.2.who.map new })
  let s1 := r.2.setGang g fun G =>
    { G with phase := .loading, core := c, lastCore := c, charged := true, spUnit := f.unit, half := f.part, wslots := f.wslots, bars0 := f.bars,
             tiles := f.tiles, slice := s.cycle, expired := false, strands := r.1, bars := bars,
             rewound := G.rewound.map fun k => { k with strand := new k.strand }, savedLk := G.savedLk.map fun k => { k with strand := new k.strand } }
  let s2 := if G.fresh then s1 else s1.setGroup (G.group.getD 0) fun K => K.reslot g new
  (s2.unmark g).setPart G.part fun P =>
    { P with regions := (chargeUsage P.regions G.region G.demandNow false).modify G.region fun R =>
               if G.flags.getLsbD 1 then { R with lastClus := clusterOfCore c } else { R with lastSet := settingOfCore c } }

/-- GANG_PLACEMENT (R78, R81): the gang's unit is placed if it is its turn; a gang that a lowered budget, a changed mask or half-file
mode shuts out for good is not admitted (R39, R64, R101). -/
def execGangPlacement (s : State) : Host.Outcome State Fault Refusal :=
  let g := s.cur.g
  let G := s.gang g
  .next (
    if !G.waiting || (s.gangs.get? g).isNone then s
    else if s.neverFits g G.count (G.flags.getLsbD 1) then
      (match G.queue, G.proxy with
       | none, some i => if G.fresh then s.refuseGang g i else s.killGang g tcFAULT
       | some q, _ => s.shutOut g q
       | none, none => s)
    else if G.fresh && !(withinBudgets (s.part G.part).regions G.region G.lrec.demand true) then
      (match G.queue, G.proxy with
       | none, some i => s.refuseGang g i
       | some q, _ => s.dropGangs g q 0x07
       | none, none => s)
    else if !(s.turn g) then s
    else match s.plan g with
      | none => s
      | some l => l.foldl State.putGang s)

/-! ## Instruction memory (R173) -/

/-- GRANULE_REFILL (R173): a granule that is fetched again comes back. -/
def execGranuleRefill (s : State) : Host.Outcome State Fault Refusal :=
  let g := s.cur.g
  let n := s.cur.t
  .next (
    if !((s.gang g).evicted.contains n) then s
    else s.bringIn g [n])

/-! ## The start of a gang (R33, R106, R170, R171) -/

/-- What reading a gang's images comes to. -/
inductive Loaded where
  | code (s : State) (code : Tbl Byte) (ovd : Tbl DWord)
  | fault (tr : Trap) (pc : Option (BitVec 16))
  | busy (s : State)
deriving DecidableEq, Repr

/-- Registers of the strands that use an image: what its VMAX is held against. -/
def LRec.budgetOf (R : LRec) (ovl : DWord) : Nat :=
  R.roles.foldl (fun a r => if r.ovl = ovl then min a (16 * r.vblk) else a) 256

/-- The first poisoned sector of a run of virtual bytes. -/
def State.poisonIn (s : State) (p va n : Nat) : Option Nat :=
  (List.range ((n + va % 32 + 31) / 32)).findSome? fun i =>
    let a := va - va % 32 + 32 * i
    match s.translate p a with
    | .ok l => if s.mem.poisoned l.pa 1 then some a else none
    | .error _ => none

/-- Reads an image, or a recipe entry: an image as the copy engine does, which reaches the pool (R12, R33). -/
def State.readImage (s : State) (who : Who) (p va n : Nat) : Except Trap (List Byte) :=
  match s.readAs who p va n with
  | .error e => .error { cause := e.1.cause, detail := e.1.detail, addr := BitVec.ofNat 64 e.2 }
  | .ok l => match s.poisonIn p va n with
    | some a => .error { cause := cPOISON, addr := BitVec.ofNat 64 a }
    | none => .ok l

def State.loadImages (s : State) (G : Gang) : List (DWord × Nat × Nat) → Nat → Tbl Byte → Tbl DWord → Loaded
  | [], _, code, ovd => .code s code ovd
  | (va, n, base) :: r, e, code, ovd =>
    match s.readImage .copy G.part va.toNat n with
    | .error t => .fault t none
    | .ok l =>
      match s.placeable G.part (G.lrec.budgetOf va) l with
      | .busy s' => .busy s'
      | .native (.failed off) _ => .fault { cause := cILLEGAL } (some (BitVec.ofNat 16 (base + off)))
      | .native (.image w) s1 =>
        let len := (n + 255) / 256
        let room := (65536 - base) / 256
        State.loadImages s1 G r (e + 1) (putCode code base (min len room) w) (ovd.set e (ovdWord true false e base len))

/-- The whole load: initial overlays, then the handler image (R106). -/
def State.loadGang (s : State) (g : Nat) : Loaded :=
  let G := s.gang g
  match s.loadImages G G.lrec.images 0 [] [] with
  | .code s code ovd =>
    let lo := 65536 - 256 * G.hlen
    if G.hlen = 0 then .code s code ovd
    else if G.hlen > 64 || G.lrec.images.any fun i => decide (i.2.2 + (i.2.1 + 255) / 256 * 256 > lo) then .fault { cause := cHANDLEROVERLAP } none
    else
      (match s.readImage .copy G.part G.handler.toNat (256 * G.hlen) with
       | .error t => .fault t none
       | .ok l =>
         match s.placeable G.part 256 l with
         | .busy s' => .busy s'
         | .native (.failed off) _ => .fault { cause := cILLEGAL } (some (BitVec.ofNat 16 (lo + off)))
         | .native (.image w) s1 => .code s1 (putCode code lo G.hlen w) ovd)
  | r => r

/-- Some strands start now: to their evaluations memory reads no older than this (R215). -/
def Gang.fence (G : Gang) (m : Mem) (p : Strand → Bool) : Gang :=
  { G with strands := G.strands.map fun t => (t.1, if p t.2 then { t.2 with fenced := m.logging false } else t.2) }

/-- OVERLAY_LOAD_COMPLETE (R33, R80, R239): the gang's code is in place, the replays due at placement are issued, and all its strands start;
or it faults before its first instruction. -/
def execOverlayLoadComplete (s : State) : Host.Outcome State Fault Refusal :=
  let g := s.cur.g
  let G := s.gang g
  .next (
    if G.phase != .loading || !G.fresh then s
    else
      match s.loadGang g with
      | .busy s' => s'
      | .fault tr pc =>
        let t := ((G.strands.find? fun q => q.2.role == 0 && q.2.idx == 0).map Prod.fst).getD 0
        s.fault g t 0 (pc.getD (G.lrec.firstPc 0)) tr false tcFAULT
      | .code s code ovd =>
        let s0 := s.setGang g fun G =>
          { G.fence s.mem (fun _ => true) with
              phase := if G.suspendAt then .suspended else .running, suspendAt := false, fresh := false, code := code, ovd := ovd, evicted := [],
              own := [], fetched := [] }
        let s1 := s0.bringIn g (s0.gang g).granules
        match s1.replays g noStrand 0 0 0 with
        | some s2 => s2
        | none => s)

/-- TRANSLATION_COMPLETE (R176): a partition's translation of an image ends, and the entry serves it from now on. -/
def execTranslationComplete (s : State) : Host.Outcome State Fault Refusal :=
  let p := s.cur.g
  .next ({ s with trans := s.trans.map fun e =>
    if e.id = s.cur.t ∧ e.busy.contains p then
      { e with native := volendImage e.image, vis := e.vis ||| BitVec.ofNat 16 (2 ^ (p % 16)), busy := e.busy.filter (· != p), used := s.stepNo }
    else e } : State).trimTrans

/-! ## Drain-to-fit and slices (R79, R81, R82) -/

/-- Enough is free in total, in one part of the core, though perhaps not in runs. -/
def freeTotals (o : Occ) (d : Need) (part : Nat) : Bool :=
  let free := fun (used : List Nat) n => ((spanOf (partLo part n) (partHi part n - partLo part n)).filter fun i => !(used.contains i)).length
  decide (free o.slots 32 ≥ d.strands.length) && decide (free o.blocks 128 ≥ d.blocks) && decide (free o.units 256 ≥ d.units) &&
    decide (free o.tiles 16 ≥ d.tiles) && decide (free o.wslots 4 ≥ d.wslots) && decide (free o.bars 64 ≥ d.bars)

def State.freeBlocks (s : State) (c : Nat) : Nat := 128 - (distinct (s.occ c []).blocks).length

/-- The core that is marked for a gang, of some cores: the one with the most free blocks, the lowest on a tie. -/
def State.markCore (s : State) (g : Nat) (cs : List Nat) : Option Nat :=
  let ok := cs.filter fun c =>
    !(s.core c).quarantined && (s.core c).drain.isNone && (s.partsOf (settingOfCore c)).any (freeTotals (s.occ c []) (s.gang g).need)
  ok.foldl (fun (a : Option Nat) c => match a with
    | none => some c
    | some b => if s.freeBlocks c > s.freeBlocks b then some c else a) none

/-- The cluster in which a group's marks are taken (R404): once a member is marked, the cluster of that mark (DEDUCED, log entry 25). -/
def State.markCluster (s : State) (g : Nat) : Option Nat :=
  let free := fun cl => (spanOf (32 * cl) 32).foldl (fun a c => a + s.freeBlocks c) 0
  let held := s.cores.find? fun c => (c.2.drain.map fun h => (s.unitOf g).contains h).getD false
  (held.map fun c => clusterOfCore c.1).or <| ((s.gangSettings g).flatMap fun k => spanOf (4 * k) 4).foldl (fun (a : Option Nat) cl => match a with
    | none => some cl
    | some b => if free cl > free b then some cl else a) none

/-- The members of a group that do not find a place in a cluster, taken in order (R81). -/
def State.unplaced (s : State) (cl : Nat) : List Nat → (Nat → Occ × Nat) → List Nat → List Nat
  | [], _, _ => []
  | g :: r, occ, placed =>
    match s.bestCore g (spanOf (32 * cl) 32) occ placed with
    | none => g :: State.unplaced s cl r occ placed
    | some (c, f) => State.unplaced s cl r (fun k => if k = c then ((occ k).1.add (s.gang g).need f, (occ k).2 + 1) else occ k) (placed ++ [g])

def State.marked (s : State) (g : Nat) : Bool := s.cores.any fun c => c.2.drain == some g

/-- DRAIN_TO_FIT_MARK (R79, R81, R404), after 4,096 cycles at the placer. -/
def execDrainToFitMark (s : State) : Host.Outcome State Fault Refusal :=
  let g := s.cur.g
  let G := s.gang g
  .next (
    if !G.waiting || s.cycle < G.waitFrom + 4096 || s.marked g || (s.plan g).isSome then s
    else
      let core := if G.flags.getLsbD 1 then
          (match s.unitReady g, s.markCluster g with
           | some u, some cl =>
             let miss := s.unplaced cl u (fun c => (s.occ c [], s.gangsOn c)) []
             if (miss.filter fun h => !(s.marked h)).head? = some g then s.markCore g (spanOf (32 * cl) 32) else none
           | _, _ => none)
        else s.markCore g ((s.gangSettings g).flatMap fun k => spanOf (128 * k) 128)
      match core with
      | none => s
      | some c => s.setCore c fun C => { C with drain := some g })

/-- SLICE_EXPIRY (R82). -/
def execSliceExpiry (s : State) : Host.Outcome State Fault Refusal :=
  let g := s.cur.g
  let G := s.gang g
  let t := (effRcb (s.part G.part).regions G.region).tslice
  .next (if G.resident && !G.expired && t != 0 && decide (s.cycle ≥ G.slice + t * 1024) then s.setGang g fun G => { G with expired := true } else s)

/-! ## Spawn bins (R84) -/

def State.bin (s : State) : Option Bin := (s.core s.cur.g).bins.get? s.cur.t

/-- SPAWN_BIN_TIMER (R84 step 3); a timer of 0 is the end of the SPAWN. -/
def execSpawnBinTimer (s : State) : Host.Outcome State Fault Refusal :=
  .next (
    match s.bin with
    | none => s
    | some b =>
      if b.due || b.spwt = 0 || s.cycle < b.first + b.spwt then s
      else s.setCore s.cur.g fun C => { C with bins := C.bins.modify s.cur.t fun b => { b with due := true } })

/-- The dispatch entry as it stands at the launch; where it cannot be read, or is no SPAWN target any more, what the deposit read (DEDUCED, log entry 25). -/
def State.binEntry (s : State) (b : Bin) : DEntry :=
  let old : DEntry := { target := b.target, sp := true, vblk := b.vblk }
  let va := (b.cr.getD crDTBASE 0 + BitVec.ofNat 64 (8 * b.entry)).toNat
  match s.resolve (s.gang b.gang).part .strand false true va with
  | .error _ => old
  | .ok l =>
    let x := s.getNat l.pa 8
    if !(targetAnswers l) || dEntryBad x || !(dEntryOf x).sp then old else dEntryOf x

/-- A spawned strand's view (R84 step 5). -/
def spawnView (G : Gang) (b : Bin) : View :=
  let sc : Tbl DWord := [(1, BitVec.ofNat 64 G.index), (2, BitVec.ofNat 64 G.count), (3, BitVec.ofNat 64 (b.entry * 2 ^ 32 + 3 * 256))]
  { View.empty with s := sc, cr := b.cr }

/-- Lanes 0 to 3 of `v0`-`v3` hold the threads' words. -/
def spawnWords (ths : List (List Word)) : Tbl Word :=
  (List.range 4).foldl (fun a r => (List.range ths.length).foldl (fun a i => a.set (r * 32 + i) ((ths.getD i []).getD r 0)) a) []

def spawnStrand (G : Gang) (b : Bin) (e : DEntry) (slot vbase : Nat) (gen : BitVec 16) (m : Mem) : Strand :=
  let vac := laneSet fun i => decide (i ≥ b.threads.length)
  let v := spawnView G b
  let w := spawnWords b.threads
  { Strand.empty with
    slot := slot, gen := gen, role := 3, entry := some b.entry, vblk := e.vblk, vbase := vbase, vacant := vac,
    counters := (lanesOf vac).foldl (fun (t : Tbl Byte) i => t.set i 1) [], v := w, fenced := m.logging false,
    splits := [(0, startSplit e.target v)], initV := w, initView := v, initPc := e.target }

/-- Whether a gang's bins launch: while it holds its core and is not being stopped (R84, R96). -/
def Gang.launchesBins (G : Gang) : Bool := G.phase == .running || G.phase == .suspended || G.phase == .checkpointing

/-- SPAWN_BIN_LAUNCH (R84 steps 4 to 6, R101): first-fit in the part of the core that its gang lies in, charged without a budget check. -/
def execSpawnBinLaunch (s : State) : Host.Outcome State Fault Refusal :=
  let c := s.cur.g
  .next (
    match s.bin with
    | none => s
    | some b =>
      let G := s.gang b.gang
      if !b.due || !G.launchesBins then s
      else
        let e := s.binEntry b
        let o := s.occ c []
        match takeFree o.slots (partLo G.half 32) (partHi G.half 32) 1, firstRun o.blocks (partLo G.half 128) (partHi G.half 128) e.vblk with
        | some [slot], some base =>
          let (gen, s1) := s.nextGen c slot
          let s2 := s1.setGang b.gang fun G => { G with strands := G.strands.set slot (spawnStrand G b e slot base gen s.mem) }
          let s3 := s2.setCore c fun C => { C with bins := C.bins.erase s.cur.t }
          s3.setPart G.part fun P => { P with regions := chargeUsage P.regions G.region [0, e.vblk, 0, 0, 0, 0] false }
        | _, _ => s)

/-- SPAWN_STARVATION (R84 step 7); a suspended gang that is resumed waits anew. -/
def execSpawnStarvation (s : State) : Host.Outcome State Fault Refusal :=
  .next (
    match s.bin with
    | none => s
    | some b =>
      let G := s.gang b.gang
      match b.fullAt with
      | some t =>
        if G.phase != .running || s.cycle < t + 65536 then s
        else
          let f := G.firstStrand
          (s.setCore s.cur.g fun C => { C with bins := C.bins.modify s.cur.t fun b => { b with fullAt := some s.cycle } }).fault b.gang f.1 0 f.2
            { cause := cSPAWNSTARVE } false tcFAULT
      | none => s)

/-! ## Exit (R85, R29) -/

/-- STRAND_RELEASE (R85): loads landed, tokens and locket registers written. -/
def execStrandRelease (s : State) : Host.Outcome State Fault Refusal :=
  let g := s.cur.g
  let t := s.cur.t
  let G := s.gang g
  let S := s.strand g t
  .next (
    if !G.charged || !S.exited || S.freed || S.olc != 0 || ((s.core G.core).copies.any fun c => c.gang == g && c.strand == t && c.token != 0) ||
        s.lkres.any fun r => r.gang == g && r.strand == t then s
    else (s.setStrand g t fun S => { S with freed := true }).setPart G.part fun P =>
      { P with regions := chargeUsage P.regions G.region [0, S.vblk, 0, 0, 0, 0] true })

/-- Whether a gang has a bank command that has issued and not completed, on whatever core it was then (R103, R137). -/
def State.bankOpen (s : State) (g : Nat) : Bool := s.cores.any fun c => c.2.bank.any fun b => b.gang == g

/-- Whether a gang's last strand is freed and nothing of it is left: copies, bank commands, forces, weight loads, threads in bins (R84, R85). -/
def State.gangDone (s : State) (g : Nat) : Bool :=
  let G := s.gang g
  let C := s.core G.core
  G.strands.all (fun t => t.2.freed) && !(C.copies.any fun c => c.gang == g) && !(s.bankOpen g) &&
    !(C.forces.any fun f => f.gang == g) && G.wloads.isEmpty && !(C.bins.any fun b => b.2.gang == g) && !(s.lkres.any fun r => r.gang == g)

/-- What of a gang's demand is still charged at its exit: all but its strands' blocks. -/
def Gang.stillCharged (G : Gang) : List Nat := [1, 0] ++ G.lrec.demand.drop 2

/-- The proxy of an invoked gang that has exited (R68, R69). -/
def State.proxyDone (s : State) (g : Nat) : State :=
  let G := s.gang g
  match G.proxy with
  | none => s
  | some i =>
    let s1 := s.setEntry G.part i fun e => { e with gang := none }
    ((if G.killed then s1 else s1.resolveProxy G.part i).tryFreeProxy G.part i).tryFreeUp G.part (s.entry G.part i).upProxy

/-- A gang leaves: what it still holds is given back, its LAUNCH and a destruction of its region may complete, its proxy resolves (R85). -/
def State.exitGang (s : State) (g : Nat) : State :=
  let G := s.gang g
  let s1 := if G.charged then s.setPart G.part fun P => { P with regions := chargeUsage P.regions G.region G.stillCharged true } else s
  let s2 := (s1.proxyDone g).leaveGroup g
  let s3 := ({ s2 with gangs := s2.gangs.erase g, ckpts := s2.ckpts.erase g } : State).unmark g
  let s4 := match G.queue with
    | some q => s3.settleLaunch q G.cmd
    | none => s3
  s4.settleDestroy G.part G.region

/-- GANG_EXIT (R85); what a function-level reset has killed leaves when the reset is complete (R52). -/
def execGangExit (s : State) : Host.Outcome State Fault Refusal :=
  let g := s.cur.g
  let G := s.gang g
  .next (
    if (s.gangs.get? g).isNone || !(G.charged || G.killed) || (s.fn G.fn).flr != .off || !(s.gangDone g) then s
    else s.exitGang g)

end Sys2Proof.Machine
end

