-- ==== Sys2Proof/Machine/Preempt.lean ====
section
/-! DEFINITION. Machine/Preempt.lean: pre-emption (R83), stopping, saving and resuming a FLASHBACK gang (R93-R98), CHECKPOINT-N (R102,
R103). -/

namespace Sys2Proof.Machine

open Sys2Proof

/-! ## The save store (R96, R97) -/

def State.binsOf (s : State) (g : Nat) : List Bin := ((s.core (s.gang g).core).bins.filter fun b => b.2.gang == g).map Prod.snd

/-- Bytes of a strand's record and live-ins. -/
def Strand.imageLen (S : Strand) : Nat :=
  128 + match S.flash with
    | some f => 128 * f.vset.length + 8 * f.sset.length
    | none => 0

/-- Bytes of a gang's save image (R96 step 3). -/
def Gang.imageLen (G : Gang) (bins : List Bin) : Nat :=
  256 + (G.strands.filter fun t => !t.2.exited).foldl (fun a t => a + t.2.imageLen) 0 + G.lrec.spad + 16 * G.lrec.nbar +
    bins.foldl (fun a b => a + 16 + 20 * b.threads.length) 0 +
    (G.ovd.filter fun o => field o.2.toNat 63 63 == 1).foldl (fun a o => a + 256 * field o.2.toNat 8 0) 0 + 256 * G.hlen

/-- Bytes of a checkpoint (R102): the image's, with every register block, the split tables, the tiles and the weight slots. How long a split's record is
the rule does not say (DESIGN CHOICE, log entry 26). -/
def Gang.checkpointLen (G : Gang) (bins : List Bin) : Nat :=
  256 + (G.strands.filter fun t => !t.2.exited).foldl (fun a t => a + 128 + 2048 * t.2.vblk + 32 + 4 * (64 * 8 + 13 * 8)) 0 + 16384 * G.tiles.length +
    65536 * G.wslots.length + G.lrec.spad + 16 * G.lrec.nbar + bins.foldl (fun a b => a + 16 + 20 * b.threads.length) 0 + 256 * G.granules.length

/-- Bytes that a FLASHBACK gang's image will take if it is pre-empted now; one that has not started, or not been restored yet, needs none. -/
def State.imageNeed (s : State) (g : Nat) : Nat :=
  let G := s.gang g
  if G.pmode = 1 ∨ (G.phase = .loading ∧ (G.fresh ∨ G.savedSp.isSome)) then 0 else G.imageLen (s.binsOf g)

/-- Bytes of the save store that a FLASHBACK gang takes or is about to; a CHECKPOINT-N gang's are its checkpoint's (R103). -/
def State.imageFill (s : State) (g : Nat) (G : Gang) : Nat :=
  if G.pmode = 1 then 0
  else match G.phase with
    | .stopping .. => G.imageLen (s.binsOf g)
    | .saving | .saved => G.saveLen
    | .loading => if G.savedSp.isSome then G.saveLen else 0
    | _ => 0

/-- Bytes in use of a setting's save store: images, checkpoints, evicted granules (R96, R102, R173). -/
def State.storeFill (s : State) (k : Nat) : Nat :=
  let here := fun (G : Gang) => settingOfCore G.lastCore == k
  let cores := (s.gangs.filter fun q => q.2.charged && here q.2).map fun q => q.2.core
  s.gangs.foldl (fun a q => a + (if here q.2 then s.imageFill q.1 q.2 else 0)) 0 + s.ckpts.foldl (fun a q => a + (if here q.2 then q.2.saveLen else 0)) 0 +
    (distinct cores).foldl (fun a c => a + 256 * (s.granulesOn c true).length) 0

/-- Whether the save stores of some gangs' settings have room for them all (R97). -/
def State.roomFor (s : State) (v : List Nat) : Bool :=
  v.all fun g =>
    let k := settingOfCore (s.gang g).core
    decide (v.foldl (fun a h => if settingOfCore (s.gang h).core = k then a + s.imageNeed h else a) (s.storeFill k) ≤ 256 * 2 ^ 20) ||
      s.imageNeed g == 0

/-- Whether the save store of a gang's setting has room for it (R97). -/
def State.hasRoom (s : State) (g : Nat) : Bool := s.roomFor [g]

/-! ## Stopping (R96 steps 1 and 2, R103) -/

/-- Arrivals of a gang that have not reached their cluster barrier (R95). -/
def State.arriving (s : State) (g : Nat) : Bool :=
  match (s.gang g).group with
  | some k => (s.group k).inflight.any fun a => a.1 == g
  | none => false

/-- Which strands are committed is judged, and the others are rewound. -/
def State.judge (s : State) (g : Nat) : State :=
  let G := s.gang g
  match G.phase with
  | .stopping since false =>
    if s.arriving g then s
    else
      ((G.strands.filter fun t => !t.2.exited && !t.2.committed).foldl (fun a t => a.rewind g t.1)
        (s.setGang g fun G => { G with phase := .stopping since true })).sweepSched g
  | _ => s

/-- Takes a gang's resources back (R96 step 4). -/
def State.freeGang (s : State) (g : Nat) : State :=
  let G := s.gang g
  if !G.charged then s
  else
    let blocks := (G.strands.filter fun q => !q.2.freed).foldl (fun a q => a + q.2.vblk) 0
    ((s.setPart G.part fun P => { P with regions := (chargeUsage P.regions G.region G.stillCharged true) }).setPart G.part fun P =>
      { P with regions := chargeUsage P.regions G.region [0, blocks, 0, 0, 0, 0] true }).setCore G.core fun C =>
      { C with bins := C.bins.filter fun b => b.2.gang != g, recs := C.recs.filter fun e => e.1 / 4096 != g }

/-- A gang that comes back to the placer, with its arrival order as it was. -/
def Gang.atPlacer (G : Gang) (now : Nat) (phase : Phase) : Gang :=
  { G with phase := phase, charged := false, waitFrom := now, expired := false, wslots := [], bars0 := [], tiles := [], wloads := [],
           evicted := [], strands := G.strands.filter fun t => !t.2.exited }

/-- The gang as its last checkpoint has it, or as before its launch (R103); a plan word reads as zero until a new force (R382). -/
def State.lastPoint (s : State) (g : Nat) : Gang :=
  let G := s.gang g
  match s.ckpts.get? g with
  | some K =>
    let P := ({ K with core := G.core, lastCore := G.lastCore, locket := G.locket, proxy := G.proxy } : Gang).atPlacer s.cycle .saved
    { P with strands := P.strands.map fun t => (t.1, { t.2 with plan := none }) }
  | none =>
    { G.atPlacer s.cycle .placer with
      fresh := true, strands := [], code := [], own := [], fetched := [], ovd := [], bars := [], stage := 0, lap := 0, lapAt := [], planes := [],
      savedSp := none, rewound := [], savedBins := [], savedLk := [], savedCl := [], savedFly := [] }

/-- A group's cluster barriers with one of its gangs back at its last checkpoint: the phases as they were, that gang's arrivals as it had made them by
then, and the other gangs' as they stand (R102, R103, R357; DEDUCED, log entry 26). -/
def Group.rolledBack (K : Group) (g : Nat) (bars : Tbl Bar) (fly : List (Nat × Nat × Nat × Nat)) : Group :=
  let was := fun n => bars.getD n { count := 0, arr := 0, phase := 0, who := [] }
  { K with
    inflight := (K.inflight.filter fun a => a.1 != g) ++ fly,
    bars := K.bars.map fun b =>
      let who := (b.2.who.filter fun w => w / 32 != g) ++ (was b.1).who.filter fun w => w / 32 == g
      (b.1, { b.2 with phase := (was b.1).phase, who := who, arr := who.length }) }

/-- A CHECKPOINT-N gang is pre-empted at once (R103): what its strands stored stands, everything in flight is discarded. -/
def State.rollBack (s : State) (g : Nat) : State :=
  let G := s.gang g
  let K := s.lastPoint g
  let s0 := G.strands.foldl (fun a t => a.drain g t.1 fun _ => true) s
  let s1 : State := { s0.purgeGang g with ckpts := s.ckpts }
  ((s1.freeGang g).setGroup (G.group.getD 0) fun k => k.rolledBack g K.savedCl K.savedFly).setGang g fun _ => K

/-- Pre-empts a resident gang in its mode (R83). One that is still loading goes back as it came, or is stopped where its strands are rewound already. -/
def State.preemptGang (s : State) (g : Nat) : State :=
  let G := s.gang g
  if G.pmode = 1 then s.rollBack g
  else if G.phase = .loading then
    (if G.fresh then (s.freeGang g).setGang g fun G => { G.atPlacer s.cycle .placer with strands := [], bars := [] }
     else if G.savedSp.isSome then (s.freeGang g).setGang g fun G => G.atPlacer s.cycle .saved
     else s.setGang g fun G => { G with phase := .stopping s.cycle true })
  else (s.setGang g fun G => { G with phase := .stopping s.cycle false }).judge g

/-! ## Choosing whom to pre-empt (R81, R83) -/

def State.prioOf (s : State) (g : Nat) : Nat := (effRcb (s.part (s.gang g).part).regions (s.gang g).region).prio

/-- A gang that may be pre-empted for one of priority `p`. -/
def State.victim (s : State) (p g : Nat) : Bool :=
  let G := s.gang g
  G.charged && (G.phase == .running || G.phase == .checkpointing || G.phase == .loading) && decide (s.prioOf g < p) && G.expired && s.hasRoom g

/-- Gangs that are already leaving their cores. -/
def State.leaving (s : State) : List Nat :=
  s.gangs.filterMap fun q => match q.2.phase with
    | .stopping .. | .saving => some q.1
    | _ => none

/-- The units with a member on some cores that may be pre-empted, each whole (R81). -/
def State.victims (s : State) (p : Nat) (on : Nat → Bool) : List (List Nat) :=
  let gs := (s.gangs.filter fun q => q.2.charged && on q.2.core).map Prod.fst
  let us := gs.map fun g => s.byIndex ((s.unitOf g).filter fun h => (s.gang h).charged)
  (us.filter fun u => u.all (s.victim p)).foldl (fun a u => if a.contains u then a else a ++ [u]) []

/-- Sublists of `n` elements. -/
def choose : Nat → List (List Nat) → List (List (List Nat))
  | 0, _ => [[]]
  | _ + 1, [] => []
  | n + 1, x :: r => ((choose n r).map fun l => x :: l) ++ choose (n + 1) r

def insertDown (x : Nat) : List Nat → List Nat
  | [] => [x]
  | y :: r => if y ≤ x then x :: y :: r else y :: insertDown x r

def insertUp (x : Nat) : List Nat → List Nat
  | [] => [x]
  | y :: r => if x ≤ y then x :: y :: r else y :: insertUp x r

def lexLt : List Nat → List Nat → Bool
  | [], [] => false
  | [], _ => true
  | _, [] => false
  | a :: r, b :: t => a < b || (a == b && lexLt r t)

/-- What a set of gangs is ordered by (R83): how many they are, their priorities from the highest down, their residence from the longest
(DEDUCED, log entry 26), and the core. -/
def State.setKey (s : State) (core : Nat) (v : List Nat) : List Nat :=
  [v.length] ++ v.foldl (fun a g => insertDown (s.prioOf g) a) [] ++ v.foldl (fun a g => insertUp (s.gang g).slice a) [] ++ [core]

/-- Whether a unit fits on a core, or a group in a cluster, with some gangs gone. -/
def State.fitsWithout (s : State) (u : List Nat) (grouped : Bool) (place : Nat) (gone : List Nat) : Bool :=
  let occ := fun c => (s.occ c gone, (s.gangs.filter fun q => q.2.charged && q.2.core == c && !(gone.contains q.1)).length)
  if grouped then (s.planIn place u occ []).isSome
  else match u with
    | g :: _ => (s.bestCore g [place] occ []).isSome
    | [] => false

/-- Sets of gangs whose removal makes room in one place, smallest first found by the number of units. -/
def State.setsFor (s : State) (g : Nat) (u : List Nat) (grouped : Bool) (place : Nat) : List (Nat × List Nat) :=
  let on := fun c => if grouped then clusterOfCore c == place else c == place
  let vs := s.victims (s.prioOf g) on
  let all := (List.range (vs.length + 1)).flatMap fun n => choose n vs
  (all.map fun l => l.flatten).filterMap fun v =>
    if v ≠ [] ∧ s.roomFor v ∧ s.fitsWithout u grouped place (s.leaving ++ v) then some (place, v) else none

/-- The set to pre-empt for a waiting gang. -/
def State.preemptSet (s : State) (g : Nat) : Option (List Nat) :=
  match s.unitReady g with
  | none => none
  | some u =>
    let grouped := (s.gang g).flags.getLsbD 1
    let places := (s.gangSettings g).flatMap fun k => if grouped then spanOf (4 * k) 4 else spanOf (128 * k) 128
    if places.any fun c => s.fitsWithout u grouped c s.leaving then none
    else
      ((places.flatMap (s.setsFor g u grouped)).foldl (fun (a : Option (Nat × List Nat)) q => match a with
        | none => some q
        | some b => if lexLt (s.setKey q.1 q.2) (s.setKey b.1 b.2) then some q else some b) none).map Prod.snd

/-- PREEMPTION_TRIGGER (R83). -/
def execPreemptionTrigger (s : State) : Host.Outcome State Fault Refusal :=
  let g := s.cur.g
  let G := s.gang g
  .next (
    if !G.waiting || s.cycle < G.waitFrom + 1024 || !(s.mayServe g) then s
    else match s.preemptSet g with
      | none => s
      | some v => v.foldl State.preemptGang s)

/-! ## Saving (R96 steps 3 and 4) -/

/-- A gang's scratchpad, byte by byte where it is not zero. -/
def State.spadOf (s : State) (g : Nat) : Tbl Byte :=
  let G := s.gang g
  let base := spAddr G.core (G.spUnit * 1024)
  (s.mem.cells.filter fun c => decide (base ≤ c.1) && decide (c.1 < base + G.lrec.spad)).map fun c => (c.1 - base, c.2)

/-- Whether nothing of a stopped gang is left to run (R96). -/
def State.savable (s : State) (g : Nat) : Bool :=
  let G := s.gang g
  let C := s.core G.core
  ((G.strands.any fun t => !t.2.exited) || !(s.binsOf g).isEmpty) && (G.strands.all fun t => t.2.exited || t.2.atFlash) && !(s.arriving g) &&
    !(C.copies.any fun c => c.gang == g) && !(C.forces.any fun f => f.gang == g) && !(s.lkres.any fun r => r.gang == g) && !(s.bankOpen g)

/-- Whether every gang of a unit that is being pre-empted can be saved: it is pre-empted whole or not at all (R81). -/
def State.unitSavable (s : State) (g : Nat) : Bool :=
  (s.unitOf g).all fun h => match (s.gang h).phase with
    | .stopping _ judged => judged && s.savable h
    | _ => true

/-- GANG_SAVE (R95, R96): a stop whose arrivals have landed is judged; a gang of which every strand is rewound or has exited is saved, with its
group. -/
def execGangSave (s : State) : Host.Outcome State Fault Refusal :=
  let g := s.cur.g
  .next (
    match (s.gang g).phase with
    | .stopping _ false => s.judge g
    | .stopping _ true =>
      if !(s.unitSavable g) then s.sweepSched g
      else s.setGang g fun G => { G with phase := .saving, savedSp := some (s.spadOf g), savedBins := s.binsOf g, saveLen := G.imageLen (s.binsOf g) }
    | _ => s)

/-- GANG_SAVE_COMPLETE (R96 step 4). -/
def execGangSaveComplete (s : State) : Host.Outcome State Fault Refusal :=
  let g := s.cur.g
  .next (if (s.gang g).phase != .saving then s else (s.freeGang g).setGang g fun G => { G.atPlacer s.cycle .saved with planes := [] })

/-- A gang whose pre-emption is abandoned. -/
def Gang.stayed (G : Gang) : Gang :=
  match G.phase with
  | .stopping .. => { G with phase := .loading, savedSp := none }
  | _ => G

/-- RUN_TO_FLASH_TIMEOUT (R96 step 2): the pre-emption is abandoned, of the whole group (R81), and GANG_RESUME starts the rewound strands in place. -/
def execRunToFlashTimeout (s : State) : Host.Outcome State Fault Refusal :=
  let g := s.cur.g
  let G := s.gang g
  .next (
    match G.phase with
    | .stopping since true =>
      if s.cycle < since + 2 ^ 20 || !(G.strands.any fun t => !t.2.exited && t.2.committed && !t.2.atFlash) then s
      else (s.unitOf g).foldl (fun a h => a.setGang h Gang.stayed) s
    | _ => s)

/-! ## Resuming (R98, R103) -/

/-- A gang's scratchpad as it was saved. -/
def State.restoreSpad (s : State) (g : Nat) (t : Tbl Byte) : State :=
  let G := s.gang g
  let base := spAddr G.core (G.spUnit * 1024)
  let inside := fun a => decide (base ≤ a) && decide (a < base + G.lrec.spad)
  t.foldl (fun a b => a.putN (base + b.1) [b.2]) { s with mem := s.mem.scrub inside }

/-- A gang's bins in the lowest free ones of its core. -/
def State.restoreBins (c : Nat) : List Bin → State → Option State
  | [], s => some s
  | b :: r, s =>
    match firstFrom (fun n => ((s.core c).bins.get? n).isNone) 8 0 with
    | none => none
    | some n => State.restoreBins c r (s.setCore c fun C => { C with bins := C.bins.set n b })

/-- What a checkpoint's LKWAIT is given when it is restored: its entry's status if that has settled meanwhile; a status that the manual leaves open if
the entry is of another generation by now (R395; DESIGN CHOICE, log entry 26). -/
def State.lkNow (s : State) (r : LkRes) : Option DWord :=
  let e := s.entry r.part r.entry
  if r.val.isSome || r.lstat then r.val
  else if e.st = .free || e.proxy || e.genA != r.lgen then some (BitVec.ofNat 64 (Config.freeNat (s.choice r.entry)))
  else if e.live then none else some (statusWord r.entry e)

/-- Waits of LKWAITs and status words still to come, as a checkpoint has them. -/
def State.restoreLk (g : Nat) : List LkRes → State → State
  | [], s => s
  | r :: l, s =>
    let (id, s1) := s.newId
    State.restoreLk g l { s1 with lkres := s1.lkres ++ [{ r with id := id, gen := (s1.strand g r.strand).gen, val := s.lkNow r }] }

def insertCopy (c : Copy) : List Copy → List Copy
  | [] => [c]
  | d :: r => if c.id < d.id then c :: d :: r else d :: insertCopy c r

/-- Issues the restartable copies again in their order (R98 step 2); none where a class has no descriptor left. -/
def State.reissue (g : Nat) : List Copy → State → Option State
  | [], s => some s
  | c :: r, s =>
    let core := (s.gang g).core
    match (s.core core).freeDesc c.cls with
    | none => none
    | some slot =>
      let id := s.nextId
      let s1 := s.queueCopy core slot { c with gen := (s.strand g c.strand).gen, split := 0 }
      let s2 := s1.setStrand g c.strand fun S => { S with flash := S.flash.map fun f =>
        { f with copies := f.copies.map fun k => if k = c.id then id else k } }
      State.reissue g r (if c.token = 0 || c.sched.isSome then s2 else s2.setView g c.strand 0 fun v => { v with busy := addKey v.busy c.token })

/-- Where a rewound strand starts (R98 step 3): its PC, and where its recipe code ends; none for a bad recipe entry. -/
def State.startPoint (s : State) (G : Gang) (S : Strand) : Option (BitVec 16 × Option (BitVec 16)) :=
  match S.flash with
  | none => some (S.initPc, none)
  | some f =>
    let va := (G.lrec.recipe + BitVec.ofNat 64 (8 * f.recipe)).toNat
    match s.readImage .device G.part va 8 with
    | .error _ => none
    | .ok l =>
      let x := ofLe l
      if field x 63 16 ≠ 0 then none
      else if x = 0xFFFF then some (f.next, none)
      else if x % 4 ≠ 0 then none
      else some (BitVec.ofNat 16 x, some f.next)

/-- The rewound strands start; each whose recipe entry is bad raises RECIPE and stays where it is (R98). -/
def State.startRewound (s : State) (g : Nat) : State :=
  let G := s.gang g
  let back := G.strands.filter fun t => t.2.atFlash && !t.2.exited
  let s1 := back.foldl (fun (a : State) t =>
    match s.startPoint G t.2 with
    | none => a
    | some q => a.setStrand g t.1 fun S =>
        { S with atFlash := false, committed := false, recipe := q.2, splits := S.splits.modify 0 fun X => { X with pc := q.1 } }) s
  match back.filter fun t => (s.startPoint G t.2).isNone with
  | [] => s1
  | bad => s1.faults g (bad.map fun t => { t := t.1, x := 0, pc := (t.2.flash.map Flash.next).getD 0, tr := { cause := cRECIPE } }) false tcFAULT

/-- Each start of a strand in its slot is a new generation (R86), to which its copies, bank commands and status words still to come belong (R98). -/
def State.regen (s : State) (g : Nat) (t : Nat × Strand) : State :=
  let r := s.nextGen (s.gang g).core t.2.slot
  let s1 := (r.2.setStrand g t.1 fun S => { S with gen := r.1 }).setCore (s.gang g).core fun C =>
    { C with copies := C.copies.map fun c => if c.gang = g ∧ c.strand = t.1 ∧ c.gen = t.2.gen then { c with gen := r.1 } else c,
             bank := C.bank.map fun w => if w.gang = g ∧ w.strand = t.1 ∧ w.gen = t.2.gen then { w with gen := r.1 } else w }
  { s1 with lkres := s1.lkres.map fun w => if w.gang = g ∧ w.strand = t.1 ∧ w.gen = t.2.gen then { w with gen := r.1 } else w }

/-- GANG_RESUME (R98, R103): the image or the checkpoint is restored, and the strands start or go on; an abandoned pre-emption's strands
start in place. It waits for bins and descriptors. -/
def execGangResume (s : State) : Host.Outcome State Fault Refusal :=
  let g := s.cur.g
  let G := s.gang g
  .next (
    if G.phase != .loading || G.fresh then s
    else
      let s0 := match G.savedSp with
        | some t => s.restoreSpad g t
        | none => (G.strands.filter fun (t : Nat × Strand) => t.2.atFlash && !t.2.exited).foldl (fun (a : State) t => a.regen g t) s
      let s1 := s0.setGang g fun K => K.fence s0.mem fun S => G.savedSp.isSome || S.atFlash
      let bins := match G.savedSp with
        | some _ => G.savedBins
        | none => []
      match State.restoreBins G.core bins s1 with
      | none => s
      | some s2 =>
        match State.reissue g (G.rewound.foldl (fun a c => insertCopy c a) []) s2 with
        | none => s
        | some s3 =>
          let s4 := (State.restoreLk g G.savedLk s3).setGang g fun G =>
            { G with phase := if G.suspendAt then .suspended else .running, suspendAt := false, savedSp := none, savedBins := [], savedLk := [], rewound := [] }
          (if G.suspendAt then s4 else s4.startRewound g).bringIn g G.granules)

/-! ## CHECKPOINT-N (R102) -/

/-- Whether what a gang issued before its CKPTs has drained. -/
def State.drained (s : State) (g : Nat) : Bool :=
  let G := s.gang g
  let C := s.core G.core
  !(C.copies.any fun c => c.gang == g) && !(C.forces.any fun f => f.gang == g) && !(s.bankOpen g) &&
    !(C.landing.any fun l => l.gang == g) && G.wloads.isEmpty

/-- A gang as a checkpoint holds it: stores are no part of it, and none is performed again when it is restored (R102, R257). -/
def Gang.performed (G : Gang) : Gang := { G with strands := G.strands.map fun t => (t.1, { t.2 with posted := [] }) }

/-- CHECKPOINT (R102 steps 1 and 2): the gang's full state is written, and its strands go on after CKPT. -/
def execCheckpoint (s : State) : Host.Outcome State Fault Refusal :=
  let g := s.cur.g
  .next (
    if (s.gang g).phase != .checkpointing || !(s.drained g) then s
    else
      let s1 := (s.setGang g fun G => { G with phase := .running, lapAt := [] }).releaseWait g false fun X => X.wait == some .ckpt
      let K : Gang :=
        { (s1.gang g).performed with
          savedSp := some (s1.spadOf g), savedBins := s1.binsOf g, savedLk := s1.lkres.filter fun r => r.gang == g,
          savedCl := (s1.group ((s1.gang g).group.getD 0)).bars,
          savedFly := (s1.group ((s1.gang g).group.getD 0)).inflight.filter fun a => a.1 == g,
          saveLen := (s1.gang g).checkpointLen (s1.binsOf g) }
      { s1 with ckpts := s1.ckpts.set g K })

end Sys2Proof.Machine
end

