-- ==== Sys2Proof/Machine/Layout.lean ====
section
/-! DEFINITION. Machine/Layout.lean: layout requests and scrubbing (R41-R46), context save and restore (R51), function-level reset (R52,
R53). -/

namespace Sys2Proof.Machine

open Sys2Proof

/-! ## Checking a layout request (R41, R42, R44) -/

/-- The fusion edges (R41). -/
def fusionEdges : List (Nat × Nat) :=
  [(0, 1), (2, 3), (4, 5), (6, 7), (8, 9), (10, 11), (12, 13), (14, 15), (1, 2), (3, 4), (5, 6), (9, 10), (11, 12), (13, 14), (0, 8), (1, 9),
   (2, 10), (3, 11), (4, 12), (5, 13), (6, 14), (7, 15)]

def adjacent (a b : Nat) : Bool := fusionEdges.contains (a, b) || fusionEdges.contains (b, a)

/-- Settings of a set that are reached from some of its settings in so many steps. -/
def spread (l : List Nat) : Nat → List Nat → List Nat
  | 0, seen => seen
  | k + 1, seen => spread l k (l.filter fun x => seen.contains x || seen.any (adjacent x))

/-- A nonempty set of settings that adjacent pairs connect (R42). -/
def connected (l : List Nat) : Bool :=
  match l with
  | [] => false
  | x :: _ => (spread l 16 [x]).length == l.length

/-- Partitions that a record gives settings. -/
def layParts (l : Layout) : List Nat := (List.range 16).filter fun p => laySettings l p != []

/-- A partition with a share but no settings, or with settings that are not connected. -/
def badSettings (l : Layout) : Bool :=
  (List.range 16).any fun p =>
    if laySettings l p = [] then layShare l p != 0 && (layFns l p).isEmpty else !(connected (laySettings l p))

/-- A bank window outside its partition's `.bk` space, or one that overlaps another of the same partition. One of size 0 is none, wherever its base lies
and whether or not its function is bound (DESIGN CHOICE, log entry 27). -/
def badWindows (l : Layout) : Bool :=
  (List.range 64).any fun f =>
    let w := layWindow l f
    w.2 != 0 &&
      match layFn l f with
      | none => true
      | some p =>
        decide (w.1 + w.2 > (laySettings l p).length * 2 ^ 25) ||
          (List.range 64).any fun g =>
            let v := layWindow l g
            g != f && layFn l g == some p && v.2 != 0 && decide (w.1 < v.1 + v.2) && decide (v.1 < w.1 + w.2)

def reservedBytes (l : Layout) : Bool :=
  ((List.range 80).any fun i => field (l.getD (4 + i) 0).toNat 6 4 != 0) || ((List.range 28).any fun i => l.getD (100 + i) 0 != 0)

/-- Whether a partition's settings, functions, bank windows or share differ between two records. -/
def layChanges (a b : Layout) (p : Nat) : Bool :=
  laySettings a p != laySettings b p || layFns a p != layFns b p || layShare a p != layShare b p ||
    ((layFns a p ++ layFns b p).any fun f => layWindow a f != layWindow b f)

/-- Quiescent (R44), for the functions that it has or is to have; a killed gang is there until it has exited. -/
def State.quiescent (s : State) (p : Nat) (fs : List Nat) : Bool :=
  !(s.queues.any fun q => q.2.en && fs.contains q.2.func) && !(s.gangs.any fun q => q.2.part == p && (q.2.resident || q.2.killed)) &&
    ((s.part p).lrt.all fun e => e.2.st == .free) && fs.all fun f => (s.fn f).flr == .off && (s.fn f).ctx != 1

/-- Lifecycle states in which no partition may be formed (R58). -/
def Lcs.noParts : Lcs → Bool
  | .manufacture | .debug | .retired => true
  | _ => false

/-- The status of a request: 0 if it is accepted, else that of the first condition of R44's table. In a lifecycle state without partitions
a request for one fails, with a status that R58 does not give (DESIGN CHOICE, log entry 27). -/
def State.layStatus (s : State) (n : Layout) : Nat :=
  let a := s.layout
  if badSettings n then 1
  else if (List.range 64).any (fun f => match layFn n f with
      | some p => (laySettings n p).isEmpty
      | none => false) then 2
  else if (List.range 16).foldl (fun x p => x + layShare n p) 0 > 64 then 3
  else if badWindows n then 4
  else if (List.range 16).any (fun p => layChanges a n p && !(s.quiescent p (layFns a p ++ layFns n p))) then 5
  else if reservedBytes n then 6
  else if s.sec.lcs.noParts && layParts n != [] then 1 + Config.freeNat (s.choice 71) % 6
  else 0

/-! ## The flip (R45) -/

/-- A record with a SEQ. -/
def withSeq (l : Layout) (seq : Nat) : Layout := tblPut l 0 (leBytes 4 seq)

def laySeq (l : Layout) : Nat := ofLe (tblBytes l 0 4)

/-- What one generation of a partition's key does to the measurements (R55; PRESUMED, log entry 12). -/
def Sec.newKey (c : Sec) (p : Nat) : Sec :=
  let n := c.keyGens.getD p 0 + 1
  ({ c with keyGens := c.keyGens.set p n } : Sec).extend (16 + p) (BitVec.ofNat 8 p :: leBytes 8 n)

/-- The partition is gone, with its gangs and the marks held for them (R45, R79), and what it translated is no longer its own (R176). -/
def State.unform (s : State) (p : Nat) : State :=
  let marked := fun (C : Core) => (C.drain.map fun g => s.partOf g == p).getD false
  { s with cores := s.cores.map fun c => if marked c.2 then (c.1, { c.2 with drain := none }) else c,
           parts := s.parts.erase p, gangs := s.gangs.filter fun g => g.2.part != p, ckpts := s.ckpts.filter fun g => g.2.part != p,
           lkres := s.lkres.filter fun r => r.part != p,
           trans := s.trans.map fun e => { e with vis := e.vis &&& ~~~(BitVec.ofNat 16 (2 ^ p)), busy := e.busy.filter (· != p) } }

/-- A partition that is new, or whose settings have changed. -/
def State.form (s : State) (p : Nat) (ks : List Nat) : State :=
  { s with parts := s.parts.set p (Part.formed (setmaskOf ks)), sec := s.sec.newKey p }

/-- The flip of the selector, from one record to another (R45). -/
def State.flipped (s : State) (a n : Layout) : State :=
  let moved := (List.range 16).filter fun k => laySetting a k != laySetting n k
  let ps := (List.range 16).filter fun p => laySettings a p != laySettings n p
  let keyed := (List.range 16).filter fun k => ps.any fun p => (laySettings a p).contains k || (laySettings n p).contains k
  let s1 := { s with mem := keyed.foldl (fun m k => m.rekey k) s.mem, sec := s.sec.extend 2 (tblBytes n 0 384) }
  let s2 := s1.setPkg fun P => { P with scrub := moved.foldl (fun a k => a ||| BitVec.ofNat 16 (2 ^ k)) P.scrub }
  let s3 := ps.foldl (fun (x : State) p => x.unform p) s2
  (ps.filter fun p => laySettings n p != []).foldl (fun x p => x.form p (laySettings n p)) s3

/-- Phase 1: the request is written to the inactive copy; SEQ last. -/
def State.writeCopy (s : State) (n : Layout) : State :=
  s.setPkg fun P => if P.layActB then { P with layA := n } else { P with layB := n }

/-- Phase 2. -/
def State.flip (s : State) (n : Layout) : State :=
  (s.setPkg fun P => { P with layActB := !P.layActB, layFlipped := true }).flipped s.layout n

/-- Reports a status; a request is open no longer. -/
def State.layReport (s : State) (st : Nat) : State :=
  (s.setPkg fun P => { P with layGo := false, layStat := st, layFlipped := false }).logItem (.layout st)

/-- Whether a watchdog reset of the MP is due. -/
def State.watchdogDue (s : State) : Bool := s.stim.any fun e => e.ev == .mpWatchdogReset && decide (e.due ≤ s.stepNo)

/-- Limran's work on the open request: all of it, or as far as it gets before a watchdog reset strikes (R46; DEDUCED, log entry 27). -/
def State.layWork (s : State) : State :=
  let st := s.layStatus s.pkg.layReq
  let n := withSeq s.pkg.layReq (laySeq s.layout + 1)
  let far := if s.watchdogDue then Config.freeNat (s.choice 70) % 4 else 4
  if st ≠ 0 then (if far = 4 then s.layReport st else s)
  else if far = 0 then s
  else
    let old := if s.pkg.layActB then s.pkg.layA else s.pkg.layB
    if far = 1 then s.writeCopy (withSeq n (laySeq old))
    else if far = 2 then s.writeCopy n
    else if far = 3 then (s.writeCopy n).flip n
    else ((s.writeCopy n).flip n).layReport 0

/-- LAYCTL_GO (R44, R45, R46): the request record is submitted; while Limran is down it stays open. -/
def execLayctlGo (s : State) : Host.Outcome State Fault Refusal :=
  .next (
    if !s.pf0Open || s.pkg.layGo then s
    else
      let s1 := s.setPkg fun P => { P with layGo := true }
      if s.pkg.mpUp then s1.layWork else s1)

/-- SCRUB_COMPLETE (R45). -/
def execScrubComplete (s : State) : Host.Outcome State Fault Refusal :=
  let k := s.cur.g
  .next (
    if !(s.pkg.scrub.getLsbD k) then s
    else
      let inside := fun a => decide (bankBase + k * 2 ^ 25 ≤ a ∧ a < bankBase + (k + 1) * 2 ^ 25) ||
        decide (spAddr (128 * k) 0 ≤ a ∧ a < spBase + 128 * (k + 1) * 2 ^ 18)
      { s.setPkg fun P => { P with scrub := P.scrub &&& ~~~(BitVec.ofNat 16 (2 ^ k)) } with
        mem := s.mem.scrub inside,
        cores := s.cores.map fun (c : Nat × Core) => if settingOfCore c.1 = k then (c.1, c.2.cleared) else c })

/-! ## Context save and restore (R51) -/

/-- A function's queues. -/
def State.queuesOf (s : State) (f : Nat) : List Nat := (s.queues.map Prod.fst).filter fun q => s.owns f q

/-- Gangs launched from a function's queues. -/
def State.launchedBy (s : State) (f : Nat) : List Nat :=
  s.gangs.filterMap fun g => match g.2.queue with
    | some q => if s.owns f q then some g.1 else none
    | none => none

/-- A gang is taken off its core for a save (R51 step 2). -/
def State.putAside (s : State) (g : Nat) : State :=
  match (s.gang g).phase with
  | .running | .checkpointing | .loading => s.preemptGang g
  | _ => s

/-- The state word of a context image: 1 writing, 2 valid, 3 invalid. -/
def State.markImage (s : State) (f st : Nat) : Option State :=
  match s.fnPart f with
  | none => none
  | some p =>
    match s.writeVa p (s.fn f).ctxva.toNat (leBytes 4 st) with
    | .ok s' => some s'
    | .error _ => none

def State.setCtx (s : State) (f ctx op : Nat) : State := s.setFn f fun F => { F with ctx := ctx, ctxOp := op }

def State.stopQueues (s : State) (f : Nat) (on : Bool) : State := (s.queuesOf f).foldl (fun a q => a.setQueue q fun Q => { Q with stop := on }) s

/-- CONTEXT_SAVE (R51): a write of 1 to CTXCTL.OP. A save whose image cannot be written at its start ends at once with CTX 3 (DESIGN CHOICE, log entry 28). -/
def execContextSave (f : Nat) (s : State) : Host.Outcome State Fault Refusal :=
  .next (
    if !(s.barOpen f) || (s.fn f).ctx = 1 then s
    else match s.markImage f 1 with
      | none => s.setCtx f 3 1
      | some s1 => (s.launchedBy f).foldl (fun a g => a.putAside g) ((s1.setCtx f 1 1).stopQueues f true))

/-- Whether a gang is ready to go into an image: off its core, or suspended with nothing under way but copies; its bank commands have completed, so that a
reset still waits for them (R52, R137). -/
def State.setAside (s : State) (g : Nat) : Bool :=
  let G := s.gang g
  let C := s.core G.core
  !(s.bankOpen g) && match G.phase with
  | .walk | .placer | .saved => true
  | .suspended => !(C.forces.any fun f => f.gang == g) && !(C.landing.any fun l => l.gang == g) && G.wloads.isEmpty
  | _ => false

/-- A suspended gang as the image holds it (R112): its copies are issued again when it is restored. -/
def State.frozen (s : State) (g : Nat) : Gang :=
  let G := s.gang g
  if G.phase = .suspended then
    { G.atPlacer s.cycle .saved with
      suspendAt := true, savedSp := some (s.spadOf g), savedBins := s.binsOf g, savedLk := s.lkres.filter fun r => r.gang == g,
      rewound := G.rewound ++ (((s.core G.core).copies.filter fun c => c.gang == g).map Copy.anew) }
  else G

/-- A gang leaves the machine for an image. -/
def State.takeAway (s : State) (g : Nat) : State :=
  let G := s.gang g
  let s1 := if G.charged then s.freeGang g else s
  let s2 := (s1.cancelCopies G.core fun c => c.gang == g).leaveGroup g
  ({ s2 with gangs := s2.gangs.erase g, ckpts := s2.ckpts.erase g, lkres := s2.lkres.filter fun r => r.gang != g } : State).unmark g

/-- The bytes of a valid image: its state, its length in 4 KiB units, and the rest, which is meaningful only to a restore (R51). -/
def imageOf (id : Nat) : List Byte :=
  let rest := Config.imageBytes id
  leBytes 4 2 ++ leBytes 4 ((rest.length + 8 + 4095) / 4096) ++ rest

/-- CONTEXT_SAVE_COMPLETE (R51, R64): the queues' commands and their gangs are in the image, and no longer on the device; an image that cannot be written
ends the save with CTX 3, and the queues go on; a gang whose pre-emption is abandoned (R96) runs on, and the save waits until it has exited (DESIGN
CHOICE, log entry 28). -/
def execContextSaveComplete (s : State) : Host.Outcome State Fault Refusal :=
  let f := s.cur.g
  let F := s.fn f
  let gs := s.launchedBy f
  .next (
    if F.ctx ≠ 1 || F.ctxOp ≠ 1 || F.flr != .off || !(gs.all s.setAside) ||
        s.gangs.any (fun g => g.2.queue.isNone && g.2.fn == f) then s
    else
      let p := (s.fnPart f).getD 0
      let (id, s0) := s.newId
      match s0.writeVa p F.ctxva.toNat (imageOf id) with
      | .error _ => (s.setCtx f 3 1).stopQueues f false
      | .ok s1 =>
        let image : CtxImage := { id := id, part := p, queues := s.queues.filter fun q => s.owns f q.1,
                                  gangs := gs.map fun g => (g, s.frozen g), ckpts := s.ckpts.filter fun g => gs.contains g.1,
                                  groups := s.groups.filter fun k => k.2.gangs.any gs.contains }
        let s2 := gs.foldl (fun a g => a.takeAway g) s1
        let s3 := (s.queuesOf f).foldl (fun a q => a.setQueue q fun Q => { Q with cmds := [] }) s2
        { s3.setCtx f 2 1 with ctxs := image :: s3.ctxs })

/-- CONTEXT_RESTORE (R51): a write of 2 to CTXCTL.OP; an image whose state is not 2 fails it, and so does one that cannot be read (DESIGN CHOICE, log
entry 28). -/
def execContextRestore (f : Nat) (s : State) : Host.Outcome State Fault Refusal :=
  .next (
    if !(s.barOpen f) || (s.fn f).ctx = 1 then s
    else match s.readVa ((s.fnPart f).getD 0) (s.fn f).ctxva.toNat 4 with
      | .error _ => s.setCtx f 3 2
      | .ok l => if ofLe l = 2 then s.setCtx f 1 2 else s.setCtx f 3 2)

/-- Arrivals of saved gangs under new numbers. -/
def renumberBars (d : Nat) (bars : Tbl Bar) : Tbl Bar := bars.map fun b => (b.1, { b.2 with who := b.2.who.map (· + 32 * d) })

/-- A saved gang under new numbers. -/
def Gang.renumber (G : Gang) (d now : Nat) : Gang :=
  { G with group := G.group.map (· + d), waitFrom := now, savedLk := G.savedLk.map fun r => { r with gang := r.gang + d },
           savedBins := G.savedBins.map fun b => { b with gang := b.gang + d }, rewound := G.rewound.map fun c => { c with gang := c.gang + d },
           savedCl := renumberBars d G.savedCl, savedFly := G.savedFly.map fun a => (a.1 + d, a.2) }

/-- An INVOKE that waits in an image: its status if its locket has settled meanwhile, and one that the manual leaves open if the entry is of another
generation or partition by now (R29; DESIGN CHOICE, log entry 28). -/
def State.invokeNow (s : State) (p : Nat) (m : CtxImage) (c : Cmd) : Cmd :=
  match c.kind with
  | .invoke va st en ge =>
    let e := s.entry p en
    if st ≠ 0 then c
    else if p ≠ m.part || e.st == .free || e.proxy || e.genA != ge then
      { c with kind := .invoke va (BitVec.ofNat 64 (Config.freeNat (s.choice (2 ^ 67 + en)) % (2 ^ 64 - 1) + 1)) en ge }
    else if e.live then c else { c with kind := .invoke va (statusWord en e) en ge }
  | _ => c

/-- Re-creates the queues and gangs of an image; numbers that named the saved gangs name their copies. A gang whose queue is no longer the function's
is re-created all the same (DESIGN CHOICE, log entry 28). -/
def State.recreate (s : State) (f : Nat) (m : CtxImage) : State :=
  let d := s.nextId
  let qs := m.queues.filter fun q => s.owns f q.1
  let p := (s.fnPart f).getD 0
  let home := fun (G : Gang) => { G.renumber d s.cycle with part := p, fn := f }
  { s with
    nextId := 2 * d,
    queues := qs.foldl (fun (a : Tbl Queue) q => a.set q.1 { q.2 with bound := none, idle := none, stop := false, cmds := q.2.cmds.map (s.invokeNow p m) })
      s.queues,
    gangs := m.gangs.foldl (fun (a : Tbl Gang) g => a.set (g.1 + d) (home g.2)) s.gangs,
    ckpts := m.ckpts.foldl (fun (a : Tbl Gang) g => a.set (g.1 + d) (home g.2)) s.ckpts,
    groups := m.groups.foldl (fun (a : Tbl Group) k =>
      a.set (k.1 + d) { k.2 with gangs := (k.2.gangs.filter fun g => (m.gangs.get? g).isSome).map (· + d), bars := renumberBars d k.2.bars,
                                      inflight := (k.2.inflight.filter fun a => (m.gangs.get? a.1).isSome).map fun a => (a.1 + d, a.2) }) s.groups,
    parts := if p ≠ m.part then s.parts else s.parts.modify p fun P => { P with lrt := P.lrt.map fun e =>
      (e.1, { e.2 with gang := e.2.gang.map fun g => if (m.gangs.get? g).isSome then g + d else g }) } }

/-- The image that stands at a function's CTXVA: what the latest save that wrote these bytes took (R51). -/
def State.imageAtVa (s : State) (f : Nat) : Option CtxImage :=
  s.ctxs.find? fun x =>
    let rest := Config.imageBytes x.id
    match s.readVa ((s.fnPart f).getD 0) ((s.fn f).ctxva.toNat + 8) rest.length with
    | .ok l => l == rest
    | .error _ => false

/-- CONTEXT_RESTORE_COMPLETE (R51): bytes that no save wrote re-create nothing (DESIGN CHOICE, log entry 28). -/
def execContextRestoreComplete (s : State) : Host.Outcome State Fault Refusal :=
  let f := s.cur.g
  let F := s.fn f
  .next (
    if F.ctx ≠ 1 || F.ctxOp ≠ 2 || F.flr != .off then s
    else
      let s1 := s.setCtx f 2 2
      match s.imageAtVa f with
      | none => s1
      | some m => s1.recreate f m)

/-! ## Function-level reset (R52, R53) -/

/-- Every entry of a partition's table is tarnished and freed (R52 step 1). -/
def State.clearLrt (s : State) (p : Nat) : State :=
  let all := (s.part p).lrt.map Prod.fst
  let s1 := s.tarnish p all tcFLR
  all.foldl (fun a i =>
    let e := a.entry p i
    if e.st = .free then a
    else if e.proxy then
      (let a1 := if e.rel then a else
         a.send 5 e.peer { MsgHdr.blank with spart := p, dpart := e.ppart, hidx := e.peerIdx, hgen := e.peerGen, pidx := i, pgen := e.gen, cause := tcFLR }
       a1.setEntry p i fun e => Lrt.freshEntry (Sys2Proof.Machine.nextGen e.gen))
    else (a.sendRelease p i).freeHome p i) s1

/-- Gangs that a reset of a function kills: launched from its queues, or invoked of its exports (R52, R64). -/
def State.gangsOfFn (s : State) (f : Nat) : List Nat := s.gangs.filterMap fun g => if g.2.fn == f then some g.1 else none

/-- A gang that is killed: one that holds nothing of a core and has no bank command running leaves at once. -/
def State.flrGang (s : State) (g : Nat) : State :=
  let s1 := s.killGang g tcFLR
  if (s.gang g).charged || s.bankOpen g then s1 else s1.exitGang g

/-- FLR step 1 (R52, R53): the lockets that it tarnishes are tarnished in one step (R71). A reset under way takes a second one in. -/
def State.startFlr (s : State) (f : Nat) : State :=
  let F := s.fn f
  if F.flr != .off then s
  else
    let s0 := if F.ctx = 1 && F.ctxOp = 1 then (s.markImage f 3).getD s else s
    let s1 := s0.setFn f fun F => { F with flr := .drain s.cycle, ctx := 0, attStatus := 0, attCap := none }
    let s2 := (s.queuesOf f).foldl (fun a q => a.setQueue q fun Q => { Q with bound := none, idle := none, stop := false, cmds := [] }) s1
    match s.fnPart f with
    | none => (s.gangsOfFn f).foldl (fun a g => a.flrGang g) s2
    | some p =>
      let only := decide (layFns s.layout p = [f])
      let s3 := s2.tarnish p (if only then (s.part p).lrt.map Prod.fst else (s.gangsOfFn f).flatMap (s.issuedBy p)) tcFLR
      let s4 := (s.gangsOfFn f).foldl (fun a g => a.flrGang g) s3
      if only then s4.clearLrt p else s4

def execFlr (f : Nat) (s : State) : Host.Outcome State Fault Refusal := .next (if s.presented f then s.startFlr f else s)

/-- VF_ENABLE_CLEAR (R52): every VF is reset, and none is presented any more. -/
def execVfEnableClear (s : State) : Host.Outcome State Fault Refusal :=
  let vfs := (spanOf 1 63).filter fun f => (s.fn f).vfOn
  .next (if !(s.presented 0) then s else vfs.foldl (fun (a : State) f => (a.startFlr f).setFn f fun F => { F with vfOn := false }) s)

/-- Whether a bank command of a function's gangs, gone ones among them, has issued and not completed (R137). -/
def State.fnBanks (s : State) (f : Nat) : Bool := s.cores.any fun c => c.2.bank.any fun w => w.fn == f

/-- FLR_DRAIN_END (R52 step 2): no request of the function's gangs is outstanding, or 1 ms has passed, which is 1.7 million cycles at the
full clock. -/
def execFlrDrainEnd (s : State) : Host.Outcome State Fault Refusal :=
  let f := s.cur.g
  .next (
    match (s.fn f).flr with
    | .drain since =>
      if s.cycle < since + 1700000 && ((s.gangsOfFn f).any (fun g => !(s.gangDone g)) || s.fnBanks f) then s
      else s.setFn f fun F => { F with flr := .scrub }
    | _ => s)

/-- The offset in a partition's `.bk` space of a bank byte, if it is the partition's (the inverse of `bankAddr`, R115). -/
def shareOf (settings : List Nat) (a : Nat) : Option Nat :=
  let x := a - bankBase
  let k := x / 2 ^ 25
  let y := x % 2 ^ 25
  if a < bankBase || decide (a ≥ spBase) then none
  else (firstFrom (fun i => settings.getD i 16 == k) settings.length 0).map fun i =>
    i * 2 ^ 25 + y % 2 ^ 18 / 64 * 2 ^ 13 + y / 2 ^ 18 * 64 + y % 64

/-- What a reset zeroes of banks and scratchpads (R52 step 3). -/
def State.flrZeroes (s : State) (f a : Nat) : Bool :=
  (match s.fnPart f with
   | none => false
   | some p =>
     let w := layWindow s.layout f
     match shareOf (s.settings p) a with
     | some o => decide (w.1 ≤ o ∧ o < w.1 + w.2)
     | none => false) ||
    (s.gangsOfFn f).any fun g =>
      let G := s.gang g
      let base := spAddr G.core (G.spUnit * 1024)
      G.charged && decide (base ≤ a ∧ a < base + G.lrec.spad)

/-- The scrub and the end of a reset (R52 steps 3 and 4). An invocation that the exporter accepted, or that started, while its reset ran has a gang that
goes with the others now (DESIGN CHOICE, log entry 20). -/
def State.endFlr (s : State) (f : Nat) : State :=
  let s1 := { s with mem := s.mem.scrub (s.flrZeroes f) }
  let s2 := (s.gangsOfFn f).foldl (fun a g => ((if (a.gang g).killed then a else a.killGang g tcFLR).purgeGang g).exitGang g) s1
  let s3 := (s.queuesOf f).foldl (fun a q => a.setQueue q fun Q => { Queue.reset with valid := Q.valid, func := Q.func, nextCmd := Q.nextCmd }) s2
  s3.setFn f fun F => Fn.reset F.vfOn

/-- FLR_COMPLETE (R52). -/
def execFlrComplete (s : State) : Host.Outcome State Fault Refusal :=
  .next (if (s.fn s.cur.g).flr != .scrub then s else s.endFlr s.cur.g)

end Sys2Proof.Machine
end

