-- ==== Sys2Proof/Machine/Fabric.lean ====
section
/-! DEFINITION. Machine/Fabric.lean: torc links and flits (R13-R15), messages between packages (R61-R64, R67-R71, R73), copies from other
packages and their answers (R74). -/

namespace Sys2Proof.Machine

open Sys2Proof

/-! ## Links and flits (R14, R15) -/

def State.setLink (s : State) (l : Nat) (f : Link → Link) : State :=
  s.setPkg fun P => { P with links := P.links.set l (f (P.links.getD l Link.reset)) }

/-- A flit has come on a link: the link sequence advances, and no replay is failing. -/
def State.flitOn (s : State) (l : Option Nat) : State :=
  match l with
  | some n => s.setLink n fun L => { L with rxSeq := L.rxSeq + 1, replays := 0 }
  | none => s

/-- A flit from a package has come: a declaration against it lapses (R73). -/
def State.hear (s : State) (d : Nat) : State :=
  if d = s.pkg.pkgid then s else s.setPeer d fun P => { P with heard := s.cycle, unreach := false }

/-- A flit with a payload of a package; it is taken to come on the link on which this package sends to it (DEDUCED, log entry 29). -/
def State.flitFrom (s : State) (d : Nat) : State := (s.flitOn (if d = s.pkg.pkgid then none else s.route d)).hear d

/-- Changes one request of a copy, named by its tag. -/
def State.setReq (s : State) (core : Nat) (c : Copy) (r : RemReq) (g : RemReq → RemReq) : State :=
  s.setCore core fun C => { C with copies := C.copies.map fun (d : Copy) =>
    if d.id = c.id then { d with rem := d.rem.map fun (q : RemReq) => if q.tag = r.tag then g q else q } else d }

/-- An open request of a copy that went out on link `dead` goes out again on the alternate route (R74); it fails where there is none, or where the
package takes nothing but keep-alives (R73). -/
def State.reroute (dead core : Nat) (c : Copy) (s : State) (r : RemReq) : State :=
  if decide (r.got ≥ r.bytes) || r.status != 0 || r.link != dead then s
  else
    match (if (s.peer r.pkg).unreach then none else s.route r.pkg) with
    | none => s.setReq core c r fun q => { q with status := 7 }
    | some l =>
      let skip := if r.write then 0 else r.got
      let f : CopyFlit := { src := s.pkg.pkgid, spart := (s.gang c.gang).part, dpart := r.part, va := BitVec.ofNat 64 (r.va + skip),
                            bytes := r.bytes - skip, tag := r.tag, core := core, off := 0, status := 0, data := if r.write then r.data else [] }
      (s.setReq core c r fun q => { q with link := l }).emit (.copy l r.pkg (if r.write then 0xA else 0x8) f)

def State.rerouteCopies (s : State) (dead : Nat) : State :=
  s.cores.foldl (fun (a : State) (C : Nat × Core) =>
    C.2.copies.foldl (fun (a : State) (c : Copy) => c.rem.foldl (State.reroute dead C.1 c) a) a) s

/-- A link is declared down; what waited for its slots is lost (R14, R73, R74). -/
def State.dropLink (s : State) (l : Nat) : State :=
  ((s.setLink l fun L => { L with up := false, replays := 0 }).setPkg fun P => { P with out := P.out.filter fun f => f.link != l }).rerouteCopies l

/-! ## Transmit slots (R13-R15, R48) -/

/-- The flit type (R15). -/
def OutFlit.ty : OutFlit → Nat
  | .msg _ m => m.ty
  | .ack .. => 7
  | .keepAlive .. => 0xC
  | .copy _ _ t _ => t

/-- The virtual channel (R15). -/
def OutFlit.vc : OutFlit → Nat
  | .msg _ m => if m.ty = 1 then 0 else 1
  | .ack _ _ v _ _ _ => v
  | .copy .. => 2
  | .keepAlive .. => 3

/-- The partition of PART (R15), and the partition whose slots a flit takes; a keep-alive is no partition's. -/
def OutFlit.parts : OutFlit → Nat × Nat
  | .msg _ m => (m.h.dpart, m.h.spart)
  | .ack _ _ _ d p _ => (d, p)
  | .copy _ _ _ c => (c.dpart, c.spart)
  | .keepAlive .. => (0, 0)

/-- Whose slot n of a frame is (R48): the shares one after another in ascending partition number, the rest no one's; the 65th is virtual
channel 3's (the order within a frame is a DESIGN CHOICE, log entry 37). -/
def slotOwner (l : Layout) (n : Nat) : Option Nat :=
  (List.range 16).find? fun p =>
    let before := (List.range p).foldl (fun a q => a + layShare l q) 0
    decide (before ≤ n ∧ n < before + layShare l p)

/-- Whether a waiting flit may take slot n. -/
def OutFlit.mayTake (f : OutFlit) (l : Layout) (n : Nat) : Bool :=
  if n = 64 then f.vc == 3 else f.vc != 3 && slotOwner l n == some f.parts.2

/-- Whether a flit may leave at all: to a package declared unreachable nothing goes but keep-alives (R69, R73). -/
def State.mayLeave (s : State) (f : OutFlit) : Bool :=
  match f.dst with
  | some d => !(s.peer d).unreach
  | none => true

/-- One transmit slot of a link (R48): the first waiting flit that may take it goes out under the next link sequence number (R14); a slot that
none takes goes unused. -/
def State.slot (s : State) (l : Nat) : State :=
  let L := s.pkg.links.getD l Link.reset
  let mine := fun f => f.link == l && s.mayLeave f && OutFlit.mayTake f s.layout (L.slot % 65)
  let s1 := s.setLink l fun L => { L with slot := (L.slot + 1) % 65 }
  match s.pkg.out.find? mine with
  | none => s1
  | some f =>
    (s1.setLink l fun L => { L with txSeq := L.txSeq + 1 }).setPkg fun P =>
      { P with out := P.out.erase f, sent := P.sent ++ [{ seq := L.txSeq, content := f }] }

/-- The links that have a flit waiting. -/
def State.slotLinks (s : State) : List Nat :=
  (List.range 16).filter fun l => (s.pkg.links.getD l Link.reset).up && s.pkg.out.any fun f => f.link == l && s.mayLeave f

/-- Whether an interrupt waits for the host link that may go: one of a function that is presented (R11, R49). -/
def State.hostWaits (s : State) (f : Nat) : Bool := s.presented f && s.pkg.msixOut.any fun m => m.1 == f

/-- The host link serves the functions in round robin, one flit at a time (R48): the next interrupt goes out. Requests to host memory are performed
by the step that makes them (log entry 37). -/
def State.hostFlit (s : State) : State :=
  match (List.range 64).find? fun i => s.hostWaits ((s.pkg.hostRr + 1 + i) % 64) with
  | none => s
  | some i =>
    let f := (s.pkg.hostRr + 1 + i) % 64
    match s.pkg.msixOut.find? fun m => m.1 == f with
    | none => s
    | some m => s.setPkg fun P => { P with hostRr := f, msixOut := P.msixOut.erase m, hostOut := P.hostOut ++ [m] }

/-! ## The bytes of a flit (R14, R74) -/

/-- The 32 bytes of a message header. -/
def MsgHdr.bytes (h : MsgHdr) : List Byte :=
  leBytes 4 h.mseq.toNat ++ leBytes 2 (h.src % 4096 + h.spart % 16 * 4096) ++ leBytes 2 h.hidx ++ leBytes 3 h.hgen ++
    [BitVec.ofNat 8 ((if h.addressed then 1 else 0) + (if h.host then 2 else 0))] ++ leBytes 2 h.pidx ++ leBytes 3 h.pgen ++ [h.cause] ++
    leBytes 2 h.fidx ++ leBytes 1 h.alen ++ leBytes 3 0 ++ leBytes 2 h.aseq ++ leBytes 6 0

/-- The header that 32 bytes hold, for a partition of this package. -/
def MsgHdr.ofBytes (dpart : Nat) (l : List Byte) : MsgHdr :=
  { mseq := BitVec.ofNat 32 (leAt l 0 4), src := leAt l 4 2 % 4096, spart := leAt l 4 2 / 4096, dpart := dpart, hidx := leAt l 6 2,
    hgen := leAt l 8 3, addressed := leAt l 11 1 % 2 == 1, host := leAt l 11 1 / 2 % 2 == 1, pidx := leAt l 12 2, pgen := leAt l 14 3,
    cause := BitVec.ofNat 8 (leAt l 17 1), fidx := leAt l 18 2, alen := leAt l 20 1, aseq := leAt l 24 2,
    args := sliceB l 32 (min (leAt l 20 1) 64), rva := BitVec.ofNat 64 (leAt l 32 8), rlen := BitVec.ofNat 32 (leAt l 40 4) }

/-- A message's payload, header and body. -/
def Msg.payload (m : Msg) : List Byte :=
  let body := if m.ty ≤ 2 then sliceB (sliceB m.h.args 0 (min m.h.alen 64)) 0 64
    else if m.ty = 4 then leBytes 8 m.h.rva.toNat ++ leBytes 4 m.h.rlen.toNat else []
  sliceB (MsgHdr.bytes m.h ++ body) 0 240

/-- A copy flit's payload. -/
def CopyFlit.payload (c : CopyFlit) (ty : Nat) : List Byte :=
  let who := leBytes 2 (c.src % 4096 + c.spart % 16 * 4096)
  sliceB (
    if ty = 8 then leBytes 8 c.va.toNat ++ leBytes 4 c.bytes ++ who ++ leBytes 2 c.tag ++ leBytes 2 c.core
    else if ty = 9 then leBytes 2 c.tag ++ leBytes 2 c.core ++ leBytes 2 c.off ++ leBytes 2 c.bytes ++ [c.status] ++ leBytes 7 0 ++ c.data
    else if ty = 0xA then leBytes 8 c.va.toNat ++ leBytes 2 c.bytes ++ who ++ leBytes 2 c.tag ++ leBytes 2 c.core ++ c.data
    else leBytes 2 c.tag ++ leBytes 2 c.core ++ [c.status] ++ leBytes 3 0 ++ leBytes 4 c.bytes) 0 240

/-- The 240 bytes of a flit's payload; `pkg` is the sending package. -/
def OutFlit.payload (pkg : Nat) : OutFlit → List Byte
  | .msg _ m => m.payload
  | .ack _ _ _ _ p mseq => sliceB (MsgHdr.bytes { MsgHdr.blank with mseq := mseq, src := pkg, spart := p }) 0 240
  | .keepAlive .. => sliceB (leBytes 2 (pkg % 4096)) 0 240
  | .copy _ _ ty c => CopyFlit.payload c ty

/-- The 256 bytes of a transmitted flit (R14). -/
def Flit.bytes (pkg : Nat) (f : Flit) : List Byte :=
  let c := f.content
  let d := match c with
    | .keepAlive _ d => d
    | x => x.dst.getD 0
  let front := leBytes 3 0 ++ [BitVec.ofNat 8 (c.parts.1 % 16 * 16 + c.ty % 16)] ++ leBytes 2 (c.vc * 4096 + d % 4096) ++ leBytes 2 f.seq.toNat ++
    c.payload pkg
  front ++ leBytes 8 (Config.crc64 front).toNat

/-- FLIT_CRC_FAILURE (R14): the flit is asked for again from its sequence number, which is the link layers' own and takes no flit's place; a ninth failure in a row is the eighth failed replay. -/
def execFlitCrcFailure (link : Nat) (s : State) : Host.Outcome State Fault Refusal :=
  let L := s.pkg.links.getD link Link.reset
  .next (
    if !L.up then s
    else if L.replays ≥ 8 then s.dropLink link
    else s.setLink link fun L => { L with replays := L.replays + 1, asks := L.asks ++ [L.rxSeq] })

def execLinkDown (link : Nat) (s : State) : Host.Outcome State Fault Refusal := .next (s.dropLink link)

/-- LINK_UP (R73): traffic leaves on the primary link again; a declaration stands until a flit comes. The link sequence numbers stay as they
were (DESIGN CHOICE, log entry 29). -/
def execLinkUp (link : Nat) (s : State) : Host.Outcome State Fault Refusal := .next (s.setLink link fun L => { L with up := true, replays := 0 })

/-- IDLE_FLIT (R15): the link sequence does not advance; an idle flit is no replay, so it ends no run of failed ones (R14). -/
def execIdleFlit (_link src : Nat) (s : State) : Host.Outcome State Fault Refusal := .next (s.hear src)

/-- Whether R15 gives a flit type a virtual channel. -/
def typeOnVc (ty vc : Nat) : Bool :=
  if ty = 0 then true
  else if ty = 1 then vc == 0
  else if ty ≤ 6 then vc == 1
  else if ty = 7 then vc == 0 || vc == 1
  else if ty ≤ 0xB then vc == 2
  else if ty ≤ 0xD then vc == 3
  else false

/-- RESERVED_FLIT_TYPE (R15): discarded and counted. -/
def execReservedFlitType (link vc ty : Nat) (s : State) : Host.Outcome State Fault Refusal :=
  .next (
    if typeOnVc (ty % 16) (vc % 4) then s
    else
      let n := satInc (s.pkg.links.getD link Link.reset).perr
      ((s.flitOn (some link)).setLink link fun L => { L with perr := n }).logItem (.protocolError link))

/-- MANAGEMENT_FLIT (R15): Limran's own. -/
def execManagementFlit (src : Nat) (payload : List Byte) (s : State) : Host.Outcome State Fault Refusal :=
  .next ((s.flitFrom src).logItem (.management src payload))

/-! ## The location's side: invocations (R62-R64, R70) -/

/-- An exported entry (R63). -/
structure Eft where
  lrec   : Nat
  rbase  : DWord
  rlog2  : Nat
  maxarg : Nat
  flags  : Nat
  cpkg   : Nat
  cpkgm  : Nat
  cpart  : Nat
deriving DecidableEq, Repr

def eftOf (l : List Byte) : Eft :=
  { lrec := leAt l 0 8, rbase := BitVec.ofNat 64 (leAt l 8 8), rlog2 := leAt l 16 1, maxarg := leAt l 17 1, flags := leAt l 18 1,
    cpkg := leAt l 20 2, cpkgm := leAt l 22 2, cpart := leAt l 24 2 }

/-- Whether an entry is off, or malformed. -/
def eftBad (l : List Byte) : Bool :=
  let e := eftOf l
  e.flags % 2 == 0 || e.flags ≥ 4 || leAt l 19 1 != 0 || leAt l 26 6 != 0 || e.cpkg ≥ 4096 || e.cpkgm ≥ 4096 || e.rlog2 < 3 || e.rlog2 > 16 ||
    e.maxarg > 64

/-- R63: what an invocation launches, or none where it is refused. -/
def State.admitInv (s : State) (m : MsgHdr) : Option (Eft × LRec × Nat) :=
  let p := m.dpart
  let P := s.part p
  let ctl := P.eftctl.toNat
  match s.exporter p with
  | none => none
  | some f =>
    if field ctl 16 16 = 0 ∨ m.fidx ≥ field ctl 15 0 then none
    else
      match s.readVa p (P.eftbase.toNat + 32 * m.fidx) 32 with
      | .error _ => none
      | .ok l =>
        let e := eftOf l
        let up := s.entry p m.pidx
        if eftBad l || (m.addressed && e.flags / 2 % 2 == 0) || m.src &&& e.cpkgm != e.cpkg &&& e.cpkgm || field e.cpart m.spart m.spart = 0 ||
            decide (m.alen > e.maxarg) || ((s.fn f).ctx == 1 && (s.fn f).ctxOp == 1) || s.storeFull p ||
            (m.addressed && (up.st == .free || !up.proxy || up.gen != m.pgen)) then none
        else
          match s.readLaunch p e.lrec (fun r => if (P.regions.get? r).isSome then none else some 6) with
          | .error _ => none
          | .ok R =>
            if !(withinBudgets P.regions R.region R.demand true) then none
            else (s.freeEntry p).map fun i => (e, R, i)

/-- The argument bytes as the eight values of s8 to s15 (R64). -/
def argWords (l : List Byte) : List DWord := (List.range 8).map fun i => BitVec.ofNat 64 (ofLe (sliceB l (8 * i) 8))

/-- The gang of an accepted invocation comes to the region walk (R64). -/
def State.startInvoked (s : State) (p i : Nat) : State :=
  let e := s.entry p i
  match e.lrec with
  | none => s
  | some R =>
    let (g, s1) := s.newId
    let up := (e.upProxy).map fun u => s.entry p u
    let G : Gang := { Gang.empty with
      part := p, fn := (s.exporter p).getD 0, region := R.region, lrec := { R with args := e.args }, proxy := some i,
      locket := mkLocket e.peer e.ppart e.peerIdx e.peerGen e.lflags.toNat,
      s4s7 := [e.rva, BitVec.ofNat 64 (e.peer % 4096 + e.ppart % 16 * 4096), (up.map Lrt.rva).getD 0, ((up.map Lrt.rlen).getD 0).zeroExtend 64] }
    let s2 := { s1 with gangs := s1.gangs.set g G }
    s2.setEntry p i fun e => { e with gang := some g, waits := false }

/-- A proxy entry's NEXTSEQ counts what has arrived for it (R70; what is still to run, R67, is `nextRun`). -/
def State.countSeq (s : State) (m : MsgHdr) : State :=
  let up := s.entry m.dpart m.pidx
  if m.addressed && up.proxy && up.gen == m.pgen then s.setEntry m.dpart m.pidx fun e => { e with nextSeq := (m.aseq + 1) % 65536 } else s

/-- An arriving invocation is refused, or gets its proxy entry and answers ACCEPT; one addressed to a tarnished proxy entry has its own freed in the
same step and sends nothing (R63, R68, R70, R71, R406). -/
def State.takeInvocation (s0 : State) (m : MsgHdr) : State :=
  let s := s0.countSeq m
  let p := m.dpart
  match s.admitInv m with
  | none =>
    s.send 5 m.src { MsgHdr.blank with spart := p, dpart := m.spart, hidx := m.hidx, hgen := m.hgen, cause := tcREFUSED }
  | some (e, R, i) =>
    let gen := (s.entry p i).gen
    let x : Lrt := { Lrt.freshEntry gen with
      st := .pending, proxy := true, lflags := BitVec.ofNat 8 ((if m.host then 0x20 else 0) + (if m.addressed then 0x10 else 0)), peer := m.src,
      ppart := m.spart, peerIdx := m.hidx, peerGen := m.hgen, region := R.region, rva := e.rbase + BitVec.ofNat 64 (i * 2 ^ e.rlog2),
      rlen := BitVec.ofNat 32 (2 ^ e.rlog2), upProxy := if m.addressed then some m.pidx else none, aseq := m.aseq, waits := m.addressed,
      lrec := some R, args := argWords (sliceB m.args 0 (min m.alen 64)) }
    if m.addressed && (s.entry p m.pidx).st == .tarnished then s.setEntry p i fun _ => Lrt.freshEntry (Sys2Proof.Machine.nextGen gen)
    else
      let s1 := (s.setEntry p i fun _ => x).send 3 m.src { MsgHdr.blank with
        spart := p, dpart := m.spart, hidx := m.hidx, hgen := m.hgen, pidx := i, pgen := gen }
      if m.addressed then s1 else s1.startInvoked p i

/-- Whether a proxy entry is of an invocation addressed to `u` that has not passed the region walk (R70). -/
def State.unstarted (s : State) (u : Nat) (e : Lrt) : Bool :=
  e.proxy && e.upProxy == some u &&
    (e.waits || match e.gang with
      | some g => (s.gang g).phase == .walk && (s.gangs.get? g).isSome
      | none => false)

/-- The next sequence number to run at a proxy entry (R67): the first that has not started, or the one after the last that arrived. -/
def State.nextRun (s : State) (p u : Nat) : Nat :=
  let last := (s.entry p u).nextSeq
  ((s.part p).lrt.filter fun q => s.unstarted u q.2).foldl
    (fun a q => if (last + 65536 - q.2.aseq) % 65536 > (last + 65536 - a) % 65536 then q.2.aseq else a) last

/-- Whether an addressed invocation's turn has come (R70): the entry it is addressed to is RESOLVED, and every one before it has started. -/
def State.mayStartInv (s : State) (p i : Nat) : Bool :=
  let e := s.entry p i
  match e.upProxy with
  | none => false
  | some u =>
    e.proxy && e.waits && e.st == .pending && (s.entry p u).st == .resolved &&
      !((s.part p).lrt.any fun q => q.1 != i && s.unstarted u q.2 && decide ((e.aseq + 65536 - q.2.aseq) % 65536 < 32768))

/-- ADDRESSED_INVOCATION_START (R70). -/
def execAddressedInvocationStart (s : State) : Host.Outcome State Fault Refusal :=
  .next (if s.mayStartInv s.cur.g s.cur.t then s.startInvoked s.cur.g s.cur.t else s)

/-! ## The home's side (R68, R69) -/

/-- Whether a message names the home entry it finds (R69). -/
def State.namesHome (s : State) (m : MsgHdr) : Bool :=
  let e := s.entry m.dpart m.hidx
  e.st != .free && !e.proxy && e.genA == m.hgen

/-- RELEASE at once, to a proxy that no home entry stands for any more; a refusal names none. -/
def State.releaseProxy (s : State) (m : MsgHdr) : State :=
  if m.pgen = 0 then s
  else s.send 6 m.src { MsgHdr.blank with spart := m.dpart, dpart := m.spart, hidx := m.hidx, hgen := m.hgen, pidx := m.pidx, pgen := m.pgen }

/-- The home entry learns its proxy, and its forwarding queue is sent there in order. -/
def State.located (s : State) (m : MsgHdr) : State :=
  let e := s.entry m.dpart m.hidx
  let s1 := s.setEntry m.dpart m.hidx fun e => { e with peerIdx := m.pidx, peerGen := m.pgen, fq := [] }
  e.fq.foldl (fun a q => a.send 2 m.src { q.h with pidx := m.pidx, pgen := m.pgen }) s1

def State.takeAccept (s : State) (m : MsgHdr) : State :=
  let e := s.entry m.dpart m.hidx
  if !(s.namesHome m) then s.releaseProxy m
  else if e.st = .pending then (s.located m).setEntry m.dpart m.hidx fun e => { e with st := .migrated }
  else if e.st = .tarnished then s.setEntry m.dpart m.hidx fun e => { e with peerIdx := m.pidx, peerGen := m.pgen }
  else s

def State.takeResolve (s : State) (m : MsgHdr) : State :=
  let p := m.dpart
  let i := m.hidx
  let e := s.entry p i
  if !(s.namesHome m) then s.releaseProxy m
  else if e.st = .pending ∨ e.st = .migrated then
    let s1 := ((if e.st = .pending then s.located m else s).setEntry p i fun e => { e with st := .resolved, rva := m.rva, rlen := m.rlen }).settle p i
    if e.rel then (s1.sendRelease p i).freeHome p i else s1
  else s

def State.takeTarnish (s : State) (m : MsgHdr) : State :=
  if !(s.namesHome m) then s.releaseProxy m else s.tarnish m.dpart [m.hidx] m.cause

/-- RELEASE at the proxy. -/
def State.takeRelease (s : State) (m : MsgHdr) : State :=
  let p := m.dpart
  let e := s.entry p m.pidx
  if e.st = .free || !e.proxy || e.gen != m.pgen then s
  else ((s.setEntry p m.pidx fun e => { e with rel := true }).tryFreeProxy p m.pidx).tryFreeUp p e.upProxy

/-! ## Delivery (R73, R74) -/

def State.deliver (s : State) (ty : Nat) (m : MsgHdr) : State :=
  match ty with
  | 1 | 2 => s.takeInvocation m
  | 3 => s.takeAccept m
  | 4 => s.takeResolve m
  | 5 => s.takeTarnish m
  | 6 => s.takeRelease m
  | _ => s

/-- Acknowledges the highest message of a package received in order, on the channel of the message that has come and to its partition (R15; DEDUCED,
log entry 29); a package's own are settled at once, and a package declared unreachable is sent nothing (R73). -/
def State.acknowledge (s : State) (ty : Nat) (m : MsgHdr) : State :=
  let d := m.src
  let last := (s.peer d).rx - 1
  if d = s.pkg.pkgid then s.setPeer d fun P => { P with unacked := P.unacked.filter fun u => decide ((last - u.1).toNat ≥ 2 ^ 31) }
  else if !(s.peer d).any || (s.peer d).unreach then s
  else match s.route d with
    | some l => s.emit (.ack l d (if ty = 1 then 0 else 1) m.spart m.dpart last)
    | none => s

/-- Messages that came early are delivered while the next one is there. -/
def State.deliverEarly (d : Nat) : Nat → State → State
  | 0, s => s
  | k + 1, s =>
    match (s.peer d).early.find? fun q => q.h.mseq == (s.peer d).rx with
    | none => s
    | some q =>
      State.deliverEarly d k
        ((s.setPeer d fun P => { P with rx := P.rx + 1, any := true, early := P.early.filter fun e => e.h.mseq != q.h.mseq }).deliver q.ty q.h)

/-- Takes a message of the package's own mail, if it is the first there. -/
def State.takeMail (s : State) (ty : Nat) (m : MsgHdr) : State :=
  match s.mail with
  | q :: r => if q.2.ty = ty ∧ q.2.h = m ∧ m.src = s.pkg.pkgid then { s with mail := r } else s
  | [] => s

/-- A message arrives: delivered in MSEQ order, held ahead of a missing one, or discarded as one that was delivered; and acknowledged. -/
def State.arrive (s : State) (ty : Nat) (m : MsgHdr) : State :=
  let s0 := (s.takeMail ty m).flitFrom m.src
  let P := s0.peer m.src
  let d := (m.mseq - P.rx).toNat
  if d = 0 then
    let s1 := (s0.setPeer m.src fun P => { P with rx := P.rx + 1, any := true }).deliver ty m
    (State.deliverEarly m.src 256 s1).acknowledge ty m
  else if d < 2 ^ 31 then
    if P.early.length ≥ 256 || (P.early.any fun q => q.h.mseq == m.mseq) then s0
    else s0.setPeer m.src fun P => { P with early := P.early ++ [{ ty := ty, dst := s.pkg.pkgid, h := m }] }
  else s0.acknowledge ty m

def execInvocationRequest (m : MsgHdr) (s : State) : Host.Outcome State Fault Refusal := .next (s.arrive 1 m)
def execForwardedInvocation (m : MsgHdr) (s : State) : Host.Outcome State Fault Refusal := .next (s.arrive 2 m)
def execAccept (m : MsgHdr) (s : State) : Host.Outcome State Fault Refusal := .next (s.arrive 3 m)
def execResolve (m : MsgHdr) (s : State) : Host.Outcome State Fault Refusal := .next (s.arrive 4 m)
def execTarnish (m : MsgHdr) (s : State) : Host.Outcome State Fault Refusal := .next (s.arrive 5 m)
def execRelease (m : MsgHdr) (s : State) : Host.Outcome State Fault Refusal := .next (s.arrive 6 m)

/-- ACKNOWLEDGEMENT (R73, R74). -/
def execAcknowledgement (src : Nat) (mseq : BitVec 32) (s : State) : Host.Outcome State Fault Refusal :=
  .next ((s.flitFrom src).setPeer src fun P => { P with unacked := P.unacked.filter fun u => decide ((mseq - u.1).toNat ≥ 2 ^ 31) })

/-- MESSAGE_RETRANSMIT (R73). -/
def execMessageRetransmit (s : State) : Host.Outcome State Fault Refusal :=
  let d := s.cur.g
  let P := s.peer d
  .next (
    if P.unreach || d = s.pkg.pkgid then s
    else match P.unacked.find? fun u => u.1.toNat == s.cur.t with
      | none => s
      | some u =>
        if s.cycle < u.2.2 + 65536 then s
        else
          (s.setPeer d fun P =>
            { P with unacked := P.unacked.map fun x => if x.1 = u.1 then (x.1, x.2.1, s.cycle) else x, sent := s.cycle }).hand u.2.1)

/-! ## Keep-alive and unreachable packages (R73) -/

/-- Whether a package holds an entry whose peer is another one. -/
def State.knows (s : State) (d : Nat) : Bool := s.parts.any fun P => P.2.lrt.any fun e => e.2.st != .free && e.2.peer == d

def execKeepAliveSend (s : State) : Host.Outcome State Fault Refusal :=
  let d := s.cur.g
  let P := s.peer d
  .next (
    if d = s.pkg.pkgid || s.cycle < P.sent + 2 ^ 20 || !(s.knows d || P.unreach) then s
    else match s.route d with
      | none => s
      | some l => (s.setPeer d fun P => { P with sent := s.cycle }).emit (.keepAlive l d))

def execKeepAlive (src : Nat) (s : State) : Host.Outcome State Fault Refusal := .next (s.flitFrom src)

/-- Proxy entries of a partition whose home is declared unreachable. -/
def State.orphan (s : State) (p d : Nat) : State :=
  (s.part p).lrt.foldl (fun a q =>
    if !(q.2.proxy && q.2.peer == d) then a
    else if q.2.st = .pending then (a.tarnishProxy p q.1 tcUNREACHABLE true).tryFreeUp p q.2.upProxy
    else if q.2.st = .resolved then ((a.setEntry p q.1 fun e => { e with rel := true }).tryFreeProxy p q.1).tryFreeUp p q.2.upProxy
    else a) s

/-- UNREACHABLE_DECLARATION (R73). -/
def execUnreachableDeclaration (s : State) : Host.Outcome State Fault Refusal :=
  let d := s.cur.g
  let P := s.peer d
  .next (
    if d = s.pkg.pkgid || P.unreach || !(s.knows d) || (decide (s.cycle < P.heard + 2 ^ 22) && (s.route d).isSome) then s
    else
      let s1 := s.setPeer d fun P => { P with unreach := true }
      s.parts.foldl (fun a q =>
        (a.tarnish q.1 (q.2.lrt.filterMap fun e => if e.2.live && e.2.peer == d then some e.1 else none) tcUNREACHABLE).orphan q.1 d) s1)

/-! ## Copies of other packages (R74) -/

/-- The status that a remote request's address comes to, or its leaf (R119, R232). -/
def State.remoteLeaf (s : State) (f : CopyFlit) (va : Nat) (wr : Bool) : Except Byte Leaf :=
  if (s.parts.get? f.dpart).isNone || !(Config.admitsRemote f.src f.spart f.dpart) then .error 6
  else match s.resolve f.dpart .copy wr (!wr) va with
    | .error t => .error (if t.cause = cTRANSLATE ∧ t.sub = 4 then 0x0A else tstatus t.cause)
    | .ok l => if !l.fab then .error 6 else if l.target = 3 || !(targetAnswers l) then .error 2 else .ok l

/-- One read-data flit, or a failing one. -/
def State.readPart (s : State) (f : CopyFlit) (off n : Nat) : Byte × List Byte :=
  let va := f.va.toNat + off
  let one := fun (acc : Byte × List Byte) (q : Nat × Nat) =>
    if acc.1 ≠ 0 then acc
    else match s.remoteLeaf f q.1 false with
      | .error st => (st, acc.2)
      | .ok l => if s.mem.poisoned l.pa q.2 then (4, acc.2) else (0, acc.2 ++ s.getKey f.dpart l.pa q.2)
  (pieces 3 va n).foldl one (0, [])

/-- Answers a read request from an offset on, 224 bytes to a flit; a flit that fails ends the answer. -/
def State.answerRead (f : CopyFlit) (link : Nat) : Nat → Nat → State → State
  | 0, _, s => s
  | k + 1, off, s =>
    if off ≥ f.bytes then s
    else
      let n := min 224 (f.bytes - off)
      let r := s.readPart f off n
      let a : CopyFlit := { f with src := s.pkg.pkgid, spart := f.dpart, dpart := f.spart, off := off, bytes := n, status := r.1,
                                   data := sliceB r.2 0 n }
      let s1 := s.emit (.copy link f.src 9 a)
      if r.1 ≠ 0 then s1 else State.answerRead f link k (off + n) s1

/-- COPY_READ_REQUEST (R74). -/
def execCopyReadRequest (f : CopyFlit) (s : State) : Host.Outcome State Fault Refusal :=
  let s1 := s.flitFrom f.src
  .next (match s.route f.src with
    | none => s1
    | some l => State.answerRead f l 20 0 s1)

/-- An outside event that has to wait is taken again later (DESIGN CHOICE, log entry 1). -/
def State.later (s : State) (ev : Instr) : State := { s with stim := { due := s.stepNo + 2, ev := ev } :: s.stim }

/-- The bytes of a write-data flit, piece by piece: a status, how many were written, and the state; or the address that is held for
capture (R130). -/
def State.writePart (s : State) (f : CopyFlit) : Except Nat (Byte × Nat × State) :=
  let ps := pieces 3 f.va.toNat (min f.bytes 224)
  match ps.find? fun q => (match s.remoteLeaf f q.1 true with
    | .ok l => s.uncaptured f.dpart l
    | .error _ => false) with
  | some q => .error q.1
  | none =>
    .ok (ps.foldl (fun (a : Byte × Nat × State) q =>
      if a.1 ≠ 0 then a
      else match s.remoteLeaf f q.1 true with
        | .error st => (st, a.2.1, a.2.2)
        | .ok l => (0, a.2.1 + q.2, a.2.2.putKey f.dpart l.pa (sliceB f.data a.2.1 q.2))) (0, 0, s))

/-- COPY_WRITE_DATA (R74): a flit whose page waits for a capture is held, and has come once. -/
def execCopyWriteData (f : CopyFlit) (s : State) : Host.Outcome State Fault Refusal :=
  let s1 := if s.pkg.held.contains f then s.setPkg fun P => { P with held := P.held.erase f } else s.flitFrom f.src
  .next (match s1.writePart f with
    | .error va => ((s1.holdPage f.dpart va).setPkg fun P => { P with held := P.held ++ [f] }).later (.copyWriteData f)
    | .ok (st, n, s2) =>
      match s2.route f.src with
      | none => s2
      | some l => s2.emit (.copy l f.src 0xB { f with src := s.pkg.pkgid, spart := f.dpart, dpart := f.spart, status := st, bytes := n, data := [] }))

/-- Gives an answer to the request of a copy that it names. -/
def State.answered (s : State) (f : CopyFlit) (wr : Bool) (g : RemReq → RemReq) : State :=
  s.setCore f.core fun C =>
    { C with copies := C.copies.map fun c =>
        { c with rem := c.rem.map fun r => if r.tag = f.tag && r.write == wr && r.pkg == f.src then g r else r } }

/-- COPY_READ_DATA (R74): a flit that fails brings no bytes. -/
def execCopyReadData (f : CopyFlit) (s : State) : Host.Outcome State Fault Refusal :=
  let s1 := s.flitFrom f.src
  .next (s1.answered f false fun r =>
    if r.got ≥ r.bytes || r.status != 0 then r
    else if f.status ≠ 0 then { r with status := f.status }
    else { r with data := r.data ++ sliceB f.data 0 f.bytes, got := r.got + f.bytes })

/-- COPY_COMPLETION (R74). -/
def execCopyCompletion (f : CopyFlit) (s : State) : Host.Outcome State Fault Refusal :=
  .next ((s.flitFrom f.src).answered f true fun r => { r with status := f.status, got := f.bytes })

end Sys2Proof.Machine
end

