-- ==== Sys2Proof/Machine/Scalar.lean ====
section
/-! DEFINITION. Machine/Scalar.lean: the scalar instructions (R313-R320). -/

namespace Sys2Proof.Machine

open Sys2Proof

/-- The common shape: two sources, one result of latency 2 (R313, R314). -/
def scalar2 (i : Instr) (d a b : BitVec 8) (f : DWord → DWord → DWord) (s : State) : Host.Outcome State Fault Refusal :=
  issue i (fun k => k.intS 2 d (f (k.s a) (k.s b))) s

def execSadd (c : Com) (d a b : BitVec 8) (s : State) := scalar2 (.sadd c d a b) d a b (fun x y => x + y) s
def execSsub (c : Com) (d a b : BitVec 8) (s : State) := scalar2 (.ssub c d a b) d a b (fun x y => x - y) s
def execSmul (c : Com) (d a b : BitVec 8) (s : State) := scalar2 (.smul c d a b) d a b (fun x y => x * y) s

/-- Bits [127:64] of the product (R314). -/
def mulHigh (u : Bool) (x y : DWord) : DWord :=
  if u then BitVec.ofNat 64 (x.toNat * y.toNat / 2 ^ 64) else BitVec.ofInt 64 (x.toInt * y.toInt / 2 ^ 64)

def execSmulh (c : Com) (u : Bool) (d a b : BitVec 8) (s : State) := scalar2 (.smulh c u d a b) d a b (mulHigh u) s

/-- The quotient of R315. -/
def divQ (u : Bool) (x y : DWord) : DWord :=
  if y = 0 then BitVec.allOnes 64 else if u then BitVec.ofNat 64 (x.toNat / y.toNat) else BitVec.ofInt 64 (Int.tdiv x.toInt y.toInt)

/-- The remainder of R315. -/
def divR (u : Bool) (x y : DWord) : DWord :=
  if y = 0 then x else if u then BitVec.ofNat 64 (x.toNat % y.toNat) else BitVec.ofInt 64 (Int.tmod x.toInt y.toInt)

def execSdiv (c : Com) (u : Bool) (d a b : BitVec 8) (s : State) := scalar2 (.sdiv c u d a b) d a b (divQ u) s
def execSrem (c : Com) (u : Bool) (d a b : BitVec 8) (s : State) := scalar2 (.srem c u d a b) d a b (divR u) s
def execSand (c : Com) (d a b : BitVec 8) (s : State) := scalar2 (.sand c d a b) d a b (fun x y => x &&& y) s
def execSor (c : Com) (d a b : BitVec 8) (s : State) := scalar2 (.sor c d a b) d a b (fun x y => x ||| y) s
def execSxor (c : Com) (d a b : BitVec 8) (s : State) := scalar2 (.sxor c d a b) d a b (fun x y => x ^^^ y) s
def execSshl (c : Com) (d a b : BitVec 8) (s : State) := scalar2 (.sshl c d a b) d a b (fun x y => x <<< (y.toNat % 64)) s
def execSshr (c : Com) (d a b : BitVec 8) (s : State) := scalar2 (.sshr c d a b) d a b (fun x y => x >>> (y.toNat % 64)) s
def execSsra (c : Com) (d a b : BitVec 8) (s : State) := scalar2 (.ssra c d a b) d a b (fun x y => x.sshiftRight (y.toNat % 64)) s

/-- Whether x is below y, signed or unsigned. -/
def below64 (u : Bool) (x y : DWord) : Bool := if u then x.ult y else x.slt y

def execSmin (c : Com) (u : Bool) (d a b : BitVec 8) (s : State) :=
  scalar2 (.smin c u d a b) d a b (fun x y => if below64 u y x then y else x) s
def execSmax (c : Com) (u : Bool) (d a b : BitVec 8) (s : State) :=
  scalar2 (.smax c u d a b) d a b (fun x y => if below64 u x y then y else x) s

/-- SCMP (R316). -/
def cmp64 (u : Bool) (cond : Cond) (x y : DWord) : DWord :=
  if (if u then condInt cond x.toNat y.toNat else condInt cond x.toInt y.toInt) then 1 else 0

def execScmp (c : Com) (u : Bool) (cond : Cond) (d a b : BitVec 8) (s : State) := scalar2 (.scmp c u cond d a b) d a b (cmp64 u cond) s

def execSsel (c : Com) (d a b x : BitVec 8) (s : State) : Host.Outcome State Fault Refusal :=
  issue (.ssel c d a b x) (fun k => k.intS 2 d (if k.s x ≠ 0 then k.s a else k.s b)) s

/-- The common shape of one source (R317, R318). -/
def scalar1 (i : Instr) (d a : BitVec 8) (f : DWord → DWord) (s : State) : Host.Outcome State Fault Refusal :=
  issue i (fun k => k.intS 2 d (f (k.s a))) s

def execSaddi (c : Com) (d a : BitVec 8) (imm : BitVec 32) (s : State) := scalar1 (.saddi c d a imm) d a (fun x => x + sext32 imm) s

def execSmovi (c : Com) (d : BitVec 8) (imm : BitVec 32) (s : State) : Host.Outcome State Fault Refusal :=
  issue (.smovi c d imm) (fun k => k.intS 2 d (sext32 imm)) s

def execSmovhi (c : Com) (d : BitVec 8) (imm : BitVec 32) (s : State) := scalar1 (.smovhi c d imm) d d (fun x => cat32 imm (low32 x)) s

def execSclz (c : Com) (d a : BitVec 8) (s : State) := scalar1 (.sclz c d a) d a (fun x => BitVec.ofNat 64 (clz 64 x.toNat)) s
def execSpopc (c : Com) (d a : BitVec 8) (s : State) := scalar1 (.spopc c d a) d a (fun x => BitVec.ofNat 64 (popCount x.toNat 64)) s

/-- SBFX (R318): bits [pos + len − 1 : pos], extended. -/
def bfx64 (u : Bool) (pos len : Nat) (x : DWord) : DWord :=
  let f := (x.toNat >>> pos) % 2 ^ len
  if u then BitVec.ofNat 64 f else sextN f len

/-- SBFI (R318): the field of the destination replaced by the low bits of a. -/
def bfi64 (pos len : Nat) (old x : DWord) : DWord :=
  let m : DWord := BitVec.ofNat 64 ((2 ^ len - 1) * 2 ^ pos)
  (old &&& ~~~m) ||| (BitVec.ofNat 64 (x.toNat % 2 ^ len * 2 ^ pos))

def execSbfx (c : Com) (u : Bool) (d a : BitVec 8) (pos : BitVec 6) (len : BitVec 7) (s : State) :=
  scalar1 (.sbfx c u d a pos len) d a (bfx64 u pos.toNat len.toNat) s
def execSbfi (c : Com) (d a : BitVec 8) (pos : BitVec 6) (len : BitVec 7) (s : State) :=
  scalar2 (.sbfi c d a pos len) d d a (bfi64 pos.toNat len.toNat) s

/-- SRDV (R319). -/
def execSrdv (c : Com) (d : BitVec 8) (a : Src) (lane : BitVec 5) (pair : Bool) (s : State) : Host.Outcome State Fault Refusal :=
  issue (.srdv c d a lane pair) (fun k => k.intS 4 d (if pair then k.p a lane.toNat else zext32 (k.v a lane.toNat))) s

/-- SVOTE (R319). -/
def voteOf (op : Vote) (act hit : Word) : DWord :=
  match op with
  | .any => if hit ≠ 0 then 1 else 0
  | .all => if hit = act then 1 else 0
  | .ballot => zext32 hit
  | .count => BitVec.ofNat 64 (popCount hit.toNat 32)

def execSvote (c : Com) (op : Vote) (d : BitVec 8) (a : Src) (s : State) : Host.Outcome State Fault Refusal :=
  issue (.svote c op d a) (fun k => k.intS 4 d (voteOf op k.act (laneSet fun i => k.on i && k.v a i != 0))) s

/-- SREDV (R320). -/
def execSredv (c : Com) (op : ROp) (ty : Ty) (d : BitVec 8) (a : Src) (s : State) : Host.Outcome State Fault Refusal :=
  issue (.sredv c op ty d a) (fun k s =>
    let r := reduce op ty (k.mode .cr) (k.draw 0) (k.lanes.map fun i => k.val ty a i)
    let ten := tenOf (k.cr crRMODE)
    k.finish (redLat ty) r.flags (r.flags &&& ten) 0 d (k.setS (redLat ty) d (widen64 ty r.bits) s)) s

end Sys2Proof.Machine
end

