-- ==== Sys2Proof/Machine/Vector.lean ====
section
/-! DEFINITION. Machine/Vector.lean: the vector integer and lane instructions (R321, R325-R332) and VRNG (R340). -/

namespace Sys2Proof.Machine

open Sys2Proof

/-- The common shape: typed sources lane by lane, a typed integer result of latency 4 (R321, R325). -/
def vec2 (i : Instr) (ty : Ty) (d : BitVec 8) (a b : Src) (f : Nat → Nat → Nat) (s : State) : Host.Outcome State Fault Refusal :=
  issue i (fun k => k.intV ty 4 d fun n => f (k.val ty a n) (k.val ty b n)) s

def vec1 (i : Instr) (ty : Ty) (d : BitVec 8) (a : Src) (f : Nat → Nat) (s : State) : Host.Outcome State Fault Refusal :=
  issue i (fun k => k.intV ty 4 d fun n => f (k.val ty a n)) s

/-- A sum or difference, wrapped or clamped (R325). -/
def addSat (ty : Ty) (sat : Bool) (x : Int) : Nat := if sat then clampW (tySigned ty) (tyBits ty) x else wrap (tyBits ty) x

def iv (ty : Ty) (x : Nat) : Int := intOf (tySigned ty) (tyBits ty) x

def execVadd (c : Com) (ty : Ty) (sat : Bool) (d : BitVec 8) (a b : Src) (s : State) :=
  vec2 (.vadd c ty sat d a b) ty d a b (fun x y => addSat ty sat (iv ty x + iv ty y)) s
def execVsub (c : Com) (ty : Ty) (sat : Bool) (d : BitVec 8) (a b : Src) (s : State) :=
  vec2 (.vsub c ty sat d a b) ty d a b (fun x y => addSat ty sat (iv ty x - iv ty y)) s
def execVmul (c : Com) (ty : Ty) (d : BitVec 8) (a b : Src) (s : State) :=
  vec2 (.vmul c ty d a b) ty d a b (fun x y => x * y % 2 ^ tyBits ty) s
def execVmulh (c : Com) (ty : Ty) (d : BitVec 8) (a b : Src) (s : State) :=
  vec2 (.vmulh c ty d a b) ty d a b (fun x y => wrap (tyBits ty) (iv ty x * iv ty y / 2 ^ tyBits ty)) s

/-- VMAD (R326). -/
def execVmad (c : Com) (ty : Ty) (d : BitVec 8) (a b x : Src) (s : State) : Host.Outcome State Fault Refusal :=
  issue (.vmad c ty d a b x) (fun k => k.intV ty 4 d fun n => (k.val ty a n * k.val ty b n + k.val ty x n) % 2 ^ tyBits ty) s

def execVand (c : Com) (ty : Ty) (d : BitVec 8) (a b : Src) (s : State) := vec2 (.vand c ty d a b) ty d a b (fun x y => x &&& y) s
def execVor (c : Com) (ty : Ty) (d : BitVec 8) (a b : Src) (s : State) := vec2 (.vor c ty d a b) ty d a b (fun x y => x ||| y) s
def execVxor (c : Com) (ty : Ty) (d : BitVec 8) (a b : Src) (s : State) := vec2 (.vxor c ty d a b) ty d a b (fun x y => x ^^^ y) s
def execVshl (c : Com) (ty : Ty) (d : BitVec 8) (a b : Src) (s : State) :=
  vec2 (.vshl c ty d a b) ty d a b (fun x y => (x <<< (y % tyBits ty)) % 2 ^ tyBits ty) s
def execVshr (c : Com) (ty : Ty) (d : BitVec 8) (a b : Src) (s : State) :=
  vec2 (.vshr c ty d a b) ty d a b (fun x y => x >>> (y % tyBits ty)) s
/-- VSRA fills with copies of the top bit, whatever the type (R325). -/
def execVsra (c : Com) (ty : Ty) (d : BitVec 8) (a b : Src) (s : State) :=
  vec2 (.vsra c ty d a b) ty d a b (fun x y => wrap (tyBits ty) (intOf true (tyBits ty) x / 2 ^ (y % tyBits ty))) s
def execVmin (c : Com) (ty : Ty) (d : BitVec 8) (a b : Src) (s : State) := vec2 (.vmin c ty d a b) ty d a b (intOp .min ty) s
def execVmax (c : Com) (ty : Ty) (d : BitVec 8) (a b : Src) (s : State) := vec2 (.vmax c ty d a b) ty d a b (intOp .max ty) s

/-- VABS (R326). -/
def execVabs (c : Com) (ty : Ty) (sat : Bool) (d : BitVec 8) (a : Src) (s : State) :=
  vec1 (.vabs c ty sat d a) ty d a (fun x => addSat ty sat ((iv ty x).natAbs)) s
def execVclz (c : Com) (ty : Ty) (d : BitVec 8) (a : Src) (s : State) := vec1 (.vclz c ty d a) ty d a (clz (tyBits ty)) s
def execVpopc (c : Com) (ty : Ty) (d : BitVec 8) (a : Src) (s : State) :=
  vec1 (.vpopc c ty d a) ty d a (fun x => popCount x (tyBits ty)) s

/-- VBFX and VBFI on 32-bit lanes (R327). -/
def bfx32 (ty : Ty) (pos len x : Nat) : Nat :=
  let f := (x >>> pos) % 2 ^ len
  if tySigned ty then wrap 32 (intOf true len f) else f

def execVbfx (c : Com) (ty : Ty) (d : BitVec 8) (a : Src) (pos : BitVec 5) (len : BitVec 6) (s : State) :=
  vec1 (.vbfx c ty d a pos len) ty d a (bfx32 ty pos.toNat len.toNat) s

def bfi32 (pos len : Nat) (old x : Word) : Word :=
  let m : Word := BitVec.ofNat 32 ((2 ^ len - 1) * 2 ^ pos)
  (old &&& ~~~m) ||| BitVec.ofNat 32 (x.toNat % 2 ^ len * 2 ^ pos)

def execVbfi (c : Com) (d : BitVec 8) (a : Src) (pos : BitVec 5) (len : BitVec 6) (s : State) : Host.Outcome State Fault Refusal :=
  issue (.vbfi c d a pos len) (fun k s => k.done (k.setV 4 d (fun n => bfi32 pos.toNat len.toNat (k.S.lane d.toNat n) (k.v a n)) s)) s

/-- VSEL (R328): C is always 32 bits wide. -/
def execVsel (c : Com) (ty : Ty) (d : BitVec 8) (a b x : Src) (s : State) : Host.Outcome State Fault Refusal :=
  issue (.vsel c ty d a b x) (fun k => k.intV ty 4 d fun n => if k.v x n ≠ 0 then k.val ty a n else k.val ty b n) s

/-- VCMP (R328): a 32-bit result for every type. -/
def execVcmp (c : Com) (cond : Cond) (ty : Ty) (d : BitVec 8) (a b : Src) (s : State) : Host.Outcome State Fault Refusal :=
  issue (.vcmp c cond ty d a b) (fun k s =>
    k.done (k.setV 4 d (fun n => if condInt cond (iv ty (k.val ty a n)) (iv ty (k.val ty b n)) then 1 else 0) s)) s

/-- VADDI (R326). -/
def execVaddi (c : Com) (ty : Ty) (d : BitVec 8) (a : Src) (imm : BitVec 32) (s : State) : Host.Outcome State Fault Refusal :=
  issue (.vaddi c ty d a imm) (fun k s => k.done (k.setV 4 d (fun n => k.v a n + imm) s)) s

def execVmov (c : Com) (pair : Bool) (d : BitVec 8) (a : Src) (s : State) : Host.Outcome State Fault Refusal :=
  issue (.vmov c pair d a) (fun k s => k.done (if pair then k.setP 4 d (k.p a) s else k.setV 4 d (k.v a) s)) s

def execVmovi (c : Com) (d : BitVec 8) (imm : BitVec 32) (s : State) : Host.Outcome State Fault Refusal :=
  issue (.vmovi c d imm) (fun k s => k.done (k.setV 4 d (fun _ => imm) s)) s

/-- VSHUF (R329): the index selects among the lanes as A's pattern permutes them. -/
def execVshuf (c : Com) (pair : Bool) (d : BitVec 8) (a b : Src) (s : State) : Host.Outcome State Fault Refusal :=
  issue (.vshuf c pair d a b) (fun k s =>
    let from_ := fun n => (k.v b n).toNat % 32
    k.done (if pair then k.setP 4 d (fun n => k.p a (from_ n)) s else k.setV 4 d (fun n => k.v a (from_ n)) s)) s

/-- VLANE (R330). -/
def laneVal (op : LaneOp) (act : Word) (n : Nat) : Word :=
  match op with
  | .laneid => BitVec.ofNat 32 n
  | .mask => act
  | .rank => BitVec.ofNat 32 (popCount act.toNat n)

def execVlane (c : Com) (op : LaneOp) (d : BitVec 8) (s : State) : Host.Outcome State Fault Refusal :=
  issue (.vlane c op d) (fun k s => k.done (k.setV 4 d (laneVal op k.act) s)) s

/-- The active lanes up to lane n, without it for an exclusive scan (R331). -/
def scanLanes (act : List Nat) (excl : Bool) (n : Nat) : List Nat := act.filter fun j => if excl then decide (j < n) else decide (j ≤ n)

def execVscan (c : Com) (op : ROp) (ty : Ty) (excl : Bool) (d : BitVec 8) (a : Src) (s : State) : Host.Outcome State Fault Refusal :=
  issue (.vscan c op ty excl d a) (fun k =>
    k.floatV ty (redLat ty) d fun n => reduce op ty (k.mode .cr) (k.draw n) ((scanLanes k.lanes excl n).map fun j => k.val ty a j)) s

/-- The first lane of the segment of active lane n: the last active lane at or below it whose flag is set, or the first active lane (R332). -/
def segStart (act : List Nat) (flag : Nat → Bool) (n : Nat) : Nat :=
  match ((act.filter fun j => decide (j ≤ n) && flag j).getLast?) with
  | some j => j
  | none => act.headD 0

def execVsegred (c : Com) (op : ROp) (ty : Ty) (d : BitVec 8) (a b : Src) (s : State) : Host.Outcome State Fault Refusal :=
  issue (.vsegred c op ty d a b) (fun k =>
    let start := segStart k.lanes fun j => k.v b j != 0
    k.floatV ty (redLat ty) d fun n =>
      reduce op ty (k.mode .cr) (k.draw (start n)) ((k.lanes.filter fun j => start j == start n).map fun j => k.val ty a j)) s

/-- VRNG (R340). -/
def execVrng (c : Com) (d : BitVec 8) (a : Src) (b : BitVec 8) (s : State) : Host.Outcome State Fault Refusal :=
  issue (.vrng c d a b) (fun k s => k.done (k.setV 4 d (fun n => bangle (k.s b) (k.p a n)) s)) s

end Sys2Proof.Machine
end

