-- ==== Sys2Proof/Machine/Float.lean ====
section
/-! DEFINITION. Machine/Float.lean: FP32 and FP64 arithmetic and conversions (R324, R333-R339). -/

namespace Sys2Proof.Machine

open Sys2Proof

/-- A source lane as an FP32 or FP64 number. -/
def Ctx.f (k : Ctx) (ty : Ty) (a : Src) (n : Nat) : Num := decodeTy ty (k.val ty a n)

/-- Two-operand IEEE operations (R333, R339). -/
def float2 (i : Instr) (ty : Ty) (lat : Nat) (r : Rmo) (d : BitVec 8) (a b : Src) (op : Mode → Nat → Num → Num → Res) (s : State) :
    Host.Outcome State Fault Refusal :=
  issue i (fun k => k.floatV ty lat d fun n => op (k.mode r) (k.draw n) (k.f ty a n) (k.f ty b n)) s

def float3 (i : Instr) (ty : Ty) (lat : Nat) (r : Rmo) (d : BitVec 8) (a b x : Src) (op : Mode → Nat → Num → Num → Num → Res) (s : State) :
    Host.Outcome State Fault Refusal :=
  issue i (fun k => k.floatV ty lat d fun n => op (k.mode r) (k.draw n) (k.f ty a n) (k.f ty b n) (k.f ty x n)) s

def float1 (i : Instr) (lat : Nat) (r : Rmo) (d : BitVec 8) (a : Src) (op : Mode → Nat → Num → Res) (s : State) :
    Host.Outcome State Fault Refusal :=
  issue i (fun k => k.floatV .f32 lat d fun n => op (k.mode r) (k.draw n) (k.f .f32 a n)) s

def execVfadd (c : Com) (r : Rmo) (d : BitVec 8) (a b : Src) (s : State) := float2 (.vfadd c r d a b) .f32 6 r d a b (fAdd .f32) s
def execVfsub (c : Com) (r : Rmo) (d : BitVec 8) (a b : Src) (s : State) := float2 (.vfsub c r d a b) .f32 6 r d a b (fSub .f32) s
def execVfmul (c : Com) (r : Rmo) (d : BitVec 8) (a b : Src) (s : State) := float2 (.vfmul c r d a b) .f32 6 r d a b (fMul .f32) s
def execVfdiv (c : Com) (r : Rmo) (d : BitVec 8) (a b : Src) (s : State) := float2 (.vfdiv c r d a b) .f32 12 r d a b (fDiv .f32) s
def execVffma (c : Com) (r : Rmo) (negp negc : Bool) (d : BitVec 8) (a b x : Src) (s : State) :=
  float3 (.vffma c r negp negc d a b x) .f32 6 r d a b x (fun m w => fFma .f32 m w negp negc) s
def execVfsqrt (c : Com) (r : Rmo) (d : BitVec 8) (a : Src) (s : State) := float1 (.vfsqrt c r d a) 12 r d a (fSqrt .f32) s

/-- VFMIN and VFMAX (R334). -/
def extRes (isMax : Bool) (a b : Num) : Res :=
  let r := minMax isMax a b
  { bits := (roundTo .f32 0 0 r.1).bits, flags := r.2 }

def execVfmin (c : Com) (d : BitVec 8) (a b : Src) (s : State) :=
  float2 (.vfmin c d a b) .f32 6 .rne d a b (fun _ _ => extRes false) s
def execVfmax (c : Com) (d : BitVec 8) (a b : Src) (s : State) :=
  float2 (.vfmax c d a b) .f32 6 .rne d a b (fun _ _ => extRes true) s

/-- VFCMP and VDCMP (R334, R339): a 32-bit 1 or 0. -/
def floatCmp (i : Instr) (ty : Ty) (lat : Nat) (cond : Cond) (d : BitVec 8) (a b : Src) (s : State) : Host.Outcome State Fault Refusal :=
  issue i (fun k => k.floatV .n32 lat d fun n =>
    let r := fCompare cond (k.f ty a n) (k.f ty b n)
    { bits := if r.1 then 1 else 0, flags := r.2 }) s

def execVfcmp (c : Com) (cond : Cond) (d : BitVec 8) (a b : Src) (s : State) := floatCmp (.vfcmp c cond d a b) .f32 6 cond d a b s

/-- The transcendental functions ignore cr.RMODE.MODE (R335). -/
def execVfrcp (c : Com) (d : BitVec 8) (a : Src) (s : State) := float1 (.vfrcp c d a) 12 .rne d a (fun _ _ => fRcp) s
def execVfrsq (c : Com) (d : BitVec 8) (a : Src) (s : State) := float1 (.vfrsq c d a) 12 .rne d a (fun _ _ => fRsq) s
def execVfexp2 (c : Com) (d : BitVec 8) (a : Src) (s : State) := float1 (.vfexp2 c d a) 12 .rne d a (fun _ _ => fExp2) s
def execVflog2 (c : Com) (d : BitVec 8) (a : Src) (s : State) := float1 (.vflog2 c d a) 12 .rne d a (fun _ _ => fLog2) s
def execVfrnd (c : Com) (r : Rmo) (d : BitVec 8) (a : Src) (s : State) := float1 (.vfrnd c r d a) 6 r d a fRnd s

def execVfcls (c : Com) (d : BitVec 8) (a : Src) (s : State) : Host.Outcome State Fault Refusal :=
  issue (.vfcls c d a) (fun k s => k.done (k.setV 6 d (fun n => BitVec.ofNat 32 (fClass (k.v a n).toNat)) s)) s

/-- ConvertTo a type (R189). -/
def convertTy (ty : Ty) (nosat : Bool) (mode : Mode) (r : Nat) (x : Num) : Res :=
  match tyFmt ty with
  | some f => convertF f (satOf f false nosat) mode r x
  | none => convertI (tySigned ty) (tyBits ty) mode r x

/-- VFCVT and VDCVT (R338, R339). -/
def cvt (i : Instr) (lat : Nat) (r : Rmo) (dty sty : Ty) (d : BitVec 8) (a : Src) (s : State) : Host.Outcome State Fault Refusal :=
  issue i (fun k => k.floatV dty lat d fun n => convertTy dty k.nosat (k.mode r) (k.draw n) (k.f sty a n)) s

def execVfcvt (c : Com) (r : Rmo) (dty sty : Ty) (d : BitVec 8) (a : Src) (s : State) := cvt (.vfcvt c r dty sty d a) 6 r dty sty d a s
def execVdcvt (c : Com) (r : Rmo) (dty sty : Ty) (d : BitVec 8) (a : Src) (s : State) := cvt (.vdcvt c r dty sty d a) 12 r dty sty d a s
def execVdadd (c : Com) (r : Rmo) (d : BitVec 8) (a b : Src) (s : State) := float2 (.vdadd c r d a b) .f64 12 r d a b (fAdd .f64) s
def execVdsub (c : Com) (r : Rmo) (d : BitVec 8) (a b : Src) (s : State) := float2 (.vdsub c r d a b) .f64 12 r d a b (fSub .f64) s
def execVdmul (c : Com) (r : Rmo) (d : BitVec 8) (a b : Src) (s : State) := float2 (.vdmul c r d a b) .f64 12 r d a b (fMul .f64) s
def execVdfma (c : Com) (r : Rmo) (negp negc : Bool) (d : BitVec 8) (a b x : Src) (s : State) :=
  float3 (.vdfma c r negp negc d a b x) .f64 12 r d a b x (fun m w => fFma .f64 m w negp negc) s
def execVdcmp (c : Com) (cond : Cond) (d : BitVec 8) (a b : Src) (s : State) := floatCmp (.vdcmp c cond d a b) .f64 12 cond d a b s

end Sys2Proof.Machine
end

