-- ==== Sys2Proof/Machine/Graph.lean ====
section
/-! DEFINITION. Machine/Graph.lean: the rewrite unit (R196-R216): a forced subgraph as an expression tree, its rewriting (R206-R211), its plan
(R212) and its evaluation (R185, R189-R193, R205, R213). -/

namespace Sys2Proof.Machine

open Sys2Proof

/-! ## The expression of a forced subgraph -/

/-- A forced subgraph as a tree: a node stands once for each reference to it. `seq` and `pc` are its node's (a value's are those of the node that
reads it), `tr` says that it computes the transpose of its node, `blk` is the quarter of a slot driven from its column edge. `nil` is the C of a product
without one, `gone` an operand of which nothing is demanded, which has been removed and reads as +0 (R207). -/
inductive XT where
  | nil
  | gone
  | tld (seq : Nat) (pc : BitVec 16) (space : Space) (addr : DWord) (rec : Option Nat) (ty : Ty) (ver rows cols : Nat) (tr : Bool)
  | tldv (seq : Nat) (pc : BitVec 16) (id : Nat) (v : Tile) (tr : Bool)
  | val (seq : Nat) (pc : BitVec 16) (t : Nat) (v : Tile) (bad : Bool) (tr : Bool)
  | slot (w : Nat) (blk : Option Nat) (tr : Bool)
  | prod (seq : Nat) (pc : BitVec 16) (f : ProdF) (rows cols : Nat) (tr : Bool) (a b c : XT)
  | trn (seq : Nat) (pc : BitVec 16) (flag : Bool) (a : XT)
  | cvt (seq : Nat) (pc : BitVec 16) (ty : Ty) (rnd : Rmo) (nosat : Bool) (tr : Bool) (a : XT)
deriving DecidableEq, Repr

def swapIf (tr : Bool) (p : Nat × Nat) : Nat × Nat := if tr then (p.2, p.1) else p

/-- Valid rows and columns. -/
def XT.shape : XT → Nat × Nat
  | .nil | .gone => (0, 0)
  | .tld _ _ _ _ _ _ _ r c tr => swapIf tr (r, c)
  | .tldv _ _ _ v tr | .val _ _ _ v _ tr => swapIf tr (v.rows, v.cols)
  | .slot _ _ _ => (256, 256)
  | .prod _ _ _ r c _ _ _ _ => (r, c)
  | .trn _ _ _ a => (a.shape.2, a.shape.1)
  | .cvt _ _ _ _ _ _ a => a.shape

def XT.seq : XT → Nat
  | .tld s .. | .tldv s .. | .val s .. | .prod s .. | .trn s .. | .cvt s .. => s
  | _ => 0

def XT.pc : XT → BitVec 16
  | .tld _ p .. | .tldv _ p .. | .val _ p .. | .prod _ p .. | .trn _ p .. | .cvt _ p .. => p
  | _ => 0

def XT.tr : XT → Bool
  | .prod _ _ _ _ _ t .. | .cvt _ _ _ _ _ t _ => t
  | _ => false

/-- What a value reference to a register's coming value stands for while it is only planned. -/
def blankTile (rows cols : Nat) : Tile := { rows := rows, cols := cols, fmt := .f32, elems := [] }

/-- The expression of a reference read by a node. -/
def XT.build (nodes : Tbl Node) : Nat → Nat → BitVec 16 → Ref → XT
  | 0, _, _, _ => .nil
  | _ + 1, s, p, .tile t v => .val s p t v false false
  | _ + 1, s, p, .fut t _ r c => .val s p t (blankTile r c) false false
  | _ + 1, s, p, .bad t r c => .val s p t (blankTile r c) true false
  | _ + 1, _, _, .slot w => .slot w none false
  | k + 1, _, _, .node n =>
    match nodes.get? n with
    | none => .nil
    | some N =>
      let sub := XT.build nodes k n N.pc
      match N.kind with
      | .tld sc a r ty v => .tld n N.pc sc a r ty v N.rows N.cols false
      | .tldv id t => .tldv n N.pc id t false
      | .trn a => .trn n N.pc false (sub a)
      | .cvt ty rnd ns a => .cvt n N.pc ty rnd ns false (sub a)
      | .wld w => .slot w none false
      | .prod f a b c =>
        let A := if f.tra then XT.trn n N.pc true (sub a) else sub a
        let B := match b with
          | .slot w => .slot w (if f.trb then some f.q else none) false
          | b => if f.trb then XT.trn n N.pc true (sub b) else sub b
        .prod n N.pc { f with tra := false, trb := false, q := 0 } N.rows N.cols false A B (match c with
          | some c => sub c
          | none => .nil)

/-- Every occurrence, operands before their node, left first. -/
def XT.subs : XT → List XT
  | .prod s p f r c t a b d => a.subs ++ b.subs ++ d.subs ++ [.prod s p f r c t a b d]
  | .trn s p f a => a.subs ++ [.trn s p f a]
  | .cvt s p y r n t a => a.subs ++ [.cvt s p y r n t a]
  | .nil | .gone => []
  | x => [x]

/-- What identity compares (R209): everything but whose node it is, the K capacity, and what a register holds. -/
def XT.strip : XT → XT
  | .nil => .nil
  | .gone => .gone
  | .tld _ _ sc a r ty v rows cols tr => .tld 0 0 sc a r ty v rows cols tr
  | .tldv _ _ id v tr => .tldv 0 0 id v tr
  | .val _ _ t v bad tr => .val 0 0 t { v with elems := [] } bad tr
  | .slot w b tr => .slot w b tr
  | .prod _ _ f r c _ a b d => .prod 0 0 { f with kcap := 0 } r c false a.strip b.strip d.strip
  | .trn _ _ f a => .trn 0 0 f a.strip
  | .cvt _ _ y r n _ a => .cvt 0 0 y r n false a.strip

/-- Transpose push-in (R208). -/
def XT.push : XT → Bool → XT
  | .nil, _ => .nil
  | .gone, _ => .gone
  | .tld s p sc a r ty v rows cols t, tr => .tld s p sc a r ty v rows cols (t != tr)
  | .tldv s p id v t, tr => .tldv s p id v (t != tr)
  | .val s p r v bad t, tr => .val s p r v bad (t != tr)
  | .slot w b t, tr => .slot w b (t != tr)
  | .prod s p f r c t a b d, false => .prod s p f r c t (a.push false) (b.push false) (d.push false)
  | .prod s p f r c t a b d, true =>
    .prod s p { f with nega := f.negb, negb := f.nega } c r (!t) (b.push true) (a.push true) (d.push true)
  | .trn _ _ _ a, tr => a.push (!tr)
  | .cvt s p y r n t a, tr => .cvt s p y r n (t != tr) (a.push tr)

/-- A node of the graph as R212 counts it: no value or slot reference, and no transpose flag. -/
def XT.isNode : XT → Bool
  | .nil | .gone | .val .. | .slot .. | .trn _ _ true _ => false
  | _ => true

/-- A transpose that push-in moves: a node, or a flag of a TMMA's, on a slot too (R197, R208). -/
def XT.isTrn : XT → Bool
  | .trn .. | .slot _ (some _) _ => true
  | _ => false

def XT.isSlot : XT → Bool
  | .slot .. => true
  | _ => false

def XT.kids : XT → List XT
  | .prod _ _ _ _ _ _ a b c => [a, b] ++ (if c = .nil then [] else [c])
  | .trn _ _ _ a | .cvt _ _ _ _ _ _ a => [a]
  | _ => []

/-! ## Demand (R207) -/

/-- A demanded region: rows and columns. -/
structure Dem where
  rows : List Nat
  cols : List Nat
deriving DecidableEq, Repr

def Dem.join (a b : Dem) : Dem := { rows := distinct (a.rows ++ b.rows), cols := distinct (a.cols ++ b.cols) }

def Dem.empty (d : Dem) : Bool := d.rows.isEmpty || d.cols.isEmpty

/-- The demand of every occurrence, under a naming of occurrences. -/
def XT.demands (key : XT → XT) : XT → Dem → List (XT × Dem)
  | .nil, _ | .gone, _ => []
  | x@(.prod _ _ f r c _ a b d), D =>
    let R := D.rows.filter (· < r)
    let C := D.cols.filter (· < c)
    let K := List.range f.kv
    if R.isEmpty || C.isEmpty then [] else
      (key x, { rows := R, cols := C }) :: (a.demands key { rows := R, cols := K } ++ b.demands key { rows := K, cols := C } ++
        d.demands key { rows := R, cols := C })
  | x@(.trn _ _ _ a), D =>
    let R := D.rows.filter (· < a.shape.2)
    let C := D.cols.filter (· < a.shape.1)
    if R.isEmpty || C.isEmpty then [] else (key x, { rows := R, cols := C }) :: a.demands key { rows := C, cols := R }
  | x@(.cvt _ _ _ _ _ _ a), D =>
    let R := D.rows.filter (· < a.shape.1)
    let C := D.cols.filter (· < a.shape.2)
    if R.isEmpty || C.isEmpty then [] else (key x, { rows := R, cols := C }) :: a.demands key { rows := R, cols := C }
  | x, D =>
    let R := D.rows.filter (· < x.shape.1)
    let C := D.cols.filter (· < x.shape.2)
    if R.isEmpty || C.isEmpty then [] else [(key x, { rows := R, cols := C })]

def demandOf (l : List (XT × Dem)) (k : XT) : Dem :=
  l.foldl (fun a e => if e.1 = k then a.join e.2 else a) { rows := [], cols := [] }

/-- Dead-part drop (R207): what nothing is demanded of is removed. -/
def XT.prune (dead : XT → Bool) (x : XT) : XT :=
  if dead x && x != .nil then .gone else
    match x with
    | .prod s p f r c t a b d => .prod s p f r c t (a.prune dead) (b.prune dead) (d.prune dead)
    | .trn s p f a => .trn s p f (a.prune dead)
    | .cvt s p y r n t a => .cvt s p y r n t (a.prune dead)
    | x => x

def fullDem (x : XT) : Dem := { rows := List.range x.shape.1, cols := List.range x.shape.2 }

/-- One of each, in order of first occurrence. -/
def firsts (l : List XT) : List XT := l.foldl (fun a x => if a.contains x then a else a ++ [x]) []

/-! ## Reassociation (R210, R211) -/

/-- An entry of PlanChain's tables. -/
structure ChainEnt where
  cost  : Nat
  split : Nat
deriving DecidableEq, Repr

def cellKey (i j : Nat) : Nat := i * 64 + j

/-- One entry of the tables from shorter ones (R211): ascending k, a tie keeps the leftmost split. -/
def chainCell (p : List Nat) (tab : Tbl ChainEnt) (i j : Nat) : Option ChainEnt :=
  (List.range (j - i)).foldl (fun (best : Option ChainEnt) d =>
    let k := i + d
    if p.getD (i - 1) 0 ≤ 64 ∧ p.getD j 0 ≤ 64 ∧ p.getD k 0 ≤ 256 then
      (match tab.get? (cellKey i k), tab.get? (cellKey (k + 1) j) with
       | some a, some b =>
         let c := a.cost + b.cost + p.getD (i - 1) 0 * p.getD k 0 * p.getD j 0
         (match best with
          | some e => if c < e.cost then some { cost := c, split := k } else best
          | none => some { cost := c, split := k })
       | _, _ => best)
    else best) none

/-- PlanChain (R211) for n factors of shapes p[i-1] × p[i]. -/
def planChain (p : List Nat) (n : Nat) : Tbl ChainEnt :=
  let base : Tbl ChainEnt := (List.range n).foldl (fun t i => Tbl.set t (cellKey (i + 1) (i + 1)) { cost := 0, split := 0 }) []
  (List.range (n - 1)).foldl (fun t l =>
    let len := l + 2
    (List.range (n + 1 - len)).foldl (fun t i0 =>
      let i := i0 + 1
      match chainCell p t i (i + len - 1) with
      | some e => Tbl.set t (cellKey i (i + len - 1)) e
      | none => t) t) base

/-- A boundary of a chain: the product node that contracts it, and the valid count there, which its operands' shapes bound (R210); `canon` is the lowest
sequence number among the nodes identical to it. -/
structure Bound where
  p     : Nat
  kv    : Nat
  kcap  : Nat
  seq   : Nat
  canon : Nat
  pc    : BitVec 16
  tr    : Bool
deriving DecidableEq, Repr

/-- A chain taken apart: factors, boundaries, the preorder of its association, the parity of its negations, and whether its leftmost factor, and
anything else, carries a negate bit. -/
structure Chain where
  facs  : List XT
  bnds  : List Bound
  pre   : List Bool
  neg   : Bool
  left  : Bool
  other : Bool
deriving DecidableEq, Repr

def Chain.one (x : XT) : Chain := { facs := [x], bnds := [], pre := [false], neg := false, left := false, other := false }

def Chain.node (f : ProdF) (b : Bound) (x y : Chain) : Chain :=
  let leaf := x.bnds.isEmpty
  { facs := x.facs ++ y.facs, bnds := x.bnds ++ [b] ++ y.bnds, pre := [true] ++ x.pre ++ y.pre, neg := x.neg != (y.neg != (f.nega != f.negb)),
    left := if leaf then f.nega else x.left, other := x.other || y.left || y.other || f.negb || (!leaf && f.nega) }

/-- The chain below a top node, `q` saying which operands belong to it. -/
def XT.chain (q : XT → Bool) (canon : XT → Nat) : XT → Chain
  | .prod s p f r c t a b d =>
    if d = .nil then
      Chain.node f { p := min f.kv (min a.shape.2 b.shape.1), kv := f.kv, kcap := f.kcap, seq := s, canon := canon (.prod s p f r c t a b d), pc := p, tr := t }
        (if q a then a.chain q canon else Chain.one a) (if q b then b.chain q canon else Chain.one b)
    else Chain.one (.prod s p f r c t a b d)
  | x => Chain.one x

/-- Factors i to j combined as the tables say (R211), with the preorder of what is built. `rc` are the top's rows and columns. A new node is named after the
boundary that it contracts (in `q`, one above its number), since sharing does not act again (R206). -/
def rebuildChain (c : Chain) (f : ProdF) (rc : Nat × Nat) (tab : Tbl ChainEnt) : Nat → Nat → Nat → XT × List Bool
  | 0, i, _ => (c.facs.getD (i - 1) .nil, [false])
  | n + 1, i, j =>
    if i = j then (c.facs.getD (i - 1) .nil, [false]) else
      let k := ((tab.get? (cellKey i j)).map ChainEnt.split).getD i
      let L := rebuildChain c f rc tab n i k
      let R := rebuildChain c f rc tab n (k + 1) j
      let B := c.bnds.getD (k - 1) { p := 0, kv := 0, kcap := 0, seq := 0, canon := 0, pc := 0, tr := false }
      let pAt := fun m => ((c.bnds[m]?).map Bound.p).getD 0
      let rows := if i = 1 then rc.1 else pAt (i - 2)
      let cols := if j = c.facs.length then rc.2 else pAt (j - 1)
      (.prod B.seq B.pc { f with nega := decide (i = 1 ∧ k = 1) && c.neg, negb := false, kv := B.kv, kcap := B.kcap, q := B.canon + 1 } rows cols B.tr
        L.1 R.1 .nil, [true] ++ L.2 ++ R.2)

/-- A rebuilt chain as the plan reports it. -/
structure ChainRep where
  seq  : Nat
  nf   : Nat
  bits : List Bool
  moved : Bool
  key  : XT
deriving DecidableEq, Repr

/-- References to a node among the distinct nodes of a subgraph. -/
def refCount (ds : List XT) (x : XT) : Nat := ds.foldl (fun a p => a + (p.kids.map XT.strip).count x) 0

/-- Whether an operand belongs to the chain of a node above it (R210). -/
def inChain (ds all : List XT) (outer : List Nat) (f : ProdF) (x : XT) : Bool :=
  match x with
  | .prod _ _ g _ _ _ _ _ .nil =>
    g.bf16 == f.bf16 && g.rnd == f.rnd && refCount ds x.strip == 1 &&
      !(all.any fun y => y.strip == x.strip && outer.contains y.seq)
  | _ => false

/-- The lowest sequence number among the nodes identical to one (R209). -/
def canonSeq (all : List XT) (x : XT) : Nat := all.foldl (fun a y => if y.strip = x.strip then min a y.seq else a) x.seq

/-- Reassociation by shape of every chain (R210), from the top down. -/
def reassoc (ds all : List XT) (outer : List Nat) (dem : XT → Dem) : Nat → XT → XT × List ChainRep
  | 0, x => (x, [])
  | n + 1, x =>
    let go := reassoc ds all outer dem n
    match x with
    | .prod s p f r c t a b .nil =>
      let ch := x.chain (inChain ds all outer f) (canonSeq all)
      let facs := ch.facs.map go
      if ch.facs.length ≤ 2 then
        (.prod s p f r c t (go a).1 (go b).1 .nil, (go a).2 ++ (go b).2)
      else
        let d := dem x.strip
        let p' := [d.rows.length] ++ ch.bnds.map Bound.p ++ [d.cols.length]
        let tab := planChain p' ch.facs.length
        let y := rebuildChain { ch with facs := facs.map Prod.fst } f (r, c) tab ch.facs.length 1 ch.facs.length
        let rep : ChainRep := { seq := s, nf := ch.facs.length, bits := y.2, moved := decide (y.2 ≠ ch.pre) || ch.other, key := x.strip }
        (y.1, rep :: facs.flatMap Prod.snd)
    | .prod s p f r c t a b d => (.prod s p f r c t (go a).1 (go b).1 (go d).1, (go a).2 ++ (go b).2 ++ (go d).2)
    | .trn s p f a => (.trn s p f (go a).1, (go a).2)
    | .cvt s p y rn ns t a => (.cvt s p y rn ns t (go a).1, (go a).2)
    | x => (x, [])

/-! ## The rewritten subgraph and its plan -/

/-- A subgraph ready for evaluation: the tree, the demands by identity, whether nothing is shared (LITERAL), the lowest sequence number and PC of the nodes
that each node is shared with (R209), and the reports of its rewriting. -/
structure Plan where
  root   : XT
  lit    : Bool
  dems   : List (XT × Dem)
  shared : Tbl (Nat × BitVec 16)
  chains : List ChainRep
  change : List Bool
deriving DecidableEq, Repr

def Plan.dem (P : Plan) (x : XT) : Dem := if P.lit then fullDem x else demandOf P.dems x.strip

/-- The nodes evaluated, one for each evaluation. -/
def Plan.evaluated (P : Plan) : List XT :=
  if P.lit then P.root.subs else
    (firsts (P.root.subs.map XT.strip)).filter fun x => !(demandOf P.dems x).empty

/-- The lowest of some sequence numbers, and the lowest of their PCs. -/
def lowestOf (x : XT) (l : List XT) : Nat × BitVec 16 :=
  l.foldl (fun (a : Nat × BitVec 16) z => (min a.1 z.seq, if z.pc.toNat < a.2.toNat then z.pc else a.2)) (x.seq, x.pc)

/-- Rewriting (R206), rule after rule, under a contract (1 STRICT, 2 SHAPE, else LITERAL; code 3 is reserved). -/
def planOf (contract : Nat) (outer : List Nat) (x : XT) (D : Dem) : Plan :=
  if contract = 1 ∨ contract = 2 then
    let before := x.demands id D
    let drop := x.subs.any fun y => !y.isSlot && (let d := demandOf before y
                                                  d.empty || decide (d.rows.length < y.shape.1) || decide (d.cols.length < y.shape.2))
    let x1 := x.prune fun y => (demandOf before y).empty
    let y := x1.push false
    let all := y.subs
    let share := all.any fun u => u.isNode && all.any fun v => u.strip == v.strip && u.seq != v.seq
    let shared := all.foldl (fun (t : Tbl (Nat × BitVec 16)) u =>
      if u.isNode then Tbl.set t u.seq (lowestOf u (all.filter fun v => v.strip == u.strip)) else t) []
    let dems := y.demands XT.strip D
    let z := if contract = 2 then reassoc (firsts (all.map XT.strip)) all outer (demandOf dems) (all.length + 1) y else (y, [])
    let chains := z.2.foldl (fun a c => if a.any fun d => d.key == c.key then a else a ++ [c]) ([] : List ChainRep)
    { root := z.1, lit := false, dems := if contract = 2 then z.1.demands XT.strip D else dems, shared := shared, chains := chains,
      change := [drop, x1.subs.any XT.isTrn, share, chains.any ChainRep.moved] }
  else { root := x, lit := true, dems := [], shared := [], chains := [], change := [false, false, false, false] }

/-- The plane entry that element (r, c) of a slot reference is (R221, R373); a plane of parts serves its one 64 × 64 transpose (R379). -/
def slotCell (P : Plane) (blk : Option Nat) (tr : Bool) (r c : Nat) : Nat × Nat :=
  let p := swapIf tr (r, c)
  match blk with
  | none => p
  | some q => (64 * (if P.fmt = .f32 ∨ P.fmt = .f16 then 0 else q) + p.2, p.1)

/-- Whether a position of a product is pruned (R220). -/
def prunedAt (planes : Nat → Plane) (x : XT) (r c : Nat) : Bool :=
  match x with
  | .slot w blk tr =>
    let P := planes w
    let k := slotCell P blk tr r c
    P.sp && P.pruned.contains (k.1 * 64 + k.2)
  | _ => false

/-- Element products of one evaluation of a node (R212). -/
def mulsOf (planes : Nat → Plane) (x : XT) (d : Dem) : Nat :=
  match x with
  | .prod _ _ f _ _ _ a b _ =>
    if a.isSlot || b.isSlot then
      (d.rows.map fun m => (d.cols.map fun n =>
        ((List.range f.kv).filter fun k => !(prunedAt planes a m k) && !(prunedAt planes b k n)).length).sum).sum
    else d.rows.length * d.cols.length * f.kv
  | _ => 0

/-- Bits of an association, from bit `lo`. -/
def assocBits (l : List Bool) (lo n : Nat) : Nat :=
  (List.range n).foldl (fun a i => if l.getD (lo + i) false then a + 2 ^ i else a) 0

/-- The plan words (R212). -/
def Plan.words (P : Plan) (contract : Nat) (planes : Nat → Plane) : List DWord :=
  let ev := P.evaluated
  let nodes := min (ev.filter XT.isNode).length 255
  let muls := min ((ev.map fun x => mulsOf planes x (P.dem x)).sum) 0xFFFFFFFF
  let first := P.chains.foldl (fun (a : Option ChainRep) c => match a with
    | some d => if c.seq < d.seq then some c else a
    | none => some c) none
  let w1 := match first with
    | some c => c.nf * 2 ^ 58 + (if 2 * c.nf - 1 > 33 then 2 ^ 33 else 0) + assocBits c.bits 0 33
    | none => 0
  let w3 := match first with
    | some c => assocBits c.bits 33 64
    | none => 0
  let ch := (List.range 4).foldl (fun a i => if P.change.getD i false then a + 2 ^ i else a) 0
  [BitVec.ofNat 64 (2 ^ 48 + contract % 4 * 2 ^ 46 + nodes * 2 ^ 32 + muls), BitVec.ofNat 64 w1,
   BitVec.ofNat 64 (min P.chains.length 255 * 2 ^ 56 + ch), BitVec.ofNat 64 w3]

/-! ## Evaluation (R205, R213) -/

/-- A fault of an element, ordered by node and element (R214). -/
structure EFault where
  seq : Nat
  idx : Nat
  f   : GFault
deriving DecidableEq, Repr

/-- A node's elements (key 256 × row + column; an element that could not be computed is not listed), with flags and faults. -/
structure EvalRes where
  rows   : Nat
  cols   : Nat
  elems  : Tbl Num
  flags  : DWord
  faults : List EFault
deriving DecidableEq, Repr

def EvalRes.none : EvalRes := { rows := 0, cols := 0, elems := [], flags := 0, faults := [] }

/-- An element of a node: +0 beyond its valid shape (R373). -/
def EvalRes.get (e : EvalRes) (r c : Nat) : Option Num :=
  if r ≥ e.rows ∨ c ≥ e.cols then some (Num.zero false) else Tbl.get? e.elems (256 * r + c)

/-- R185: the three parts of a finite number; a zero part carries its sign. -/
def trunc8 (m : Nat) : Nat :=
  let d := Nat.log2 m + 1 - 8
  (m >>> d) <<< d

def split3 (x : Num) : List Num :=
  match x with
  | .fin n m e => let p0 := trunc8 m; let p1 := trunc8 (m - p0); [Num.mk n p0 e, Num.mk n p1 e, Num.mk n (m - p0 - p1) e]
  | y => [y]

/-- The terms of one K position (R193): six part products, or one true product where an operand is NaN or infinite. For operands of one part
this adds only zero products of the product's sign. -/
def kTerms (a b : Num) : List Term :=
  if a.isNan || a.isInf || b.isNan || b.isInf then [Term.prod a b]
  else
    let p := split3 a
    let q := split3 b
    let z := Num.zero false
    [(0, 0), (0, 1), (1, 0), (0, 2), (1, 1), (2, 0)].map fun ij => Term.prod (p.getD ij.1 z) (q.getD ij.2 z)

/-- The mode a node names (R373, R374). -/
def rmoMode : Rmo → Mode
  | .rz => 1 | .ru => 2 | .rd => 3 | .rs => 4 | _ => 0

/-- What evaluation needs besides the tree: planes, the values or faults of a leaf's elements, RMODE's enables, the RS key, the demand, sequence
number, PC and orientation of each node, and what the node of a sequence number is shared with. -/
structure Env where
  planes : Nat → Plane
  leaf   : Space → DWord → Option Nat → Ty → List (Nat × Nat) → List (Except GFault Num)
  ten    : DWord
  key    : DWord
  dem    : XT → Dem
  info   : XT → Nat × BitVec 16 × Bool
  shared : Tbl (Nat × BitVec 16)

def Dem.pairs (d : Dem) : List (Nat × Nat) := d.rows.flatMap fun r => d.cols.map fun c => (r, c)

/-- The element index of a node's own element (R187, R214): 64 × row + column, before any transposition. -/
def elemIdx (tr : Bool) (r c : Nat) : Nat := if tr then 64 * c + r else 64 * r + c

/-- The lowest flag bit of a set. -/
def lowFlag (x : DWord) : Nat := (([0, 1, 2, 3, 4].find? fun i => x.getLsbD i).map fun i => 2 ^ i).getD 0

/-- The numeric trap of an element, if an enabled flag is raised (R213, R214). -/
def numericFault (ten fl : DWord) (seq idx : Nat) (pc : BitVec 16) : List EFault :=
  if fl &&& ten = 0 then [] else
    [{ seq := seq, idx := idx, f := { cause := cARITH, sub := BitVec.ofNat 16 (lowFlag (fl &&& ten)), addr := 0, opc := pc } }]

/-- Adds the elements of a node that `f` computes. -/
def collect (E : Env) (x : XT) (below : List EFault) (fl0 : DWord) (f : Nat → Nat → Nat → Option Res) (num : Nat → Num) : EvalRes :=
  let inf := E.info x
  (E.dem x).pairs.foldl (fun (a : EvalRes) p =>
    match f p.1 p.2 (elemIdx inf.2.2 p.1 p.2) with
    | none => a
    | some r =>
      { a with elems := Tbl.set a.elems (256 * p.1 + p.2) (num r.bits), flags := a.flags ||| r.flags,
               faults := a.faults ++ numericFault E.ten r.flags inf.1 (elemIdx inf.2.2 p.1 p.2) inf.2.1 })
    { rows := x.shape.1, cols := x.shape.2, elems := [], flags := fl0, faults := below }

/-- An operand's element. -/
def operandEl (E : Env) (x : XT) (e : EvalRes) (r c : Nat) : Option Num :=
  match x with
  | .slot w blk tr => let k := slotCell (E.planes w) blk tr r c; some (Tbl.getD (E.planes w).elems (k.1 * 64 + k.2) (Num.zero false))
  | _ => e.get r c

def negIf (b : Bool) (x : Num) : Num := if b then x.negate else x

/-- One element of a product (R373): none where an element it needs could not be read. -/
def prodEl (E : Env) (pc : BitVec 16) (f : ProdF) (a b c : XT) (A B C : EvalRes) (m n idx : Nat) : Option Res :=
  let ks := (List.range f.kv).filter fun k => !(prunedAt E.planes a m k) && !(prunedAt E.planes b k n)
  let ts := ks.foldl (fun (acc : Option (List Term)) k =>
    match acc, operandEl E a A m k, operandEl E b B k n with
    | some l, some x, some y => some (l ++ kTerms (negIf f.nega x) (negIf f.negb y))
    | _, _, _ => none) (some [])
  let cs := if c = .nil then some [] else (operandEl E c C m n).map fun z => [Term.of z]
  match ts, cs with
  | some l, some z =>
    some (windowSum (if f.bf16 then .bf16 else .f32) (rmoMode f.rnd) (rsDraw E.key pc idx) (l ++ z))
  | _, _ => none

/-- Evaluates an expression over its demand. -/
def XT.eval (E : Env) : XT → EvalRes
  | .nil | .gone => EvalRes.none
  | .slot _ _ _ => EvalRes.none
  | x@(.tld _ _ sc a rec ty _ _ _ tr) =>
    let inf := E.info x
    let ps := (E.dem x).pairs
    (ps.zip (E.leaf sc a rec ty (ps.map (swapIf tr)))).foldl (fun (e : EvalRes) p =>
      let q := swapIf tr p.1
      match p.2 with
      | .ok v => { e with elems := Tbl.set e.elems (256 * p.1.1 + p.1.2) v }
      | .error f => { e with faults := e.faults ++ [{ seq := inf.1, idx := 64 * q.1 + q.2, f := { f with opc := inf.2.1 } }] })
      { rows := x.shape.1, cols := x.shape.2, elems := [], flags := 0, faults := [] }
  | x@(.tldv _ _ _ v tr) =>
    { rows := x.shape.1, cols := x.shape.2, flags := 0, faults := [],
      elems := (E.dem x).pairs.map fun p => let q := swapIf tr p; (256 * p.1 + p.2, Tbl.getD v.elems (64 * q.1 + q.2) (Num.zero false)) }
  | x@(.val s pc _ v bad tr) =>
    let by_ := Tbl.getD E.shared s (s, pc)
    { rows := x.shape.1, cols := x.shape.2, flags := 0,
      elems := if bad then [] else
        (E.dem x).pairs.map fun p => let q := swapIf tr p; (256 * p.1 + p.2, Tbl.getD v.elems (64 * q.1 + q.2) (Num.zero false)),
      faults := if bad then (E.dem x).pairs.map fun p =>
          let q := swapIf tr p
          { seq := by_.1, idx := 64 * q.1 + q.2, f := { cause := cTILEPOISON, sub := 0, addr := 0, opc := by_.2 } } else [] }
  | x@(.trn _ _ _ a) =>
    let A := a.eval E
    { rows := x.shape.1, cols := x.shape.2, flags := A.flags, faults := A.faults,
      elems := (E.dem x).pairs.filterMap fun p => (A.get p.2 p.1).map fun v => (256 * p.1 + p.2, v) }
  | x@(.cvt _ _ ty rnd ns _ a) =>
    let A := a.eval E
    let f := (tyFmt ty).getD .bf16
    let pc := (E.info x).2.1
    collect E x A.faults A.flags
      (fun r c idx => (A.get r c).map fun v => convertF f (satOf f false ns) (rmoMode rnd) (rsDraw E.key pc idx) v) (Num.decode f)
  | x@(.prod _ _ f _ _ _ a b c) =>
    let A := a.eval E
    let B := b.eval E
    let C := c.eval E
    let pc := (E.info x).2.1
    collect E x (A.faults ++ B.faults ++ C.faults) (A.flags ||| B.flags ||| C.flags) (prodEl E pc f a b c A B C)
      (Num.decode (if f.bf16 then .bf16 else .f32))

/-- The format of an expression's elements. -/
def XT.fmtOf : XT → Ty
  | .tld _ _ _ _ _ ty .. => ty
  | .tldv _ _ _ v _ | .val _ _ _ v _ _ => v.fmt
  | .prod _ _ f .. => if f.bf16 then .bf16 else .f32
  | .cvt _ _ ty .. => ty
  | .trn _ _ _ a => a.fmtOf
  | _ => .f32

/-- The lowest sequence number, with its PC and orientation, among the nodes shared as one (R209). -/
def sharedInfo (P : Plan) (x : XT) : Nat × BitVec 16 × Bool :=
  if P.lit then (x.seq, x.pc, x.tr)
  else
    let k := x.strip
    match P.root.subs.filter fun y => y.strip == k with
    | [] => (x.seq, x.pc, x.tr)
    | y :: r =>
      let low := r.foldl (fun (a : XT) z => if z.seq < a.seq then z else a) y
      (low.seq, (y :: r).foldl (fun (a : BitVec 16) z => if z.pc.toNat < a.toNat then z.pc else a) low.pc, low.tr)

/-- A node's elements as a tile of a valid shape and a format. -/
def EvalRes.tile (e : EvalRes) (shape : Nat × Nat) (fmt : Ty) : Tile :=
  { rows := shape.1, cols := shape.2, fmt := fmt,
    elems := (e.elems.filter fun q => q.2 != Num.zero false).foldl (fun t q => Tbl.set t (64 * (q.1 / 256) + q.1 % 256) q.2) [] }

/-- The fault that a force reports: of the lowest node, and in it of the lowest element (R214). -/
def firstFault (l : List EFault) : Option GFault :=
  (l.foldl (fun (a : Option EFault) f => match a with
    | some g => if f.seq < g.seq ∨ (f.seq = g.seq ∧ f.idx < g.idx) then some f else a
    | none => some f) none).map EFault.f

/-! ## Reading leaves (R369, R371) -/

/-- Element bytes ×2 and page format of a tile image at an address: the page's, or the type's (R371). -/
def State.imageFmt (s : State) (G : Gang) (space : Space) (a : DWord) (ty : Ty) : Nat × Nat :=
  let f := if space = .g then (match s.translate G.part a.toNat with
                               | .ok l => l.fmt
                               | .error _ => 0) else 0
  if f = 0 then (tyBits ty / 4, 0) else if fourBit f then (1, f) else (2 * pageBytesOf f, f)

/-- An element of a tile image: where it lies, the nibble of its byte (R124), the page format its address was formed with, a misaligned base or
stride, and a subcode of PERMISSION that its page's format adds (R369). -/
structure ImgAddr where
  space : Space
  addr  : DWord
  nib   : Nat
  fmt   : Nat
  skew  : Bool
  late  : Option Nat
deriving DecidableEq, Repr

/-- Where element (r, c) of a tile image lies (R369), or the fault and its address where a record gives no such place. `recs` are the records as
read. -/
def State.imageAt (s : State) (G : Gang) (recs : Nat → List Byte) (space : Space) (a : DWord) (rec : Option Nat) (ty : Ty) (r c : Nat) :
    Except (TFault × DWord) ImgAddr :=
  match rec with
  | none =>
    let f := s.imageFmt G space a ty
    let i := 64 * r + c
    let mx := decide (5 ≤ f.2) && decide (f.2 ≤ 7)
    .ok { space := space, addr := a + BitVec.ofNat 64 (i * f.1 / 2), nib := i % 2, fmt := f.2, late := none,
          skew := mx && a.toNat % 65536 % (if f.2 = 7 then 16 else 32) != 0 }
  | some k =>
    let l := recs k
    let R := layRecOf l
    let e := fun i => if i < R.ndim then R.extents.getD i 1 else 1
    if (s.offsetPa G .sp (64 * k) 64).isNone then .error ({ cause := cBOUNDS, sub := 0, level := 0 }, BitVec.ofNat 64 (64 * k))
    else if recBad l || decide (R.space > 1) || decide (c ≥ e 0) || decide (r ≥ e 1) then .error ({ cause := cPERMISSION, sub := 9, level := 0 }, a)
    else
      let addr := R.base + a + R.offset [c, r]
      let f := s.imageFmt G (spaceOf R.space) addr ty
      .ok { space := spaceOf R.space, addr := addr, nib := 0, fmt := f.2, skew := R.strideBad (max 1 (f.1 / 2)),
            late := if 5 ≤ f.2 ∧ f.2 ≤ 7 then some 8 else if 2 * 2 ^ R.log2 ≠ f.1 then some 9 else none }

/-- An element of a tile image that has passed the checks of its own; `mixed` where PERMISSION 0x09 is still to be judged over all elements. -/
structure ImgEl where
  acc   : Acc
  nib   : Nat
  mixed : Bool
deriving DecidableEq, Repr

/-- The checks of one element (R121, R125, R369), for a read or for a write. -/
def State.imageEl (s : State) (G : Gang) (who : Who) (wr : Bool) (recs : Nat → List Byte) (space : Space) (a : DWord) (rec : Option Nat) (ty : Ty)
    (q : Nat × Nat) : Except (TFault × DWord) ImgEl :=
  match s.imageAt G recs space a rec ty q.1 q.2 with
  | .error f => .error f
  | .ok i =>
    if i.skew then .error ({ cause := cALIGN, sub := 0, level := 0 }, i.addr)
    else match s.locate G i.space who wr (!wr) true (max 1 (tyBytes ty)) i.addr with
      | .error f => .error (f, i.addr)
      | .ok (pa, lf) =>
        let pf := (lf.map Leaf.fmt).getD 0
        if i.late == some 8 || (wr && pf == 8) || (match lf with | some l => l.fmt != 0 && decide (l.off ≥ l.scaleBase) | none => false) then
          .error ({ cause := cPERMISSION, sub := 8, level := (lf.map Leaf.level).getD 0 }, i.addr)
        else .ok { acc := { lane := 64 * q.1 + q.2, addr := i.addr, pa := pa, leaf := lf }, nib := i.nib, mixed := i.late.isSome || pf != i.fmt }

/-- Whether elements reach pages of different format, geometry or codebook slot (PERMISSION 0x09). -/
def mixedPages (l : List ImgEl) : Bool :=
  match l with
  | [] => false
  | x :: _ => l.any fun y => y.mixed || decide (y.acc.leaf.map Leaf.shape ≠ x.acc.leaf.map Leaf.shape)

/-- A byte as an evaluation reads it (R215, R383): one written since the force has no value of its own; one that the strand's last TFENCE did not cover
is, in each aligned 8-byte unit, as it is or as it was at the TFENCE (free values; DESIGN CHOICE, log entry 31). -/
def State.leafByte (s : State) (since : Nat) (fenced : Mem) (a : Nat) : Byte :=
  let now := s.mem.read a
  if (s.mem.writtenSince since).contains a then BitVec.ofNat 8 (Config.freeNat (s.choice (2 ^ 70 + a)))
  else if now ≠ fenced.read a ∧ Config.freeBit (s.choice (2 ^ 70 + a / 8)) then fenced.read a else now

/-- The elements of a TLD leaf (R371): each checked, then the formats of all, then the completer's answer and the poison of each. -/
def State.leafEls (s : State) (g : Nat) (recs : Nat → List Byte) (rd : Nat → Byte) (space : Space) (a : DWord) (rec : Option Nat) (ty : Ty)
    (cells : List (Nat × Nat)) : List (Except GFault Num) :=
  let G := s.gang g
  let bad := fun (f : TFault) (addr : DWord) => Except.error ({ cause := f.cause, sub := BitVec.ofNat 16 f.sub, addr := addr, opc := 0 } : GFault)
  let els := cells.map fun q => s.imageEl G .graph false recs space a rec ty q
  let good := els.filterMap fun e => match e with
    | .ok x => some x
    | .error _ => none
  let mixed := decide (good.length = els.length) && mixedPages good
  els.map fun e => match e with
    | .error f => bad f.1 f.2
    | .ok x =>
      let w := match x.acc.leaf with
        | some l => if l.fmt = 0 then tyBytes ty else pageBytesOf l.fmt
        | none => tyBytes ty
      let sector := fun (b : DWord) => b - BitVec.ofNat 64 (b.toNat % 32)
      if mixed then bad { cause := cPERMISSION, sub := 9, level := (x.acc.leaf.map Leaf.level).getD 0 } x.acc.addr
      else if (match x.acc.leaf with | some l => !(targetAnswers l) | none => false) then bad { cause := cPERMISSION, sub := 10, level := 0 } x.acc.addr
      else if s.mem.poisoned x.acc.pa w then bad { cause := cPOISON, sub := 0, level := 0 } (sector x.acc.addr)
      else
        let raw := decodeTy ty (ofLe ((List.range w).map fun i => rd (x.acc.pa + i)))
        match x.acc.leaf with
        | some l =>
          if l.fmt = 0 then .ok raw
          else if l.split && s.mem.poisoned l.scalePa 1 then
            bad { cause := cPOISON, sub := 0, level := 0 } (sector (x.acc.addr - BitVec.ofNat 64 l.pa + BitVec.ofNat 64 l.scalePa))
          else .ok (s.elemAt G.part rd l x.nib)
        | none => .ok raw

/-- The bytes that the elements of a leaf lie in. -/
def State.leafReads (s : State) (g : Nat) (recs : Nat → List Byte) (space : Space) (a : DWord) (rec : Option Nat) (ty : Ty)
    (cells : List (Nat × Nat)) : List Nat :=
  cells.flatMap fun q => match s.imageEl (s.gang g) .graph false recs space a rec ty q with
    | .error _ => []
    | .ok x => match x.acc.leaf with
      | some l => if l.fmt = 0 then (List.range (tyBytes ty)).map (x.acc.pa + ·)
                  else (List.range (pageBytesOf l.fmt)).map (x.acc.pa + ·) ++ (if l.split then [l.scalePa] else [])
      | none => (List.range (tyBytes ty)).map (x.acc.pa + ·)

/-! ## Graph buffers -/

/-- R198: the buffer keeps what a PENDING register reaches, and WLD nodes. -/
def Strand.gc (S : Strand) : Strand :=
  let keep := reach S.graph 64 (S.pending.map Prod.snd)
  { S with graph := S.graph.filter fun q => isWld q.2.kind || keep.contains q.1 }

/-- The front plane of a gang's slot is plane 2n, its back plane 2n + 1. -/
def Gang.front (G : Gang) (n : Nat) : Plane := G.planes.getD (2 * n) Plane.zero
def Gang.back (G : Gang) (n : Nat) : Plane := G.planes.getD (2 * n + 1) Plane.zero

/-- Slots that a set of nodes references. -/
def slotsOf (g : Tbl Node) (l : List Nat) : List Nat :=
  distinct (l.flatMap fun n => match g.get? n with
    | some N => (nodeRefs N.kind).filterMap fun r => match r with
      | .slot w => some w
      | _ => none
    | none => [])

/-- Nodes of a subgraph that a register names (but for the root's own), PENDING, or FORCED until the force is reported, whatever the engine has done by
then (R206), or that a node outside references (R196, R210). -/
def Strand.outerOf (S : Strand) (root : Nat) (sub : List Nat) : List Nat :=
  let named := (S.pending.map Prod.snd) ++ (S.forces.filter fun q => (S.treg q.2.tile).src == some q.1).map (fun q => q.2.root)
  sub.filter fun n => n != root &&
    (named.contains n || S.graph.any fun q => !(sub.contains q.1) && (refNodes (nodeRefs q.2.kind)).contains n)

/-- The expression and demand of a force. -/
def Force.tree (F : Force) : XT := XT.build F.nodes 64 F.root 0 (.node F.root)
def Force.dem (F : Force) : Dem :=
  { rows := (List.range F.nr).map (F.r0 + ·), cols := (List.range F.nc).map (F.c0 + ·) }
def Force.plan (F : Force) : Plan := planOf F.contract F.outer F.tree F.dem

/-- Enqueues a force of a PENDING register over a region (R203), with its plan (R212): none where the queue is full. `carry` marks one that
the instruction itself waits for. -/
def Ctx.force (k : Ctx) (t r0 nr c0 nc : Nat) (carry : Bool) (s : State) : Option State :=
  let S := s.strand k.g k.t
  match (S.treg t).st with
  | .pending n =>
    if (s.core k.G.core).forces.length ≥ 64 then none
    else
      let N := S.graph.getD n { kind := .wld 0, rows := 0, cols := 0, pc := 0 }
      let sub := S.reachOf n
      let lo := min r0 N.rows
      let hi := min (r0 + nr) N.rows
      let lc := min c0 N.cols
      let hc := min (c0 + nc) N.cols
      let whole := decide (hi - lo = N.rows) && decide (hc - lc = N.cols)
      let (id, sN) := s.newId
      let s0 : State := { sN with mem := sN.mem.logging true }
      let F : Force :=
        { id := id, gang := k.g, strand := k.t, gen := S.gen, tile := t, root := n,
          nodes := S.graph.filter fun q => sub.contains q.1, r0 := lo, nr := hi - lo, c0 := lc, nc := hc - lc, whole := whole,
          contract := field (k.cr crCONTRACT).toNat 1 0, rmode := k.cr crRMODE, srkey := k.cr crSRKEY, slots := slotsOf S.graph sub,
          outer := S.outerOf n sub, since := s0.mem.logged, fenced := S.fenced }
      let rec_ : ForceRec := { tile := t, root := n, rows := N.rows, cols := N.cols, done := false, fault := none, flags := 0, batch := none,
                               carry := carry, sub := none, feeds := [], since := s0.mem.logged }
      let s1 := s0.setCore k.G.core fun C => { C with forces := C.forces ++ [F] }
      some (s1.setStrand k.g k.t fun S =>
        let S1 : Strand := { S with forces := S.forces.set id rec_, plan := some (F.plan.words F.contract (s.gang k.g).front),
                                    tregs := if whole then S.tregs.set t { st := .forced id, tile := (S.treg t).tile, src := some id } else S.tregs }
        S1.gc)
  | _ => some s

/-- A force of the whole valid region. -/
def Ctx.forceWhole (k : Ctx) (carry : Bool) (s : State) (t : Nat) : Option State := k.force t 0 64 0 64 carry s

/-- Forces registers in order, as far as the queue has room: whether all were, and the state. -/
def Ctx.forceAll (k : Ctx) (ts : List Nat) (s : State) : Bool × State :=
  ts.foldl (fun (a : Bool × State) t =>
    if !a.1 then a else match k.forceWhole true a.2 t with
      | some s' => (true, s')
      | none => (false, a.2)) (true, s)

/-- Forces that the instruction now held has issued itself. -/
def Strand.carried (S : Strand) : List Nat := S.forces.filterMap fun q => if q.2.carry then some q.1 else none

def Strand.allDone (S : Strand) (ids : List Nat) : Bool := ids.all fun i => match S.forces.get? i with
  | some r => r.done
  | none => true

/-- The DETAIL of GRAPHLEAF (R214). -/
def graphTrap (f : GFault) (others : Nat) : Trap :=
  { cause := cGRAPHLEAF, addr := f.addr, opc := some f.opc,
    detail := BitVec.ofNat 64 (others % 65536 * 2 ^ 24 + f.cause.toNat * 2 ^ 16 + f.sub.toNat) }

/-- Whether a leaf's element has been written between a force and the wait that completes it (R215). -/
def State.raced (s : State) (since : Nat) (f : Feed) : Bool := f.bytes.any (s.mem.writtenSince since).contains

/-- A force of which some leaf element has no value of its own. -/
def State.overtaken (s : State) (r : ForceRec) : Bool := r.feeds.any (s.raced r.since)

/-- Whether an element of the evaluated tile has a term from a leaf's element. -/
def Feed.reaches (f : Feed) (r c : Nat) : Bool := f.rows.contains r || f.cols.contains c || f.cells.contains (64 * r + c)

/-- A tile of which the elements that have no value of their own are free values: those with a term from an overtaken element of a leaf (DESIGN CHOICE,
log entry 31). -/
def State.blur (s : State) (id : Nat) (rec : ForceRec) (v : Tile) : Tile :=
  let f := (tyFmt v.fmt).getD .f32
  let bad := rec.feeds.filter (s.raced rec.since)
  if bad.isEmpty then v else
  { v with elems := (List.range v.rows).flatMap fun r => (List.range v.cols).filterMap fun c =>
      let k := 64 * r + c
      if bad.any fun q => q.reaches r c then some (k, Num.decode f (Config.freeNat (s.choice (2 ^ 71 + 4096 * id + k)) % 2 ^ f.width))
      else (Tbl.get? v.elems k).map fun x => (k, x) }

/-- Whether a leaf's bytes may still be overtaken: a force is unreported, or a weight load is under way. -/
def State.watching (s : State) : Bool := s.gangs.any fun g => !g.2.wloads.isEmpty || g.2.strands.any fun t => !t.2.forces.isEmpty

/-- Writes are logged no longer once nothing watches them. -/
def State.tendLog (s : State) : State := if s.watching then s else { s with mem := s.mem.logging false }

/-- Reports completed forces at an instruction (R213, R214): their flags are set, the faulting ones' registers become POISONED, and the earliest
fault is the trap. -/
def Ctx.settle (k : Ctx) (ids : List Nat) (s : State) : State × Option Trap :=
  let S := s.strand k.g k.t
  let rs := S.forces.filter fun q => ids.contains q.1 && q.2.done
  let fl := rs.foldl (fun a q => a ||| q.2.flags |||
    (if s.overtaken q.2 then BitVec.ofNat 64 (Config.freeNat (s.choice (2 ^ 71 + q.1)) % 32) else 0)) (0 : DWord)
  let bad := rs.filter fun q => q.2.fault.isSome
  let s1 := (s.addFlags k.g k.t k.x fl).setStrand k.g k.t fun S =>
    let poison := fun (regs : Tbl TileReg) (q : Nat × ForceRec) =>
      let R := regs.getD q.2.tile TileReg.zero
      if q.2.fault.isSome && (R.st == .forced q.1 || R.st == .pending q.2.root) then
        regs.set q.2.tile { st := TileSt.poisoned, tile := R.tile, src := none }
      else if R.src == some q.1 then regs.set q.2.tile { R with src := none, tile := s.blur q.1 q.2 R.tile }
      else regs
    ({ S with forces := S.forces.filter (fun q => !(ids.contains q.1 && q.2.done)), tregs := rs.foldl poison S.tregs } : Strand).gc
  match bad with
  | [] => (s1.tendLog, none)
  | q :: r => (s1.tendLog, q.2.fault.map fun f => graphTrap f r.length)

/-! ## Events of the engine -/

/-- EVALUATION_START (R226): the engine takes the force at the head of its core's queue. -/
def execEvaluationStart (s : State) : Host.Outcome State Fault Refusal :=
  .next (
    let c := s.cur.g
    match (s.core c).engine, (s.core c).forces with
    | none, F :: _ => s.setCore c fun C => { C with engine := some F.id }
    | _, _ => s)

/-- References to what a force was to write become that value (R205). -/
def landRef (id : Nat) (v : Option Tile) (r : Ref) : Ref :=
  match r with
  | .fut t f rows cols => if f = id then (match v with
                                          | some x => .tile t x
                                          | none => .bad t rows cols) else r
  | _ => r

def landKind (id : Nat) (v : Option Tile) : NodeKind → NodeKind
  | .prod f a b c => .prod f (landRef id v a) (landRef id v b) (c.map (landRef id v))
  | .trn a => .trn (landRef id v a)
  | .cvt ty r n a => .cvt ty r n (landRef id v a)
  | k => k

def landNodes (id : Nat) (v : Option Tile) (g : Tbl Node) : Tbl Node := g.map fun q => (q.1, { q.2 with kind := landKind id v q.2.kind })

/-- Reads the records that a force's leaves name (R237). -/
def State.leafRecs (s : State) (g : Nat) (x : XT) : Tbl (List Byte) × State :=
  x.subs.foldl (fun (a : Tbl (List Byte) × State) y =>
    match y with
    | .tld _ _ _ _ (some r) _ _ _ _ _ =>
      if (Tbl.get? a.1 r).isSome then a else let q := a.2.readRec g r; (Tbl.set a.1 r q.1, q.2)
    | _ => a) ([], s)

/-- The outcome of a force's evaluation: elements, flags and faults, and the state with the records it cached. -/
def State.evaluate (s : State) (F : Force) : EvalRes × Ty × State :=
  let P := F.plan
  let recs := s.leafRecs F.gang P.root
  let get := fun r => (Tbl.get? recs.1 r).getD []
  let E : Env :=
    { planes := (s.gang F.gang).front,
      leaf := s.leafEls F.gang get (s.leafByte F.since F.fenced), ten := tenOf F.rmode, key := F.srkey, dem := P.dem,
      info := sharedInfo P, shared := P.shared }
  (P.root.eval E, F.tree.fmtOf, recs.2)

/-- Where in the evaluated tile an element of a node has a term: at its own place or the transposed one, in the row or the column that its row (or, with
`c`, its column) gives, or anywhere. -/
inductive Reach where
  | cell (tr : Bool)
  | row (c : Bool)
  | col (c : Bool)
  | all
deriving DecidableEq, Repr

/-- The reach of an A operand's element, a B operand's, and that of the transpose's. -/
def Reach.a : Reach → Reach
  | .cell false | .row false => .row false
  | .cell true | .col false => .col false
  | _ => .all

def Reach.b : Reach → Reach
  | .cell false | .col true => .col true
  | .cell true | .row true => .row true
  | _ => .all

def Reach.flip : Reach → Reach
  | .cell t => .cell (!t)
  | .row c => .row (!c)
  | .col c => .col (!c)
  | .all => .all

def Reach.feed (k : Reach) (bytes : List Nat) (r c : Nat) : Feed :=
  let none_ : Feed := { bytes := bytes, rows := [], cols := [], cells := [] }
  match k with
  | .cell tr => { none_ with cells := [if tr then 64 * c + r else 64 * r + c] }
  | .row q => { none_ with rows := [if q then c else r] }
  | .col q => { none_ with cols := [if q then c else r] }
  | .all => { none_ with rows := List.range 64 }

/-- What the leaves' elements that a demand reaches give to the evaluated tile (R207, R215); `read` are the bytes of a leaf's element. -/
def XT.feeds (read : XT → Nat × Nat → List Nat) : XT → Reach → Dem → List Feed
  | .prod _ _ f r c _ a b d, k, D =>
    let R := D.rows.filter (· < r)
    let C := D.cols.filter (· < c)
    let K := List.range f.kv
    a.feeds read k.a { rows := R, cols := K } ++ b.feeds read k.b { rows := K, cols := C } ++ d.feeds read k { rows := R, cols := C }
  | .trn _ _ _ a, k, D => a.feeds read k.flip { rows := D.cols, cols := D.rows }
  | .cvt _ _ _ _ _ _ a, k, D => a.feeds read k D
  | x@(.tld _ _ _ _ _ _ _ _ _ tr), k, D =>
    (D.rows.filter (· < x.shape.1)).flatMap fun r => (D.cols.filter (· < x.shape.2)).map fun c => k.feed (read x (swapIf tr (r, c))) r c
  | _, _, _ => []

/-- The feeds of a force's leaves. -/
def State.feedsOf (s : State) (F : Force) : List Feed :=
  let P := F.plan
  let recs := (s.leafRecs F.gang P.root).1
  P.root.feeds (fun x q => match x with
    | .tld _ _ sc a rec ty _ _ _ _ => s.leafReads F.gang (fun r => (Tbl.get? recs r).getD []) sc a rec ty [q]
    | _ => []) (.cell false) (if P.lit then fullDem P.root else F.dem)

/-- EVALUATION_COMPLETE (R205, R213, R226): the force at the engine writes its register, or a TRDV's subrange, and its outcome is kept for the
instruction that waits for it. -/
def execEvaluationComplete (s : State) : Host.Outcome State Fault Refusal :=
  .next (
    let c := s.cur.g
    match (s.core c).engine.bind fun id => (s.core c).forces.find? fun F => F.id == id with
    | none => s
    | some F =>
      let r := s.evaluate F
      let e := r.1
      let fault := firstFault e.faults
      let tile := e.tile F.tree.shape r.2.1
      let val : Option Tile := if fault.isSome then none else some tile
      let s1 := r.2.2.setCore c fun C =>
        { C with engine := none,
                 forces := (C.forces.filter fun G => G.id != F.id).map fun G =>
                   if F.whole && G.gang == F.gang && G.strand == F.strand then { G with nodes := landNodes F.id val G.nodes } else G }
      let S := s1.strand F.gang F.strand
      if S.gen ≠ F.gen ∨ S.freed then s1
      else
        s1.setStrand F.gang F.strand fun S =>
          { S with
            forces := S.forces.modify F.id fun q =>
              { q with done := true, fault := fault, flags := e.flags, sub := if F.whole then none else val, feeds := s.feedsOf F },
            graph := if F.whole then landNodes F.id val S.graph else S.graph,
            tregs := if F.whole && fault.isNone then
                S.tregs.modify F.tile fun R => if R.st = .forced F.id then { R with st := TileSt.value, tile := tile } else R
              else S.tregs })

end Sys2Proof.Machine
end

