-- ==== Sys2Proof/Machine/Security.lean ====
section
/-! DEFINITION. Machine/Security.lean: attestation (R54-R57), debug unlock (R59, R60), the lifecycle fuses (R58) and the start of Limran (R46). -/

namespace Sys2Proof.Machine

open Sys2Proof

/-- Bytes of an ASCII string. -/
def ascii (t : String) : List Byte := t.toList.map fun c => BitVec.ofNat 8 c.toNat

/-- The identity private key of a seed (R54). The bytes of cat(seed, label) are hashed seed first (DESIGN CHOICE, log entry 12). -/
def privateKey (seed : List Byte) : List Byte := shake256 (seed ++ ascii "GS-FX1 identity") 57

def publicKey (seed : List Byte) : List Byte := ed448Public (privateKey seed)

/-- DEVID (R54). -/
def deviceId (seed : List Byte) : List Byte := shake256 (publicKey seed) 16

def Sec.slot (c : Sec) (n : Nat) : List Byte := c.meas.getD n (List.replicate 64 0)

/-- A function's attestation registers are reached while it is unbound too (R57 gives a report of one; DEDUCED, log entry 20). -/
def State.attOpen (s : State) (f : Nat) : Bool := s.presented f && (s.fn f).flr == .off

/-- What GO captures beside the nonce: lifecycle code, partition, slots 0 to 4 (R57). -/
def State.evidence (s : State) (f : Nat) : List Byte :=
  let part := s.fnPart f
  [lcsCode s.sec.lcs, match part with
    | some p => BitVec.ofNat 8 p
    | none => 0xFF] ++ (List.range 4).flatMap s.sec.slot ++ match part with
      | some p => s.sec.slot (16 + p)
      | none => List.replicate 64 0

/-- ATTESTATION_GO (R56, R57). -/
def execAttestationGo (f : Nat) (s : State) : Host.Outcome State Fault Refusal :=
  .next (
    if !(s.attOpen f) || (s.fn f).attStatus = 1 then s
    else if s.sec.lcs = .manufacture || s.sec.seed.isNone then s.setFn f fun F => { F with attStatus := 3 }
    else s.setFn f fun F => { F with attStatus := 1, attCap := some (tblBytes F.nonce 0 64, s.evidence f), window := [] })

/-- The report's bytes [479:0] (R57). -/
def reportBody (seed nonce ev : List Byte) (f : Nat) (count : DWord) : List Byte :=
  [1, 0, ev.getD 0 0, BitVec.ofNat 8 f, ev.getD 1 0, 0, 0, 0] ++ leBytes 8 count.toNat ++ sliceB (deviceId seed) 0 16 ++
    sliceB (publicKey seed) 0 57 ++ List.replicate 7 0 ++ sliceB nonce 0 64 ++ sliceB ev 2 320

/-- ATTESTATION_REPORT_DONE (R57); RCOUNT counts this report (DEDUCED, log entry 30). -/
def execAttestationReportDone (s : State) : Host.Outcome State Fault Refusal :=
  let f := s.cur.g
  .next (
    match (s.fn f).attCap, s.sec.seed with
    | some (nonce, ev), some seed =>
      if (s.fn f).attStatus ≠ 1 then s
      else
        let n := s.sec.rcount + 1
        let body := reportBody seed nonce ev f n
        let sig := sliceB (ed448Sign (privateKey seed) body (ascii "GS-FX1 attest")) 0 114
        { s.setFn f fun F => { F with attStatus := 2, attCap := none, window := tblPut [] 0 (body ++ sig) } with sec := { s.sec with rcount := n } }
    | _, _ => s)

/-- CHALLENGE_READ (R59): only the latest challenge is valid. -/
def execChallengeRead (fresh : List Byte) (s : State) : Host.Outcome State Fault Refusal :=
  .next { s with sec := { s.sec with challenge := some (sliceB fresh 0 16) } }

/-- Whether a signature verifies under the key whose SHAKE256 hash is fused (R59; PRESUMED, log entry 12). -/
def debugKeyGood (hash msg sig : List Byte) : Bool :=
  let key := Config.debugKey hash
  shake256 key hash.length == hash && ed448Verify key msg (ascii "GS-FX1 debug") sig

/-- Whether a token verifies (R59, R60 step 2). -/
def Sec.tokenGood (c : Sec) (t : List Byte) : Bool :=
  match c.seed, c.challenge with
  | some seed, some chal =>
    t.length == 162 && leAt t 0 2 == 1 && t.getD 2 0 == lcsCode c.lcs && leAt t 3 5 == 0 && sliceB t 8 16 == sliceB (deviceId seed) 0 16 &&
      sliceB t 24 16 == chal && leAt t 40 8 == 0 && debugKeyGood c.dbgHash (sliceB t 0 48) (sliceB t 48 114)
  | _, _ => false

/-- Every bound function is reset at once, a reset under way with it (R60 step 3). -/
def State.resetAll (s : State) : State :=
  let fs := (List.range 64).filter fun f => (s.fnPart f).isSome
  let s1 := fs.foldl (fun (a : State) f => a.startFlr f) s
  fs.foldl (fun (a : State) f => a.endFlr f) s1

/-- The layout is cleared to no partitions, and every setting is scrub-pending (R60 step 3). -/
def State.clearLayout (s : State) : State :=
  let n := withSeq [] (laySeq s.layout + 1)
  ((s.writeCopy n).flip n).setPkg fun P => { P with layFlipped := false, scrub := 0xFFFF }

/-- Steps 3 to 5 of an unlock whose token is good, once no layout request is open (R60), whatever the fuses have become meanwhile (DESIGN CHOICE, log entry
30). -/
def State.goOnUnlock (s : State) : State :=
  match s.sec.unlock with
  | none => s
  | some token =>
    if s.pkg.layGo then s
    else
      let s1 := s.resetAll.clearLayout
      { s1 with sec := { ((s1.sec.extend 3 [4]).extend 3 token) with lcs := .debug, portOpen := true, mbox := 0, unlock := none } }

/-- DEBUG_UNLOCK (R60). While the MP is down nothing takes a token (DEDUCED, log entry 30), and a second good token takes the place of one that waits
(DESIGN CHOICE, log entry 30). -/
def execDebugUnlock (token : List Byte) (s : State) : Host.Outcome State Fault Refusal :=
  .next (
    if !s.pkg.mpUp then s
    else if s.sec.lcs ≠ .provisioned ∧ s.sec.lcs ≠ .deployed then { s with sec := { s.sec with mbox := 1 } }
    else
      let good := s.sec.tokenGood token
      let s1 := { s with sec := { s.sec with challenge := none } }
      if !good then { s1 with sec := { s1.sec with mbox := 2 } }
      else
        ({ s1 with sec := { s1.sec with unlock := some token } } : State).goOnUnlock)

/-! ## Fuses and the start of Limran (R46, R54, R55, R58) -/

/-- The fuses that may be blown (R58): the next state, and in MANUFACTURE the seed and the debug key's hash. -/
def fuseNext (l : Lcs) (retired : Bool) : Lcs :=
  match l, retired with
  | .manufacture, false => .provisioned
  | .provisioned, false => .deployed
  | .deployed, true => .retired
  | l, _ => l

/-- LIFECYCLE_FUSE (R54, R58): the seed is 57 bytes. A part in DEBUG stays there until cold reset, and its fuses
can be blown meanwhile (DESIGN CHOICE, log entry 30). RETIRED has no partitions: what was formed goes as
R60 step 3 has it go (DESIGN CHOICE, log entry 27). -/
def execLifecycleFuse (retired : Bool) (seed dbgHash : List Byte) (s : State) : Host.Outcome State Fault Refusal :=
  let c := s.sec
  let n := fuseNext c.fused retired
  let first := c.fused == .manufacture && n == .provisioned
  let s1 := { s with sec := { c with
    fused := n, lcs := if c.lcs = .debug then .debug else n, portOpen := if c.lcs = .debug then c.portOpen else n == .manufacture,
    seed := if first then some (sliceB seed 0 57) else c.seed, dbgHash := if first then dbgHash else c.dbgHash } }
  .next (if s1.sec.lcs = .retired ∧ c.lcs ≠ .retired then s1.resetAll.clearLayout else s1)

/-- LIMRAN_START (R46, R55): the first start since cold reset is the boot. An open request reports 0x0 if the flip took place, and is
aborted with the inactive copy cleared if not; an unlock that waited for the report goes on (R60). -/
def execLimranStart (s : State) : Host.Outcome State Fault Refusal :=
  let boot := (s.sec.meas.getD 0 (List.replicate 64 0)).all (· == 0)
  let c := if boot then (s.sec.extend 0 (Config.bootImages 0)).extend 0 (Config.bootImages 1) else s.sec
  let s1 := { s with sec := c.extend 1 (Config.bootImages 2) }
  .next (s1.setPkg fun P =>
    let P1 := { P with mpUp := true }
    if !P.layGo then P1
    else
      let st := if P.layFlipped then 0 else 7
      let P2 := { P1 with layGo := false, layStat := st, layFlipped := false, log := P.log ++ [.layout st] }
      if P.layFlipped then P2 else if P.layActB then { P2 with layA := [] } else { P2 with layB := [] }).goOnUnlock

end Sys2Proof.Machine
end

