-- ==== Sys2Proof/Machine/Registers.lean ====
section
/-! DEFINITION. Machine/Registers.lean: writes of a function's registers (R49, R50, R56, R61, R62, R100, R108, R116, R120, R128, R129) and
host accesses through BAR4 (R49). -/

namespace Sys2Proof.Machine

open Sys2Proof

/-- PKGID_WRITE (R61). -/
def execPkgidWrite (v : DWord) (s : State) : Host.Outcome State Fault Refusal :=
  .next (if !s.pf0Open || s.pkg.pkgidSet then s else s.setPkg fun P => { P with pkgidSet := true, pkgid := field v.toNat 11 0 })

/-- RTBASE_WRITE (R61): Limran reads the route table from host memory; a word that the completer does not give holds no route. -/
def execRtbaseWrite (v : DWord) (s : State) : Host.Outcome State Fault Refusal :=
  .next (
    if !s.pf0Open then s
    else
      let base := v.toNat / 4096 * 4096
      let word := fun p =>
        let a := (base + 2 * p) % 2 ^ 55
        if Config.completerAnswers a then BitVec.ofNat 16 (s.getNat (2 ^ 55 + a) 2) else 0
      s.setPkg fun P => { P with rtbase := BitVec.ofNat 64 base,
                                 routes := (List.range 4096).filterMap fun p => if word p = 0 then none else some (p, word p) })

/-! ## TLBINV (R120) -/

/-- Whether a function is a partition's exporter and its BARs are open. The registers are the partition's: a new exporter finds EFTBASE and EFTCTL as they
stand (DESIGN CHOICE, log entry 20). -/
def State.exports (s : State) (f : Nat) : Option Nat :=
  match s.fnPart f with
  | some p => if s.barOpen f && s.exporter p == some f then some p else none
  | none => none

/-- TLBINV takes a write while it is not busy; what runs keeps its OP. -/
def State.writeTlbinv (s : State) (f : Nat) (v : DWord) (op : Nat) : State :=
  match s.exports f with
  | none => s
  | some p =>
    if (s.part p).tlbBusy then s
    else s.setPart p fun P =>
      { P with tlbva := BitVec.ofNat 64 (field v.toNat 63 10 * 1024 + op % 4 * 256), tlbBusy := op == 1 || op == 2 }

def execTlbinvRange (f : Nat) (v : DWord) (s : State) : Host.Outcome State Fault Refusal := .next (s.writeTlbinv f v 1)
def execTlbinvAll (f : Nat) (v : DWord) (s : State) : Host.Outcome State Fault Refusal := .next (s.writeTlbinv f v 2)

/-- Whether a cached translation lies in the range of TLBINV's VA and LOG2SZ. -/
def TlbEnt.inRange (e : TlbEnt) (v : Nat) : Bool :=
  let n := 2 ^ field v 15 10
  let lo := field v 63 16 * 65536 / n * n
  decide (e.vpage * 2 ^ e.bits < lo + n) && decide (lo < (e.vpage + 1) * 2 ^ e.bits)

/-- The same for an intermediate entry, which stands for all that its table reaches. -/
def WalkEnt.inRange (e : WalkEnt) (v : Nat) : Bool := TlbEnt.inRange { vpage := e.prefix_, bits := levelBits (e.level - 1), pte := 0, slot := 0 } v

/-- Whether a physical byte is of a cached translation's page. -/
def TlbEnt.reaches (e : TlbEnt) (a : Nat) : Bool := field e.pte 56 8 * 256 / 2 ^ e.bits == a / 2 ^ e.bits

/-- Whether a copy of a partition has sent a request to another package through a translation that goes, and not had all of its answer (R74). -/
def State.remoteOpen (s : State) (p : Nat) (goes : TlbEnt → Bool) : Bool :=
  s.cores.any fun C => C.2.copies.any fun c => s.partOf c.gang == p && c.rem.any fun r =>
    decide (r.got < r.bytes) && r.status == 0 && match r.via with
      | some (page, bits) => goes { vpage := page, bits := bits, pte := 0, slot := 0 }
      | none => false

/-- TLBINV_COMPLETE (R120): what was stored through a translation that goes is performed, and remote requests made through one are waited for;
every other access uses its translation when it is performed. -/
def execTlbinvComplete (s : State) : Host.Outcome State Fault Refusal :=
  let p := s.cur.g
  let P := s.part p
  let v := P.tlbva.toNat
  let all := field v 9 8 == 2
  let gone := P.tlb.filter fun e => all || e.inRange v
  .next (
    if !P.tlbBusy || s.remoteOpen p (fun e => all || e.inRange v) then s
    else
      let s1 := s.gangs.foldl (fun (a : State) q =>
        if q.2.part = p then q.2.strands.foldl (fun a t => a.drain q.1 t.1 fun m => gone.any fun e => e.reaches m.addr) a else a) s
      s1.setPart p fun P =>
        { P with tlbBusy := false, tlbva := BitVec.ofNat 64 (v / 1024 * 1024),
                 tlb := P.tlb.filter fun e => !(all || e.inRange v), walkc := P.walkc.filter fun e => !(all || e.inRange v) })

/-! ## GANGCTL (R108) -/

/-- The suspended gang that a function's GANGCTL names. -/
def State.gangNamed (s : State) (f : Nat) (v : DWord) : Option Nat :=
  (s.gangs.find? fun q =>
    let G := q.2
    G.phase == .suspended && G.core == field v.toNat 10 0 && (G.strands.any fun t => t.1 == field v.toNat 20 16 && !t.2.freed) &&
      (match G.queue with
       | some k => s.owns f k
       | none => G.fn == f)).map Prod.fst

/-- A resumed gang goes on: loading again, its rewound strands started, its checkpoint awaited, or running. -/
def Gang.resumed (G : Gang) : Gang :=
  let live := G.liveLaunch
  { G with phase :=
    if G.fresh || G.savedSp.isSome then .loading
    else if G.strands.any (fun t => t.2.atFlash && !t.2.exited) then .loading
    else if G.pmode == 1 && !live.isEmpty && (live.all fun t => G.lapAt.contains t) then .checkpointing
    else .running }

/-- A write of GANGCTL: STRAND and CORE are stored, and OP acts on the gang. -/
def State.writeGangctl (s : State) (f : Nat) (v : DWord) (act : Nat → State → State) : State :=
  if !(s.barOpen f) then s
  else
    let s1 := s.setFn f fun F => { F with gcStrand := field v.toNat 20 16, gcCore := field v.toNat 10 0 }
    match s.gangNamed f v with
    | none => s1.setFn f fun F => { F with gcStatus := 2 }
    | some g => (act g s1).setFn f fun F => { F with gcStatus := 1 }

/-- GANGCTL_RESUME (R108). -/
def execGangctlResume (f : Nat) (v : DWord) (s : State) : Host.Outcome State Fault Refusal :=
  .next (s.writeGangctl f v fun g s => s.setGang g Gang.resumed)

/-- GANGCTL_KILL (R108). -/
def execGangctlKill (f : Nat) (v : DWord) (s : State) : Host.Outcome State Fault Refusal :=
  .next (s.writeGangctl f v fun g s => s.killGang g tcFAULT)

/-! ## PFQREPLAY (R129) -/

/-- Parked copies of a partition that PFQREPLAY selects, with their cores. -/
def State.parkedCopies (s : State) (p : Nat) (v : DWord) : List (Nat × Copy) :=
  s.cores.flatMap fun C => (C.2.copies.filter fun c =>
    s.partOf c.gang == p && match c.st with
      | .parked seq => v.getLsbD 63 || seq == field v.toNat 31 0
      | _ => false).map fun c => (C.1, c)

/-- PFQREPLAY_RETRY. -/
def execPfqreplayRetry (f : Nat) (v : DWord) (s : State) : Host.Outcome State Fault Refusal :=
  .next (match s.exports f with
    | none => s
    | some p => (s.parkedCopies p v).foldl (fun (a : State) c => a.putCopy c.1 { c.2 with st := .active }) s)

/-- PFQREPLAY_CANCEL. -/
def execPfqreplayCancel (f : Nat) (v : DWord) (s : State) : Host.Outcome State Fault Refusal :=
  .next (match s.exports f with
    | none => s
    | some p => (s.parkedCopies p v).foldl (fun (a : State) c => a.finishCopy c.1 c.2 8) s)

/-! ## Registers without behaviour of their own (R50) -/

def align4K (v : DWord) : DWord := BitVec.ofNat 64 (v.toNat / 4096 * 4096)

/-- A write of 8 bytes of the MSI-X table: entries of address, data and a control word whose bit 0 masks; a vector that is pending and no
longer masked is sent (PRESUMED, log entry 5). -/
def State.writeMsix (s : State) (f o : Nat) (v : DWord) : State :=
  let x := if o % 16 = 8 then field v.toNat 32 0 else v.toNat
  let n := o / 16
  let s1 := s.setFn f fun F => { F with msix := (leBytes 8 x).foldl (fun (a : Tbl Byte × Nat) b => (a.1.set (o + a.2) b, a.2 + 1)) (F.msix, 0) |>.1 }
  if o % 16 = 8 && x / 2 ^ 32 = 0 && (s.fn f).pba.contains n then
    (s1.setFn f fun F => { F with pba := F.pba.filter (· != n) }).setPkg fun P => { P with msixOut := P.msixOut ++ [(f, n)] }
  else s1

/-- VF Enable and NumVFs of PF0's SR-IOV capability, in configuration space, which the model writes past BAR0's 128 KiB: NumVFs in [15:0] and
VF Enable in [16] (R49; DESIGN CHOICE, log entry 20). VF_ENABLE_CLEAR is its own event. -/
def State.enableVfs (s : State) (v : DWord) : State :=
  if v.getLsbD 16 then
    (spanOf 1 (min 63 (field v.toNat 15 0))).foldl (fun (a : State) f => a.setFn f fun F => { F with vfOn := true })
      (s.setPkg fun P => { P with numVfs := field v.toNat 15 0 })
  else s

/-- PF0's own registers (R50, R100). -/
def State.writePf0 (s : State) (off : Nat) (v : DWord) : State :=
  if 0x200 ≤ off ∧ off < 0x380 then s.setPkg fun P => { P with layReq := tblPut P.layReq (off - 0x200) (leBytes 8 v.toNat) }
  else if off = 0xC20 then s.setPkg fun P => { P with half := BitVec.ofNat 16 v.toNat }
  else if off = 0x20000 then s.enableVfs v
  else s

/-- The exporter's registers (R62, R116, R128). -/
def Part.writeReg (P : Part) (off : Nat) (v : DWord) : Part :=
  if off = 0xC00 then { P with eftbase := BitVec.ofNat 64 (v.toNat / 64 * 64) }
  else if off = 0xC08 then { P with eftctl := v &&& 0x1FFFF }
  else if off = 0xC28 then { P with ptbase := BitVec.ofNat 64 (field v.toNat 56 22 * 2 ^ 22 + v.toNat % 2) }
  else if off = 0xC50 then { P with pfqbase := align4K v }
  else if off = 0xC58 then { P with pfqctl := v &&& 0xF01 }
  else P

/-- REGISTER_WRITE (R22, R50): an aligned write of 8 bytes at an offset of BAR0. -/
def execRegisterWrite (f off : Nat) (v : DWord) (s : State) : Host.Outcome State Fault Refusal :=
  .next (
    if off % 8 ≠ 0 then s
    else if f = 0 && s.pf0Open && ((decide (0x200 ≤ off) && decide (off < 0x380)) || off == 0xC20 || off == 0x20000) then s.writePf0 off v
    else if s.attOpen f && decide (0x400 ≤ off) && decide (off < 0x440) then
      s.setFn f fun F => { F with nonce := tblPut F.nonce (off - 0x400) (leBytes 8 v.toNat) }
    else if !(s.barOpen f) then s
    else if off = 0x8 then s.setFn f fun F => { F with qtbase := align4K v }
    else if off = 0x28 then s.setFn f fun F => { F with ctxva := align4K v }
    else if 0x4000 ≤ off ∧ off < 0x5000 then s.writeMsix f (off - 0x4000) v
    else if 0x10000 ≤ off ∧ off < 0x18000 then s.writeQctl f ((off - 0x10000) / 8) (v.getLsbD 0) (v.getLsbD 1)
    else if off = 0xC30 then (if field v.toNat 9 8 = 0 then s.writeTlbinv f v 0 else s)
    else if off = 0xC48 then
      (if field v.toNat 63 62 = 0 then s.setFn f fun F => { F with gcStrand := field v.toNat 20 16, gcCore := field v.toNat 10 0 } else s)
    else match s.exports f with
      | some p => s.setPart p fun P => P.writeReg off v
      | none => s)

/-! ## BAR4 (R49) -/

/-- The leaf of a host access's page, where the page takes the access. -/
def State.bar4Leaf (s : State) (p : Nat) (write : Bool) (va : Nat) : Option Leaf :=
  match s.resolve p .device write (!write) va with
  | .ok l => if targetAnswers l then some l else none
  | .error _ => none

/-- HOST_BAR4_ACCESS: a read changes nothing but the translations held (what it returns is `State.readBar4`); a write goes to the pages that take
it, and waits for capture (R130). -/
def execHostBar4Access (f : Nat) (va : DWord) (write : Bool) (data : List Byte) (s : State) : Host.Outcome State Fault Refusal :=
  .next (
    match s.fnPart f with
    | none => s
    | some p =>
      if !(s.barOpen f) || decide (va.toNat + data.length > 2 ^ 36) then s
      else
        let ps := pieces (data.length / 65536 + 2) va.toNat data.length
        let leaf := s.bar4Leaf p write
        let s0 := ps.foldl (fun (a : State) q => match leaf q.1 with
          | some l => a.cache p l
          | none => a) s
        let held := ps.find? fun q => match leaf q.1 with
          | some l => s.uncaptured p l
          | none => false
        match (if write then held else none) with
        | some q => (s0.holdPage p q.1).later (.hostBar4Access f va write data)
        | none => if !write then s0 else (ps.foldl (fun (a : State × List Byte) q =>
          (match leaf q.1 with
            | some l => a.1.putKey p l.pa (a.2.take q.2)
            | none => a.1, a.2.drop q.2)) (s0, data)).1)

end Sys2Proof.Machine
end

