-- ==== Sys2Proof/Machine/Tile.lean ====
section
/-! DEFINITION. Machine/Tile.lean: tile, graph and weight instructions (R368-R383), CKPT (R367) and the completion of a weight load
(R218, R220, R379). -/

namespace Sys2Proof.Machine

open Sys2Proof

/-! ## Checks, the pin rule and auto-force (R199-R201, R368) -/

/-- An instruction of the group: its strand has to be converged (R368), which its gate has checked. -/
def graphIssue (i : Instr) (body : Ctx → State → State) (s : State) : Host.Outcome State Fault Refusal :=
  issue i (fun k s => if k.S.converged then body k s else k.trap { cause := cCONVERGENCE } s) s

def Strand.isPoisoned (S : Strand) (t : Nat) : Bool := (S.treg t).st == .poisoned

/-- The oldest free root (R201). -/
def Strand.freeRoot (S : Strand) : Option Nat :=
  (byRoot (S.pending.filter fun q => !(S.graph.any fun n => (refNodes (nodeRefs n.2.kind)).contains q.2))).head?

/-- An operand reference to a tile register as it stands (R197, R205). -/
def Strand.refOf (S : Strand) (t : Nat) : Ref :=
  match (S.treg t).st with
  | .pending n => .node n
  | .forced f =>
    (match S.forces.get? f with
     | some r => if r.done && r.fault.isSome then .bad t r.rows r.cols else .fut t f r.rows r.cols
     | none => .tile t (S.treg t).tile)
  | _ => .tile t (S.treg t).tile

/-- Makes room for a node over these operands (R201): none when it fits, else the state in which the oldest free root is forced. -/
def Ctx.autoForce (k : Ctx) (uses : List Nat) (s : State) : Option State :=
  let S := s.strand k.g k.t
  if !(S.crowded uses) then none
  else some (match S.freeRoot with
    | none => s
    | some t => match k.forceWhole true s t with
      | some s' => s'.addFlags k.g k.t k.x fAUTOF
      | none => s)

/-- R199: pin rule, auto-force, and then what inserts the node. While a force is awaited the instruction is held. -/
def Ctx.withRoom (k : Ctx) (d : Option Nat) (uses : List Nat) (body : State → State) (s : State) : State :=
  let S := s.strand k.g k.t
  if uses.any S.isPoisoned then k.trap { cause := cTILEPOISON } s
  else
    match d.elim [] S.pinned with
    | t :: r => (k.forceAll (t :: r) s).2
    | [] =>
      if !(S.allDone S.carried) then s
      else
        match k.autoForce uses s with
        | some s' => s'
        | none =>
          match k.settle S.carried s with
          | (s', some tr) => k.trap tr s'
          | (s', none) => body s'

/-- Inserts a node and names it by a register (R199 steps 4 and 5). -/
def Ctx.addNode (k : Ctx) (d : Nat) (uses : List Nat) (mk : Strand → NodeKind × Nat × Nat) (s : State) : State :=
  k.withRoom (some d) uses (fun s => k.done (s.setStrand k.g k.t fun S =>
    let n := mk S
    ({ S with graph := S.graph.set S.nextSeq { kind := n.1, rows := n.2.1, cols := n.2.2, pc := k.pc }, nextSeq := S.nextSeq + 1,
              tregs := S.tregs.set d { st := .pending S.nextSeq, tile := (S.treg d).tile, src := none } } : Strand).gc)) s

/-- Valid counts (R225, R371, R373): equal to the capacities where YS names s0, else clamped to them. -/
def Ctx.count8 (k : Ctx) (ys : BitVec 6) (hi lo cap : Nat) : Nat := if ys = 0 then cap else min (field (k.s6 ys).toNat hi lo) cap

/-! ## Leaves, products, transposes, roundings (R371-R374) -/

def execTld (c : Com) (d : BitVec 8) (ys m n : BitVec 6) (f : TileMem) (s : State) : Host.Outcome State Fault Refusal :=
  graphIssue (.tld c d ys m n f) (fun k =>
    k.addNode d.toNat [] fun S =>
      let a := if f.lr then k.s6 f.xs else k.s6 f.xs + sext32 f.imm
      (.tld f.space a (if f.lr then some (f.imm.toNat % 4096) else none) f.ty S.tfences, k.count8 ys 7 0 (m.toNat + 1),
        k.count8 ys 15 8 (n.toNat + 1))) s

/-- Element (i, j) of a vector image of `cols` columns (R370): its register offset, lane and shift. -/
def imageLane (bf16 : Bool) (cols i j : Nat) : Nat × Nat × Nat :=
  if bf16 then (i, j / 2, 16 * (j % 2)) else ((cols + 31) / 32 * i + j / 32, j % 32, 0)

def execTldv (c : Com) (d : BitVec 8) (ys : BitVec 6) (f : BitVec 8) (m n : BitVec 6) (ty : Ty) (s : State) :
    Host.Outcome State Fault Refusal :=
  graphIssue (.tldv c d ys f m n ty) (fun k =>
    k.addNode d.toNat [] fun S =>
      let rows := k.count8 ys 7 0 (m.toNat + 1)
      let cols := k.count8 ys 15 8 (n.toNat + 1)
      let el := fun i j =>
        let q := imageLane (ty == .bf16) (n.toNat + 1) i j
        decodeTy ty ((k.S.lane (f.toNat + q.1) q.2.1).toNat / 2 ^ q.2.2 % 2 ^ tyBits ty)
      let cells := ((List.range rows).flatMap fun i => (List.range cols).map fun j => (64 * i + j, el i j)).filter
        fun q => q.2 != Num.zero false
      (.tldv S.nextSeq { rows := rows, cols := cols, fmt := ty, elems := cells }, rows, cols)) s

def execTmma (c : Com) (d : BitVec 8) (f : Mma) (s : State) : Host.Outcome State Fault Refusal :=
  graphIssue (.tmma c d f) (fun k =>
    let uses := [f.ta.toNat] ++ (if f.bw then [] else [f.tb.toNat]) ++ (if f.zeroc then [] else [f.tc.toNat])
    k.addNode d.toNat uses fun S =>
      let p : ProdF := { nega := f.nega, negb := f.negb, tra := f.tra, trb := f.trb, q := f.q.toNat, rnd := f.rnd, bf16 := f.bf16,
                         kv := k.count8 f.ys 24 16 (f.k.toNat + 1), kcap := f.k.toNat + 1 }
      (.prod p (S.refOf f.ta.toNat) (if f.bw then .slot f.ws.toNat else S.refOf f.tb.toNat)
         (if f.zeroc then none else some (S.refOf f.tc.toNat)),
        k.count8 f.ys 7 0 (f.m.toNat + 1), k.count8 f.ys 15 8 (f.n.toNat + 1))) s

/-- Valid shape of what a reference names. -/
def Strand.refShape (S : Strand) : Ref → Nat × Nat
  | .node n => match S.graph.get? n with
    | some N => (N.rows, N.cols)
    | none => (0, 0)
  | .tile _ v => (v.rows, v.cols)
  | .fut _ _ r c | .bad _ r c => (r, c)
  | .slot _ => (256, 64)

def execTtrn (c : Com) (d : BitVec 8) (ta : BitVec 4) (s : State) : Host.Outcome State Fault Refusal :=
  graphIssue (.ttrn c d ta) (fun k =>
    k.addNode d.toNat [ta.toNat] fun S =>
      let r := S.refOf ta.toNat
      (.trn r, (S.refShape r).2, (S.refShape r).1)) s

def execTcvt (c : Com) (d : BitVec 8) (ta : BitVec 4) (ty : Ty) (rnd : Rmo) (s : State) : Host.Outcome State Fault Refusal :=
  graphIssue (.tcvt c d ta ty rnd) (fun k =>
    k.addNode d.toNat [ta.toNat] fun S =>
      let r := S.refOf ta.toNat
      (.cvt ty rnd k.nosat r, (S.refShape r).1, (S.refShape r).2)) s

/-! ## Forces and batches (R203, R375) -/

def execTforce (c : Com) (n : BitVec 4) (s : State) : Host.Outcome State Fault Refusal :=
  graphIssue (.tforce c n) (fun k s => match k.forceWhole false s n.toNat with
    | some s' => k.done s'
    | none => s) s

/-- The number of the n-th batch closed: 1 to 0xFFFF_FFFF, and round again. -/
def batchNumber (n : Nat) : Nat := (n - 1) % 0xFFFFFFFF + 1

def execTbatch (c : Com) (d : BitVec 8) (s : State) : Host.Outcome State Fault Refusal :=
  graphIssue (.tbatch c d) (fun k s =>
    let n := k.S.batchNo + 1
    k.done (k.setS 2 d (BitVec.ofNat 64 (batchNumber n)) (s.setStrand k.g k.t fun S =>
      { S with batchNo := n, forces := S.forces.map fun q =>
                 if q.2.batch.isNone && !q.2.carry then (q.1, { q.2 with batch := some n }) else q }))) s

/-- The most recently closed batch with a number, counted from the strand's first. -/
def latestBatch (closed b : Nat) : Option Nat := if b = 0 ∨ b > closed then none else some (b + (closed - b) / 0xFFFFFFFF * 0xFFFFFFFF)

/-- Waits for forces and reports them: held, a trap, or `body`. -/
def Ctx.waitFor (k : Ctx) (ids : List Nat) (body : State → State) (s : State) : State :=
  if !((s.strand k.g k.t).allDone ids) then s
  else match k.settle ids s with
    | (s', some tr) => k.trap tr s'
    | (s', none) => body s'

def execTwait (c : Com) (a : BitVec 8) (s : State) : Host.Outcome State Fault Refusal :=
  graphIssue (.twait c a) (fun k s =>
    match latestBatch k.S.batchNo (low32 (k.s a)).toNat with
    | none => k.done s
    | some n =>
      let ids := k.S.forces.filterMap fun q => match q.2.batch with
        | some b => if b ≤ n then some q.1 else none
        | none => none
      k.waitFor ids k.done s) s

/-! ## TST (R376) -/

/-- One element of a tile image to be stored: index, value, access, which nibble. -/
structure TEl where
  idx : Nat
  val : Num
  acc : Acc
deriving DecidableEq, Repr

/-- The elements of a tile's valid region, each checked, or the trap of the lowest that fails; then the formats of all, the whole blocks of an MX page,
and the completer's answers (R121, R125, R369, R376). -/
def Ctx.tstEls (k : Ctx) (s : State) (recs : Nat → List Byte) (f : TileMem) (v : Tile) : Except Trap (List TEl) :=
  let a := if f.lr then k.s6 f.xs else k.s6 f.xs + sext32 f.imm
  let els := ((List.range v.rows).flatMap fun r => (List.range v.cols).map fun c => (r, c)).map fun q =>
    s.imageEl k.G .strand true recs f.space a (if f.lr then some (f.imm.toNat % 4096) else none) f.ty q
  match els.findSome? fun e => match e with
    | .error x => some x
    | .ok _ => none with
  | some (e, addr) => .error { cause := e.cause, detail := e.detail, addr := addr }
  | none =>
    let good := els.filterMap fun e => match e with
      | .ok x => some x
      | .error _ => none
    match good with
    | [] => .ok []
    | x :: _ =>
      let pf := (x.acc.leaf.map Leaf.fmt).getD 0
      if mixedPages good then
        .error { cause := cPERMISSION, detail := BitVec.ofNat 64 (((x.acc.leaf.map Leaf.level).getD 0) * 256 + 9), addr := x.acc.addr }
      else if 5 ≤ pf ∧ pf ≤ 7 ∧ v.cols ≠ 32 ∧ v.cols ≠ 64 then .error { cause := cPARTBLOCK, addr := x.acc.addr }
      else match refusedBy true (good.map ImgEl.acc) with
        | some t => .error t
        | none => .ok (good.map fun y => { idx := y.acc.lane, val := Tbl.getD v.elems y.acc.lane (Num.zero false), acc := y.acc })

/-- What a block of elements of an MX page stores. -/
def Ctx.blockStores (k : Ctx) (fmt : Nat) (l : List TEl) : List (Nat × List Byte) × DWord :=
  match l with
  | [] => ([], 0)
  | x :: _ =>
    match x.acc.leaf with
    | none => ([], 0)
    | some lf =>
      let r := mxBlock (pageFFmt fmt) k.nosat (k.mode .cr) (l.map fun e => (e.val, k.draw e.idx))
      let codes := r.2.map Res.bits
      ([(x.acc.pa, if fmt = 7 then packNibbles codes else codes.map (BitVec.ofNat 8)),
        (lf.scalePa, [BitVec.ofNat 8 r.1])],
       r.2.foldl (fun a q => a ||| q.flags) 0)

/-- Lists of 32. -/
def chunks32 : Nat → List TEl → List (List TEl)
  | 0, _ => []
  | n + 1, l => if l.isEmpty then [] else l.take 32 :: chunks32 n (l.drop 32)

/-- The bytes a TST stores, in ascending element order, and its flags (R376 step 3). -/
def Ctx.tstStores (k : Ctx) (ty : Ty) (els : List TEl) : List (Nat × List Byte) × DWord :=
  let fmt := accsFmt (els.map TEl.acc)
  if 5 ≤ fmt ∧ fmt ≤ 7 then
    let bs := (chunks32 128 els).map (k.blockStores fmt)
    (bs.flatMap Prod.fst, bs.foldl (fun a b => a ||| b.2) 0)
  else
    let f := if fmt = 0 then (tyFmt ty).getD .f32 else pageFFmt fmt
    let rs := els.map fun e => (e.acc.pa, convertF f (satOf f false k.nosat) (k.mode .cr) (k.draw e.idx) e.val)
    (rs.map fun q => (q.1, leBytes (f.width / 8) q.2.bits), rs.foldl (fun a q => a ||| q.2.flags) 0)

/-- TST once its tile is a value and its forces are reported. -/
def Ctx.tstStore (k : Ctx) (f : TileMem) (v : Tile) (s0 s : State) : State :=
  let rr := if f.lr then s.readRec k.g (f.imm.toNat % 4096) else ([], s)
  match k.tstEls rr.2 (fun _ => rr.1) f v with
  | .error t => k.trap t rr.2
  | .ok els =>
    let accs := els.map TEl.acc
    if s.captureHolds k.G.part accs then s0.holdWrite k.G.part accs
    else
      let e := k.tstStores f.ty els
      k.finish 0 e.2 (e.2 &&& tenOf (k.cr crRMODE)) 0 0 (k.performStores false accs e.1 rr.2)

/-- The forces whose outcome reading a register reports: those the instruction made, and the register's own. -/
def Strand.readIds (S : Strand) (t : Nat) : List Nat :=
  S.carried ++ (match (S.treg t).st with
                | .forced f => [f]
                | _ => (S.treg t).src.toList)

def execTst (c : Com) (ta : BitVec 4) (f : TileMem) (s : State) : Host.Outcome State Fault Refusal :=
  graphIssue (.tst c ta f) (fun k s =>
    match (k.S.treg ta.toNat).st with
    | .poisoned => k.trap { cause := cTILEPOISON } s
    | .pending _ => (k.forceWhole true s ta.toNat).getD s
    | _ => k.waitFor (k.S.readIds ta.toNat) (fun s' => k.tstStore f ((s'.strand k.g k.t).treg ta.toNat).tile s s') s) s

/-! ## TRDV (R377) -/

/-- Registers of a vector image as they are written: every element under the mode, every other lane +0. -/
def Ctx.imageOut (k : Ctx) (bf16 : Bool) (v : Tile) (row0 rows col0 cols : Nat) : Tbl Word × DWord :=
  let cells := (List.range rows).flatMap fun i => (List.range cols).map fun j => (i, j)
  cells.foldl (fun (a : Tbl Word × DWord) q =>
    let r := row0 + q.1
    let c := col0 + q.2
    let x := if r < v.rows ∧ c < v.cols then Tbl.getD v.elems (64 * r + c) (Num.zero false) else Num.zero false
    let z := if bf16 then convertF .bf16 .ieee (k.mode .cr) (k.draw (64 * r + c)) x else { convertF .f32 .ieee 0 0 x with flags := 0 }
    let p := imageLane bf16 cols q.1 q.2
    let key := p.1 * 32 + p.2.1
    (Tbl.set a.1 key (Tbl.getD a.1 key 0 ||| BitVec.ofNat 32 (z.bits * 2 ^ p.2.2)), a.2 ||| z.flags)) ([], 0)

/-- A run of vector registers is written whole, through entries of the landing buffer, which the instruction waits for while it is full (R165). -/
def Ctx.trdvWrite (k : Ctx) (d : BitVec 8) (bf16 : Bool) (v : Tile) (row0 rows col0 cols : Nat) (s : State) : State :=
  if !(s.landingRoom k.g (imageRegs bf16 rows cols)) then s else
  let o := k.imageOut bf16 v row0 rows col0 cols
  let s1 := s.setStrand k.g k.t fun S =>
    (List.range (imageRegs bf16 rows cols)).foldl
      (fun S i => S.putV (d.toNat + i) (List.range 32) fun j => Tbl.getD o.1 (i * 32 + j) 0) S
  k.finish 0 o.2 (o.2 &&& tenOf (k.cr crRMODE)) 0 d s1

def execTrdv (c : Com) (d : BitVec 8) (ta : BitVec 4) (row0 rows col0 cols : BitVec 6) (ty : Ty) (s : State) :
    Host.Outcome State Fault Refusal :=
  graphIssue (.trdv c d ta row0 rows col0 cols ty) (fun k s =>
    let t := ta.toNat
    let go := fun v => k.trdvWrite d (ty == .bf16) v row0.toNat (rows.toNat + 1) col0.toNat (cols.toNat + 1)
    match (k.S.treg t).st with
    | .poisoned => k.trap { cause := cTILEPOISON } s
    | .pending n =>
      (match k.S.forces.find? fun q => q.2.carry && q.2.tile == t && q.2.root == n with
       | some (id, r) => k.waitFor [id]
           (go (s.blur id r (r.sub.getD (blankTile r.rows r.cols)))) s
       | none => (k.force t row0.toNat (rows.toNat + 1) col0.toNat (cols.toNat + 1) true s).getD s)
    | _ => k.waitFor (k.S.readIds t) (fun s' => go ((s'.strand k.g k.t).treg t).tile s') s) s

/-! ## TDROP and TFENCE (R202, R378) -/

def Ctx.drop (k : Ctx) (t : Nat) (s : State) : State := s.setStrand k.g k.t fun S => ({ S with tregs := S.tregs.set t TileReg.zero } : Strand).gc

def execTdrop (c : Com) (n : BitVec 4) (s : State) : Host.Outcome State Fault Refusal :=
  graphIssue (.tdrop c n) (fun k s =>
    let t := n.toNat
    match k.S.pinned t with
    | u :: r => (k.forceAll (u :: r) s).2
    | [] =>
      let ids := k.S.readIds t
      if !(k.S.allDone ids) then s
      else
        let own := match (k.S.treg t).st with
          | .forced f => ((k.S.forces.get? f).bind ForceRec.fault).isSome
          | _ => false
        match k.settle ids s with
        | (s', some tr) => k.trap tr (if own then k.drop t s' else s')
        | (s', none) => k.done (k.drop t s')) s

def execTfence (c : Com) (s : State) : Host.Outcome State Fault Refusal :=
  graphIssue (.tfence c) (fun k s =>
    let s1 := s.drainSplit k.g k.t k.x
    k.done (s1.setStrand k.g k.t fun S => { S with tfences := S.tfences + 1, fenced := s1.mem.logging false })) s

/-! ## Weights (R217-R222, R379-R382) -/

def Gang.setPlane (G : Gang) (n : Nat) (P : Plane) : Gang := { G with planes := G.planes.set n P }

def execWld (c : Com) (d : BitVec 8) (ws : BitVec 2) (xs ys : BitVec 6) (imm : BitVec 32) (ty : Ty) (sparse : Bool) (slot : BitVec 8)
    (s : State) : Host.Outcome State Fault Refusal :=
  graphIssue (.wld c d ws xs ys imm ty sparse slot) (fun k s =>
    let w := ws.toNat
    if ((s.gang k.g).back w).loading then s
    else k.withRoom none [] (fun s =>
      let y := (k.s6 ys).toNat
      let P : Plane := { (s.gang k.g).back w with
        ver := low32 (k.s d), fmt := ty, kr := min (field y 8 0) (if ty = .f32 ∨ ty = .f16 then 64 else 256), nc := min (field y 22 16) 64,
        sp := sparse, loading := true, pois := false, pc := k.pc, fault := none }
      let seq := (s.strand k.g k.t).nextSeq
      let s0 : State := { s with mem := s.mem.logging true }
      let L : WLoad := { slot := w, strand := k.t, node := seq, addr := k.s6 xs + sext32 imm, ty := ty, sp := sparse, cb := slot.toNat, pc := k.pc,
                         since := s0.mem.logged, fenced := (s.strand k.g k.t).fenced }
      let s1 := s0.setGang k.g fun G => { G.setPlane (2 * w + 1) P with wloads := G.wloads ++ [L] }
      k.done (s1.setStrand k.g k.t fun S =>
        { S with graph := S.graph.set seq { kind := .wld w, rows := 0, cols := 0, pc := k.pc }, nextSeq := seq + 1 })) s) s

/-- What a weight load finds: the plane's elements and pruned positions, or the fault it keeps (R379). -/
def State.weightRead (s : State) (g : Nat) (L : WLoad) (kr nc : Nat) : Except GFault (Tbl Num × List Nat) :=
  let G := s.gang g
  let a := L.addr.toNat
  let mx := L.ty == .mx8 || L.ty == .mx4
  let rows := if L.sp then kr / 2 else kr
  let n := rows * nc
  let elemB := (n * tyBits L.ty + 7) / 8
  let metaB := if L.sp then kr / 4 * nc else 0
  let scaleB := if mx then (n + 31) / 32 else 0
  let total := elemB + metaB + scaleB
  let bad := fun (cause : Byte) (sub : Nat) (addr : DWord) =>
    Except.error ({ cause := cause, sub := BitVec.ofNat 16 sub, addr := addr, opc := L.pc } : GFault)
  if kr = 0 ∨ nc = 0 then .ok ([], [])
  else if a % max 1 (tyBytes L.ty) ≠ 0 ∨ (mx ∧ nc ≠ 32 ∧ nc ≠ 64) ∨ (L.sp ∧ kr % 4 ≠ 0) ∨ a + total > G.lrec.spad then bad 1 2 L.addr
  else
    let pa := fun i => spAddr G.core (G.spUnit * 1024 + a + i)
    let rd := s.leafByte L.since L.fenced
    let byte := fun i => (rd (pa i)).toNat
    let grp := fun c q => byte (elemB + c * (kr / 4) + q)
    let metas := if L.sp then (List.range nc).flatMap fun c => (List.range (kr / 4)).map fun q => (c, q, grp c q) else []
    if metas.any fun m => field m.2.2 7 4 != 0 || decide (field m.2.2 1 0 ≥ field m.2.2 3 2) then bad 1 1 L.addr
    else match (List.range total).find? fun i => s.mem.poisoned (pa i) 1 with
      | some i => bad cPOISON 0 (L.addr + BitVec.ofNat 64 i - BitVec.ofNat 64 ((a + i) % 32))
      | none =>
        let raw := fun i => if tyBits L.ty = 4 then byte (i / 2) / 16 ^ (i % 2) % 16
                            else ofLe ((List.range (tyBytes L.ty)).map fun j => rd (pa (i * tyBytes L.ty + j)))
        let val := fun i =>
          if L.ty = .cb4 then s.codebook G.part L.cb (raw i)
          else if mx then mxValue (byte (elemB + metaB + i / 32)) (Num.decode (if L.ty = .mx8 then .e4m3 else .e2m1) (raw i))
          else decodeTy L.ty (raw i)
        let cells :=
          if L.sp then metas.flatMap fun m =>
            [((4 * m.2.1 + field m.2.2 1 0) * 64 + m.1, val (2 * m.2.1 * nc + m.1)),
             ((4 * m.2.1 + field m.2.2 3 2) * 64 + m.1, val ((2 * m.2.1 + 1) * nc + m.1))]
          else (List.range n).map fun i => (i / nc * 64 + i % nc, val i)
        let kept := fun (m : Nat × Nat × Nat) j => j == field m.2.2 1 0 || j == field m.2.2 3 2
        .ok (cells.foldl (fun t q => if q.2 = Num.zero false then t else Tbl.set t q.1 q.2) [],
             metas.flatMap fun m => ((List.range 4).filter fun j => !(kept m j)).map fun j => (4 * m.2.1 + j) * 64 + m.1)

/-- WEIGHT_LOAD_COMPLETE (R218, R379): the load of a slot's back plane ends; its node leaves the buffer. -/
def execWeightLoadComplete (s : State) : Host.Outcome State Fault Refusal :=
  .next (
    let g := s.cur.t
    match (s.gang g).wloads.find? fun L => L.slot == s.cur.x with
    | none => s
    | some L =>
      let P := (s.gang g).back L.slot
      let P' : Plane := match s.weightRead g L P.kr P.nc with
        | .ok (els, pr) => { P with loading := false, elems := els, pruned := pr }
        | .error f => { P with loading := false, pois := true, fault := some f }
      let s1 := s.setGang g fun G => { G.setPlane (2 * L.slot + 1) P' with wloads := G.wloads.filter fun M => M.slot != L.slot }
      (s1.setStrand g L.strand fun S => { S with graph := S.graph.erase L.node }).tendLog)

/-- The registers of a strand whose pending nodes reach a slot. -/
def Strand.slotReaders (S : Strand) (w : Nat) : List Nat := byRoot (S.pending.filter fun q => (slotsOf S.graph (S.reachOf q.2)).contains w)

def execWswap (c : Com) (n : BitVec 2) (s : State) : Host.Outcome State Fault Refusal :=
  graphIssue (.wswap c n) (fun k s =>
    let w := n.toNat
    if ((s.gang k.g).back w).loading then s
    else
      match k.S.slotReaders w with
      | t :: r => (k.forceAll (t :: r) s).2
      | [] =>
        if (s.core k.G.core).forces.any fun F => F.gang == k.g && F.slots.contains w then s
        else k.waitFor k.S.carried (fun s =>
          let G := s.gang k.g
          if (G.back w).pois then
            k.trap (graphTrap ((G.back w).fault.getD { cause := 0, sub := 0, addr := 0, opc := (G.back w).pc }) 0) s
          else k.done (s.setGang k.g fun G => (G.setPlane (2 * w) (G.back w)).setPlane (2 * w + 1) (G.front w))) s) s

def execWver (c : Com) (a : BitVec 8) (n : BitVec 2) (s : State) : Host.Outcome State Fault Refusal :=
  graphIssue (.wver c a n) (fun k s =>
    let v := ((s.gang k.g).front n.toNat).ver
    if v = low32 (k.s a) then k.done s
    else k.trap { cause := cWVERSION, detail := cat32 v (low32 (k.s a)) } s) s

def execTplan (c : Com) (d : BitVec 8) (w : BitVec 2) (s : State) : Host.Outcome State Fault Refusal :=
  graphIssue (.tplan c d w) (fun k s =>
    k.done (s.setView k.g k.t k.x fun v => v.putScalar d.toNat ((k.S.plan.getD []).getD w.toNat 0))) s

/-! ## CKPT (R102, R367) -/

def execCkpt (c : Com) (s : State) : Host.Outcome State Fault Refusal :=
  issue (.ckpt c) (fun k s =>
    if !k.S.converged then k.trap { cause := cCONVERGENCE, detail := 1 } s
    else if k.S.eret.isSome then k.trap { cause := cFLASHSTATE } s
    else if !k.S.isLaunch then k.trap { cause := cILLEGAL, detail := 0x0B } s
    else if k.G.wloads.any fun L => L.strand == k.t then s
    else
      match byRoot k.S.pending with
      | t :: r => (k.forceAll (t :: r) s).2
      | [] =>
        let ids := (k.S.tregs.map Prod.fst).flatMap k.S.readIds ++ k.S.carried
        k.waitFor ids (fun s =>
          let s1 := (k.done s).setSplit k.g k.t k.x fun X => { X with st := .wait, wait := some .ckpt }
          (s1.setGang k.g fun G => { G with lapAt := G.lapAt ++ [k.t] }).lapSettle k.g) s) s

end Sys2Proof.Machine
end

