-- ==== Sys2Proof/Machine/Dispatch.lean ====
section
/-! DEFINITION. Machine/Dispatch.lean: one arm per constructor of Instr, each a direct call of its meaning. -/

namespace Sys2Proof.Machine

open Sys2Proof

def exec (i : Instr) (s : State) : Host.Outcome State Fault Refusal :=
  match i with
  | .ill y0 => Sys2Proof.Machine.execIll y0 s
  | .nop y0 => Sys2Proof.Machine.execNop y0 s
  | .bra y0 y1 => Sys2Proof.Machine.execBra y0 y1 s
  | .brc y0 y1 y2 y3 => Sys2Proof.Machine.execBrc y0 y1 y2 y3 s
  | .call y0 y1 y2 => Sys2Proof.Machine.execCall y0 y1 y2 s
  | .ret y0 y1 => Sys2Proof.Machine.execRet y0 y1 s
  | .callx y0 y1 y2 => Sys2Proof.Machine.execCallx y0 y1 y2 s
  | .jmpx y0 y1 => Sys2Proof.Machine.execJmpx y0 y1 s
  | .vbr y0 y1 y2 => Sys2Proof.Machine.execVbr y0 y1 y2 s
  | .join y0 => Sys2Proof.Machine.execJoin y0 s
  | .vif y0 y1 y2 => Sys2Proof.Machine.execVif y0 y1 y2 s
  | .velse y0 => Sys2Proof.Machine.execVelse y0 s
  | .vendif y0 => Sys2Proof.Machine.execVendif y0 s
  | .vloop y0 => Sys2Proof.Machine.execVloop y0 s
  | .vbreak y0 y1 y2 => Sys2Proof.Machine.execVbreak y0 y1 y2 s
  | .vcont y0 y1 y2 => Sys2Proof.Machine.execVcont y0 y1 y2 s
  | .vendl y0 y1 y2 y3 => Sys2Proof.Machine.execVendl y0 y1 y2 y3 s
  | .exit y0 => Sys2Proof.Machine.execExit y0 s
  | .flash y0 y1 => Sys2Proof.Machine.execFlash y0 y1 s
  | .spawn y0 y1 y2 => Sys2Proof.Machine.execSpawn y0 y1 y2 s
  | .ovlcall y0 y1 y2 y3 => Sys2Proof.Machine.execOvlcall y0 y1 y2 y3 s
  | .trap y0 y1 => Sys2Proof.Machine.execTrap y0 y1 s
  | .bkpt y0 y1 => Sys2Proof.Machine.execBkpt y0 y1 s
  | .sadd y0 y1 y2 y3 => Sys2Proof.Machine.execSadd y0 y1 y2 y3 s
  | .ssub y0 y1 y2 y3 => Sys2Proof.Machine.execSsub y0 y1 y2 y3 s
  | .smul y0 y1 y2 y3 => Sys2Proof.Machine.execSmul y0 y1 y2 y3 s
  | .smulh y0 y1 y2 y3 y4 => Sys2Proof.Machine.execSmulh y0 y1 y2 y3 y4 s
  | .sdiv y0 y1 y2 y3 y4 => Sys2Proof.Machine.execSdiv y0 y1 y2 y3 y4 s
  | .srem y0 y1 y2 y3 y4 => Sys2Proof.Machine.execSrem y0 y1 y2 y3 y4 s
  | .sand y0 y1 y2 y3 => Sys2Proof.Machine.execSand y0 y1 y2 y3 s
  | .sor y0 y1 y2 y3 => Sys2Proof.Machine.execSor y0 y1 y2 y3 s
  | .sxor y0 y1 y2 y3 => Sys2Proof.Machine.execSxor y0 y1 y2 y3 s
  | .sshl y0 y1 y2 y3 => Sys2Proof.Machine.execSshl y0 y1 y2 y3 s
  | .sshr y0 y1 y2 y3 => Sys2Proof.Machine.execSshr y0 y1 y2 y3 s
  | .ssra y0 y1 y2 y3 => Sys2Proof.Machine.execSsra y0 y1 y2 y3 s
  | .smin y0 y1 y2 y3 y4 => Sys2Proof.Machine.execSmin y0 y1 y2 y3 y4 s
  | .smax y0 y1 y2 y3 y4 => Sys2Proof.Machine.execSmax y0 y1 y2 y3 y4 s
  | .scmp y0 y1 y2 y3 y4 y5 => Sys2Proof.Machine.execScmp y0 y1 y2 y3 y4 y5 s
  | .ssel y0 y1 y2 y3 y4 => Sys2Proof.Machine.execSsel y0 y1 y2 y3 y4 s
  | .saddi y0 y1 y2 y3 => Sys2Proof.Machine.execSaddi y0 y1 y2 y3 s
  | .smovi y0 y1 y2 => Sys2Proof.Machine.execSmovi y0 y1 y2 s
  | .smovhi y0 y1 y2 => Sys2Proof.Machine.execSmovhi y0 y1 y2 s
  | .sclz y0 y1 y2 => Sys2Proof.Machine.execSclz y0 y1 y2 s
  | .spopc y0 y1 y2 => Sys2Proof.Machine.execSpopc y0 y1 y2 s
  | .sbfx y0 y1 y2 y3 y4 y5 => Sys2Proof.Machine.execSbfx y0 y1 y2 y3 y4 y5 s
  | .sbfi y0 y1 y2 y3 y4 => Sys2Proof.Machine.execSbfi y0 y1 y2 y3 y4 s
  | .srdv y0 y1 y2 y3 y4 => Sys2Proof.Machine.execSrdv y0 y1 y2 y3 y4 s
  | .svote y0 y1 y2 y3 => Sys2Proof.Machine.execSvote y0 y1 y2 y3 s
  | .sredv y0 y1 y2 y3 y4 => Sys2Proof.Machine.execSredv y0 y1 y2 y3 y4 s
  | .vadd y0 y1 y2 y3 y4 y5 => Sys2Proof.Machine.execVadd y0 y1 y2 y3 y4 y5 s
  | .vsub y0 y1 y2 y3 y4 y5 => Sys2Proof.Machine.execVsub y0 y1 y2 y3 y4 y5 s
  | .vmul y0 y1 y2 y3 y4 => Sys2Proof.Machine.execVmul y0 y1 y2 y3 y4 s
  | .vmulh y0 y1 y2 y3 y4 => Sys2Proof.Machine.execVmulh y0 y1 y2 y3 y4 s
  | .vmad y0 y1 y2 y3 y4 y5 => Sys2Proof.Machine.execVmad y0 y1 y2 y3 y4 y5 s
  | .vand y0 y1 y2 y3 y4 => Sys2Proof.Machine.execVand y0 y1 y2 y3 y4 s
  | .vor y0 y1 y2 y3 y4 => Sys2Proof.Machine.execVor y0 y1 y2 y3 y4 s
  | .vxor y0 y1 y2 y3 y4 => Sys2Proof.Machine.execVxor y0 y1 y2 y3 y4 s
  | .vshl y0 y1 y2 y3 y4 => Sys2Proof.Machine.execVshl y0 y1 y2 y3 y4 s
  | .vshr y0 y1 y2 y3 y4 => Sys2Proof.Machine.execVshr y0 y1 y2 y3 y4 s
  | .vsra y0 y1 y2 y3 y4 => Sys2Proof.Machine.execVsra y0 y1 y2 y3 y4 s
  | .vmin y0 y1 y2 y3 y4 => Sys2Proof.Machine.execVmin y0 y1 y2 y3 y4 s
  | .vmax y0 y1 y2 y3 y4 => Sys2Proof.Machine.execVmax y0 y1 y2 y3 y4 s
  | .vabs y0 y1 y2 y3 y4 => Sys2Proof.Machine.execVabs y0 y1 y2 y3 y4 s
  | .vclz y0 y1 y2 y3 => Sys2Proof.Machine.execVclz y0 y1 y2 y3 s
  | .vpopc y0 y1 y2 y3 => Sys2Proof.Machine.execVpopc y0 y1 y2 y3 s
  | .vbfx y0 y1 y2 y3 y4 y5 => Sys2Proof.Machine.execVbfx y0 y1 y2 y3 y4 y5 s
  | .vbfi y0 y1 y2 y3 y4 => Sys2Proof.Machine.execVbfi y0 y1 y2 y3 y4 s
  | .vsel y0 y1 y2 y3 y4 y5 => Sys2Proof.Machine.execVsel y0 y1 y2 y3 y4 y5 s
  | .vcmp y0 y1 y2 y3 y4 y5 => Sys2Proof.Machine.execVcmp y0 y1 y2 y3 y4 y5 s
  | .vaddi y0 y1 y2 y3 y4 => Sys2Proof.Machine.execVaddi y0 y1 y2 y3 y4 s
  | .vmov y0 y1 y2 y3 => Sys2Proof.Machine.execVmov y0 y1 y2 y3 s
  | .vmovi y0 y1 y2 => Sys2Proof.Machine.execVmovi y0 y1 y2 s
  | .vshuf y0 y1 y2 y3 y4 => Sys2Proof.Machine.execVshuf y0 y1 y2 y3 y4 s
  | .vscan y0 y1 y2 y3 y4 y5 => Sys2Proof.Machine.execVscan y0 y1 y2 y3 y4 y5 s
  | .vsegred y0 y1 y2 y3 y4 y5 => Sys2Proof.Machine.execVsegred y0 y1 y2 y3 y4 y5 s
  | .vlane y0 y1 y2 => Sys2Proof.Machine.execVlane y0 y1 y2 s
  | .vfadd y0 y1 y2 y3 y4 => Sys2Proof.Machine.execVfadd y0 y1 y2 y3 y4 s
  | .vfsub y0 y1 y2 y3 y4 => Sys2Proof.Machine.execVfsub y0 y1 y2 y3 y4 s
  | .vfmul y0 y1 y2 y3 y4 => Sys2Proof.Machine.execVfmul y0 y1 y2 y3 y4 s
  | .vfdiv y0 y1 y2 y3 y4 => Sys2Proof.Machine.execVfdiv y0 y1 y2 y3 y4 s
  | .vffma y0 y1 y2 y3 y4 y5 y6 y7 => Sys2Proof.Machine.execVffma y0 y1 y2 y3 y4 y5 y6 y7 s
  | .vfsqrt y0 y1 y2 y3 => Sys2Proof.Machine.execVfsqrt y0 y1 y2 y3 s
  | .vfmin y0 y1 y2 y3 => Sys2Proof.Machine.execVfmin y0 y1 y2 y3 s
  | .vfmax y0 y1 y2 y3 => Sys2Proof.Machine.execVfmax y0 y1 y2 y3 s
  | .vfcmp y0 y1 y2 y3 y4 => Sys2Proof.Machine.execVfcmp y0 y1 y2 y3 y4 s
  | .vfrcp y0 y1 y2 => Sys2Proof.Machine.execVfrcp y0 y1 y2 s
  | .vfrsq y0 y1 y2 => Sys2Proof.Machine.execVfrsq y0 y1 y2 s
  | .vfexp2 y0 y1 y2 => Sys2Proof.Machine.execVfexp2 y0 y1 y2 s
  | .vflog2 y0 y1 y2 => Sys2Proof.Machine.execVflog2 y0 y1 y2 s
  | .vfrnd y0 y1 y2 y3 => Sys2Proof.Machine.execVfrnd y0 y1 y2 y3 s
  | .vfcvt y0 y1 y2 y3 y4 y5 => Sys2Proof.Machine.execVfcvt y0 y1 y2 y3 y4 y5 s
  | .vfcls y0 y1 y2 => Sys2Proof.Machine.execVfcls y0 y1 y2 s
  | .vdadd y0 y1 y2 y3 y4 => Sys2Proof.Machine.execVdadd y0 y1 y2 y3 y4 s
  | .vdsub y0 y1 y2 y3 y4 => Sys2Proof.Machine.execVdsub y0 y1 y2 y3 y4 s
  | .vdmul y0 y1 y2 y3 y4 => Sys2Proof.Machine.execVdmul y0 y1 y2 y3 y4 s
  | .vdfma y0 y1 y2 y3 y4 y5 y6 y7 => Sys2Proof.Machine.execVdfma y0 y1 y2 y3 y4 y5 y6 y7 s
  | .vdcvt y0 y1 y2 y3 y4 y5 => Sys2Proof.Machine.execVdcvt y0 y1 y2 y3 y4 y5 s
  | .vdcmp y0 y1 y2 y3 y4 => Sys2Proof.Machine.execVdcmp y0 y1 y2 y3 y4 s
  | .vrng y0 y1 y2 y3 => Sys2Proof.Machine.execVrng y0 y1 y2 y3 s
  | .sld y0 y1 y2 y3 y4 y5 => Sys2Proof.Machine.execSld y0 y1 y2 y3 y4 y5 s
  | .sst y0 y1 y2 y3 y4 y5 => Sys2Proof.Machine.execSst y0 y1 y2 y3 y4 y5 s
  | .vld y0 y1 y2 y3 y4 y5 => Sys2Proof.Machine.execVld y0 y1 y2 y3 y4 y5 s
  | .vst y0 y1 y2 y3 y4 y5 => Sys2Proof.Machine.execVst y0 y1 y2 y3 y4 y5 s
  | .vlds y0 y1 y2 y3 y4 y5 y6 => Sys2Proof.Machine.execVlds y0 y1 y2 y3 y4 y5 y6 s
  | .vsts y0 y1 y2 y3 y4 y5 y6 => Sys2Proof.Machine.execVsts y0 y1 y2 y3 y4 y5 y6 s
  | .vldx y0 y1 y2 y3 y4 y5 y6 => Sys2Proof.Machine.execVldx y0 y1 y2 y3 y4 y5 y6 s
  | .vstx y0 y1 y2 y3 y4 y5 y6 => Sys2Proof.Machine.execVstx y0 y1 y2 y3 y4 y5 y6 s
  | .vldt y0 y1 y2 y3 y4 y5 y6 => Sys2Proof.Machine.execVldt y0 y1 y2 y3 y4 y5 y6 s
  | .waitl y0 y1 => Sys2Proof.Machine.execWaitl y0 y1 s
  | .pref y0 y1 y2 => Sys2Proof.Machine.execPref y0 y1 y2 s
  | .cflush y0 y1 y2 => Sys2Proof.Machine.execCflush y0 y1 y2 s
  | .vatom y0 y1 y2 y3 y4 y5 y6 y7 y8 y9 => Sys2Proof.Machine.execVatom y0 y1 y2 y3 y4 y5 y6 y7 y8 y9 s
  | .vcas y0 y1 y2 y3 y4 y5 y6 y7 => Sys2Proof.Machine.execVcas y0 y1 y2 y3 y4 y5 y6 y7 s
  | .satom y0 y1 y2 y3 y4 y5 y6 y7 y8 => Sys2Proof.Machine.execSatom y0 y1 y2 y3 y4 y5 y6 y7 y8 s
  | .scas y0 y1 y2 y3 y4 y5 y6 => Sys2Proof.Machine.execScas y0 y1 y2 y3 y4 y5 y6 s
  | .fence y0 y1 => Sys2Proof.Machine.execFence y0 y1 s
  | .bars y0 y1 y2 => Sys2Proof.Machine.execBars y0 y1 y2 s
  | .bara y0 y1 => Sys2Proof.Machine.execBara y0 y1 s
  | .barw y0 y1 => Sys2Proof.Machine.execBarw y0 y1 s
  | .bart y0 y1 => Sys2Proof.Machine.execBart y0 y1 s
  | .clbar y0 y1 y2 => Sys2Proof.Machine.execClbar y0 y1 y2 s
  | .cpy y0 y1 y2 y3 y4 y5 y6 => Sys2Proof.Machine.execCpy y0 y1 y2 y3 y4 y5 y6 s
  | .cpyt y0 y1 y2 y3 y4 y5 y6 y7 => Sys2Proof.Machine.execCpyt y0 y1 y2 y3 y4 y5 y6 y7 s
  | .cpyg y0 y1 y2 y3 y4 y5 y6 y7 y8 => Sys2Proof.Machine.execCpyg y0 y1 y2 y3 y4 y5 y6 y7 y8 s
  | .cpyd y0 y1 y2 y3 y4 y5 y6 y7 y8 => Sys2Proof.Machine.execCpyd y0 y1 y2 y3 y4 y5 y6 y7 y8 s
  | .cstage y0 => Sys2Proof.Machine.execCstage y0 s
  | .lfence y0 => Sys2Proof.Machine.execLfence y0 s
  | .lrec y0 y1 y2 => Sys2Proof.Machine.execLrec y0 y1 y2 s
  | .ovld y0 y1 y2 y3 y4 y5 y6 y7 => Sys2Proof.Machine.execOvld y0 y1 y2 y3 y4 y5 y6 y7 s
  | .cbld y0 y1 y2 y3 y4 => Sys2Proof.Machine.execCbld y0 y1 y2 y3 y4 s
  | .ckpt y0 => Sys2Proof.Machine.execCkpt y0 s
  | .tld y0 y1 y2 y3 y4 y5 => Sys2Proof.Machine.execTld y0 y1 y2 y3 y4 y5 s
  | .tldv y0 y1 y2 y3 y4 y5 y6 => Sys2Proof.Machine.execTldv y0 y1 y2 y3 y4 y5 y6 s
  | .tmma y0 y1 y2 => Sys2Proof.Machine.execTmma y0 y1 y2 s
  | .ttrn y0 y1 y2 => Sys2Proof.Machine.execTtrn y0 y1 y2 s
  | .tcvt y0 y1 y2 y3 y4 => Sys2Proof.Machine.execTcvt y0 y1 y2 y3 y4 s
  | .tforce y0 y1 => Sys2Proof.Machine.execTforce y0 y1 s
  | .tbatch y0 y1 => Sys2Proof.Machine.execTbatch y0 y1 s
  | .twait y0 y1 => Sys2Proof.Machine.execTwait y0 y1 s
  | .tst y0 y1 y2 => Sys2Proof.Machine.execTst y0 y1 y2 s
  | .trdv y0 y1 y2 y3 y4 y5 y6 y7 => Sys2Proof.Machine.execTrdv y0 y1 y2 y3 y4 y5 y6 y7 s
  | .tdrop y0 y1 => Sys2Proof.Machine.execTdrop y0 y1 s
  | .tfence y0 => Sys2Proof.Machine.execTfence y0 s
  | .wld y0 y1 y2 y3 y4 y5 y6 y7 y8 => Sys2Proof.Machine.execWld y0 y1 y2 y3 y4 y5 y6 y7 y8 s
  | .wswap y0 y1 => Sys2Proof.Machine.execWswap y0 y1 s
  | .tplan y0 y1 y2 => Sys2Proof.Machine.execTplan y0 y1 y2 s
  | .wver y0 y1 y2 => Sys2Proof.Machine.execWver y0 y1 y2 s
  | .bred y0 y1 y2 y3 y4 y5 => Sys2Proof.Machine.execBred y0 y1 y2 y3 y4 y5 s
  | .bxadd y0 y1 y2 y3 y4 => Sys2Proof.Machine.execBxadd y0 y1 y2 y3 y4 s
  | .bxrd y0 y1 y2 y3 y4 y5 => Sys2Proof.Machine.execBxrd y0 y1 y2 y3 y4 y5 s
  | .bxclr y0 y1 y2 y3 => Sys2Proof.Machine.execBxclr y0 y1 y2 y3 s
  | .baxpy y0 y1 y2 y3 y4 y5 y6 => Sys2Proof.Machine.execBaxpy y0 y1 y2 y3 y4 y5 y6 s
  | .bewu y0 y1 y2 y3 y4 y5 y6 y7 y8 => Sys2Proof.Machine.execBewu y0 y1 y2 y3 y4 y5 y6 y7 y8 s
  | .ksinit y0 y1 y2 y3 y4 y5 y6 => Sys2Proof.Machine.execKsinit y0 y1 y2 y3 y4 y5 y6 s
  | .ksupd y0 y1 y2 y3 y4 y5 => Sys2Proof.Machine.execKsupd y0 y1 y2 y3 y4 y5 s
  | .ksqry y0 y1 y2 y3 y4 => Sys2Proof.Machine.execKsqry y0 y1 y2 y3 y4 s
  | .ksadd y0 y1 y2 y3 => Sys2Proof.Machine.execKsadd y0 y1 y2 y3 s
  | .lkrel y0 y1 => Sys2Proof.Machine.execLkrel y0 y1 s
  | .lkstat y0 y1 y2 => Sys2Proof.Machine.execLkstat y0 y1 y2 s
  | .invk y0 y1 y2 y3 y4 y5 => Sys2Proof.Machine.execInvk y0 y1 y2 y3 y4 y5 s
  | .invka y0 y1 y2 y3 y4 y5 => Sys2Proof.Machine.execInvka y0 y1 y2 y3 y4 y5 s
  | .lkwait y0 y1 y2 => Sys2Proof.Machine.execLkwait y0 y1 y2 s
  | .lkget y0 y1 y2 y3 y4 y5 => Sys2Proof.Machine.execLkget y0 y1 y2 y3 y4 y5 s
  | .sysrd y0 y1 y2 => Sys2Proof.Machine.execSysrd y0 y1 y2 s
  | .syswr y0 y1 y2 => Sys2Proof.Machine.execSyswr y0 y1 y2 s
  | .eret y0 => Sys2Proof.Machine.execEret y0 s
  | .fltrd y0 y1 y2 => Sys2Proof.Machine.execFltrd y0 y1 y2 s
  | .clasp y0 y1 => Sys2Proof.Machine.execClasp y0 y1 s
  | .unassignedMajor y0 => Sys2Proof.Machine.execUnassignedMajor y0 s
  | .coldReset => Sys2Proof.Machine.execColdReset s
  | .lifecycleFuse y0 y1 y2 => Sys2Proof.Machine.execLifecycleFuse y0 y1 y2 s
  | .mpWatchdogReset => Sys2Proof.Machine.execMpWatchdogReset s
  | .limranStart => Sys2Proof.Machine.execLimranStart s
  | .ucieModuleTrainingFailure y0 => Sys2Proof.Machine.execUcieModuleTrainingFailure y0 s
  | .powerSample y0 => Sys2Proof.Machine.execPowerSample y0 s
  | .junctionTemperature105 y0 => Sys2Proof.Machine.execJunctionTemperature105 y0 s
  | .thermalTrip => Sys2Proof.Machine.execThermalTrip s
  | .claspTrigger y0 y1 => Sys2Proof.Machine.execClaspTrigger y0 y1 s
  | .snapshotLatch => Sys2Proof.Machine.execSnapshotLatch s
  | .snapshotRearm => Sys2Proof.Machine.execSnapshotRearm s
  | .uncorrectableCoreError y0 => Sys2Proof.Machine.execUncorrectableCoreError y0 s
  | .poisonError y0 => Sys2Proof.Machine.execPoisonError y0 s
  | .correctableError y0 y1 => Sys2Proof.Machine.execCorrectableError y0 y1 s
  | .quarantinedCoreTest y0 y1 => Sys2Proof.Machine.execQuarantinedCoreTest y0 y1 s
  | .fencedSlotTest y0 y1 y2 => Sys2Proof.Machine.execFencedSlotTest y0 y1 y2 s
  | .qassignWrite y0 y1 => Sys2Proof.Machine.execQassignWrite y0 y1 s
  | .queueEnable y0 y1 => Sys2Proof.Machine.execQueueEnable y0 y1 s
  | .queueDisable y0 y1 y2 => Sys2Proof.Machine.execQueueDisable y0 y1 y2 s
  | .qreset y0 y1 => Sys2Proof.Machine.execQreset y0 y1 s
  | .notifyWrite y0 y1 y2 y3 y4 => Sys2Proof.Machine.execNotifyWrite y0 y1 y2 y3 y4 s
  | .layctlGo => Sys2Proof.Machine.execLayctlGo s
  | .contextSave y0 => Sys2Proof.Machine.execContextSave y0 s
  | .contextRestore y0 => Sys2Proof.Machine.execContextRestore y0 s
  | .flr y0 => Sys2Proof.Machine.execFlr y0 s
  | .vfEnableClear => Sys2Proof.Machine.execVfEnableClear s
  | .attestationGo y0 => Sys2Proof.Machine.execAttestationGo y0 s
  | .challengeRead y0 => Sys2Proof.Machine.execChallengeRead y0 s
  | .debugUnlock y0 => Sys2Proof.Machine.execDebugUnlock y0 s
  | .pkgidWrite y0 => Sys2Proof.Machine.execPkgidWrite y0 s
  | .rtbaseWrite y0 => Sys2Proof.Machine.execRtbaseWrite y0 s
  | .tlbinvRange y0 y1 => Sys2Proof.Machine.execTlbinvRange y0 y1 s
  | .tlbinvAll y0 y1 => Sys2Proof.Machine.execTlbinvAll y0 y1 s
  | .gangctlResume y0 y1 => Sys2Proof.Machine.execGangctlResume y0 y1 s
  | .gangctlKill y0 y1 => Sys2Proof.Machine.execGangctlKill y0 y1 s
  | .pfqreplayRetry y0 y1 => Sys2Proof.Machine.execPfqreplayRetry y0 y1 s
  | .pfqreplayCancel y0 y1 => Sys2Proof.Machine.execPfqreplayCancel y0 y1 s
  | .registerWrite y0 y1 y2 => Sys2Proof.Machine.execRegisterWrite y0 y1 y2 s
  | .hostBar4Access y0 y1 y2 y3 => Sys2Proof.Machine.execHostBar4Access y0 y1 y2 y3 s
  | .flitCrcFailure y0 => Sys2Proof.Machine.execFlitCrcFailure y0 s
  | .linkDown y0 => Sys2Proof.Machine.execLinkDown y0 s
  | .idleFlit y0 y1 => Sys2Proof.Machine.execIdleFlit y0 y1 s
  | .invocationRequest y0 => Sys2Proof.Machine.execInvocationRequest y0 s
  | .forwardedInvocation y0 => Sys2Proof.Machine.execForwardedInvocation y0 s
  | .accept y0 => Sys2Proof.Machine.execAccept y0 s
  | .resolve y0 => Sys2Proof.Machine.execResolve y0 s
  | .tarnish y0 => Sys2Proof.Machine.execTarnish y0 s
  | .release y0 => Sys2Proof.Machine.execRelease y0 s
  | .acknowledgement y0 y1 => Sys2Proof.Machine.execAcknowledgement y0 y1 s
  | .keepAlive y0 => Sys2Proof.Machine.execKeepAlive y0 s
  | .copyReadRequest y0 => Sys2Proof.Machine.execCopyReadRequest y0 s
  | .copyReadData y0 => Sys2Proof.Machine.execCopyReadData y0 s
  | .copyWriteData y0 => Sys2Proof.Machine.execCopyWriteData y0 s
  | .copyCompletion y0 => Sys2Proof.Machine.execCopyCompletion y0 s
  | .managementFlit y0 y1 => Sys2Proof.Machine.execManagementFlit y0 y1 s
  | .linkUp y0 => Sys2Proof.Machine.execLinkUp y0 s
  | .reservedFlitType y0 y1 y2 => Sys2Proof.Machine.execReservedFlitType y0 y1 y2 s
  | .mapperBind => Sys2Proof.Machine.execMapperBind s
  | .slotIdleFree => Sys2Proof.Machine.execSlotIdleFree s
  | .slotBindLimit => Sys2Proof.Machine.execSlotBindLimit s
  | .launch => Sys2Proof.Machine.execLaunch s
  | .regionCreate => Sys2Proof.Machine.execRegionCreate s
  | .regionSet => Sys2Proof.Machine.execRegionSet s
  | .regionDestroy => Sys2Proof.Machine.execRegionDestroy s
  | .invoke => Sys2Proof.Machine.execInvoke s
  | .capture => Sys2Proof.Machine.execCapture s
  | .signal => Sys2Proof.Machine.execSignal s
  | .signalWrite => Sys2Proof.Machine.execSignalWrite s
  | .queueFence => Sys2Proof.Machine.execQueueFence s
  | .fencePoll => Sys2Proof.Machine.execFencePoll s
  | .usageWriteback => Sys2Proof.Machine.execUsageWriteback s
  | .scrubComplete => Sys2Proof.Machine.execScrubComplete s
  | .contextSaveComplete => Sys2Proof.Machine.execContextSaveComplete s
  | .flrDrainEnd => Sys2Proof.Machine.execFlrDrainEnd s
  | .flrComplete => Sys2Proof.Machine.execFlrComplete s
  | .attestationReportDone => Sys2Proof.Machine.execAttestationReportDone s
  | .tlbinvComplete => Sys2Proof.Machine.execTlbinvComplete s
  | .messageRetransmit => Sys2Proof.Machine.execMessageRetransmit s
  | .keepAliveSend => Sys2Proof.Machine.execKeepAliveSend s
  | .unreachableDeclaration => Sys2Proof.Machine.execUnreachableDeclaration s
  | .addressedInvocationStart => Sys2Proof.Machine.execAddressedInvocationStart s
  | .gangAdmission => Sys2Proof.Machine.execGangAdmission s
  | .gangPlacement => Sys2Proof.Machine.execGangPlacement s
  | .overlayLoadComplete => Sys2Proof.Machine.execOverlayLoadComplete s
  | .translationComplete => Sys2Proof.Machine.execTranslationComplete s
  | .drainToFitMark => Sys2Proof.Machine.execDrainToFitMark s
  | .sliceExpiry => Sys2Proof.Machine.execSliceExpiry s
  | .preemptionTrigger => Sys2Proof.Machine.execPreemptionTrigger s
  | .runToFlashTimeout => Sys2Proof.Machine.execRunToFlashTimeout s
  | .gangSave => Sys2Proof.Machine.execGangSave s
  | .gangSaveComplete => Sys2Proof.Machine.execGangSaveComplete s
  | .gangResume => Sys2Proof.Machine.execGangResume s
  | .checkpoint => Sys2Proof.Machine.execCheckpoint s
  | .spawnBinTimer => Sys2Proof.Machine.execSpawnBinTimer s
  | .spawnBinLaunch => Sys2Proof.Machine.execSpawnBinLaunch s
  | .spawnStarvation => Sys2Proof.Machine.execSpawnStarvation s
  | .strandRelease => Sys2Proof.Machine.execStrandRelease s
  | .gangExit => Sys2Proof.Machine.execGangExit s
  | .loadReturn => Sys2Proof.Machine.execLoadReturn s
  | .granuleRefill => Sys2Proof.Machine.execGranuleRefill s
  | .copyDescriptorStart => Sys2Proof.Machine.execCopyDescriptorStart s
  | .faultQueueEntry => Sys2Proof.Machine.execFaultQueueEntry s
  | .copyComplete => Sys2Proof.Machine.execCopyComplete s
  | .bankRequest => Sys2Proof.Machine.execBankRequest s
  | .bankCommandComplete => Sys2Proof.Machine.execBankCommandComplete s
  | .evaluationStart => Sys2Proof.Machine.execEvaluationStart s
  | .evaluationComplete => Sys2Proof.Machine.execEvaluationComplete s
  | .weightLoadComplete => Sys2Proof.Machine.execWeightLoadComplete s
  | .clusterBarrierArrival => Sys2Proof.Machine.execClusterBarrierArrival s
  | .clusterBarrierRelease => Sys2Proof.Machine.execClusterBarrierRelease s
  | .locketResultWrite => Sys2Proof.Machine.execLocketResultWrite s
  | .captureStart => Sys2Proof.Machine.execCaptureStart s
  | .capturePageCopy => Sys2Proof.Machine.execCapturePageCopy s
  | .opNotDefined => Sys2Proof.Machine.execOpNotDefined s
  | .contextRestoreComplete => Sys2Proof.Machine.execContextRestoreComplete s
  | .poolPageNotPresent => Sys2Proof.Machine.execPoolPageNotPresent s

end Sys2Proof.Machine
end

