-- ==== Sys2Proof/Machine/Agents.lean ====
section
/-! DEFINITION. Machine/Agents.lean: what may happen next: the splits that may issue, and the events of the part's other agents; and how one
of them happens (DESIGN CHOICE, log entry 1). An event listed here whose own condition fails when it is taken changes nothing. -/

namespace Sys2Proof.Machine

open Sys2Proof

/-- Something that may happen next: a split's next instruction, an event of an agent, a transmit slot of a link, a flit's turn on the host link
(R48), the performance of a store that a strand has issued (R245). -/
inductive Act where
  | split (c : Cur)
  | event (ev : Instr) (c : Cur)
  | slot (link : Nat)
  | hostFlit
  | store (g t : Nat) (m : Posted)
deriving DecidableEq, Repr

def Act.of (ev : Instr) (g : Nat) : Act := .event ev { g := g, t := 0, x := 0 }
def Act.of2 (ev : Instr) (g t : Nat) : Act := .event ev { g := g, t := t, x := 0 }

/-- Lists `a` where `b` holds. -/
def onlyIf (b : Bool) (a : Act) : List Act := if b then [a] else []

/-! ## Splits -/

/-- Whether a fetch at a PC waits: for an OVLD that is writing there, or for an evicted granule (R172, R173). -/
def State.fetchHeld (s : State) (g : Nat) (pc : BitVec 16) : Bool :=
  let G := s.gang g
  G.evicted.contains (pc.toNat / 256) ||
    (s.core G.core).copies.any fun c => c.gang == g && match c.kind with
      | .ovld off len _ _ => decide (off ≤ pc.toNat ∧ pc.toNat < off + 256 * ((len + 255) / 256))
      | _ => false

/-- The splits of a gang that may issue. -/
def State.splitActs (s : State) (q : Nat × Gang) : List Act :=
  q.2.strands.flatMap fun t =>
    (t.2.splits.filter fun x =>
      ({ s with cur := { g := q.1, t := t.1, x := x.1 } } : State).canIssue && !(s.fetchHeld q.1 x.2.pc)).map fun x =>
      .split { g := q.1, t := t.1, x := x.1 }

/-! ## The issue arbiter (R89, R90) -/

/-- Bytes of a gang's code space from a PC on; they wrap at 64 KiB (R170). -/
def Gang.fetch (G : Gang) (pc : BitVec 16) : List Byte :=
  (List.range 16).map fun i => G.code.getD ((pc.toNat + i) % 65536) 0

/-- The port of a major opcode: A is 0 and B is 1. -/
def portOf (major : Nat) : Nat :=
  if (0x80 ≤ major ∧ major ≤ 0x8B) ∨ (0xA0 ≤ major ∧ major ≤ 0xA9) ∨ (0xB0 ≤ major ∧ major ≤ 0xB9) ∨ (0xC0 ≤ major ∧ major ≤ 0xDF) then 1
  else 0

/-- The instruction at the PC of the split that `State.cur` names, or why there is none. -/
def State.fetchNext (s : State) : Except DecErr Instr :=
  let pc := (s.split s.cur.g s.cur.t s.cur.x).pc
  decode (pc.toNat % 32) ((s.gang s.cur.g).fetch pc)

/-- Whether the register ranges that an instruction of the current split names trap (R159, R266). -/
def State.operandTraps (s : State) (i : Instr) : Bool :=
  let G := s.gang s.cur.g
  let S := s.strand s.cur.g s.cur.t
  (operandFault (usesOf i) (16 * S.vblk) S.ntiles G.lrec.wslots G.lrec.nbar).isSome

/-- The port that instruction issues from: its major opcode's, and A for a word that a check of R266 stops (R89). -/
def State.portNow (s : State) : Nat :=
  match s.fetchNext with
  | .error _ => 0
  | .ok i => match i with
    | .unassignedMajor _ => 0
    | _ => if s.operandTraps i then 0 else portOf (ofLe (((s.gang s.cur.g).fetch (s.split s.cur.g s.cur.t s.cur.x).pc).take 2) / 4 % 256)

/-- The trap of a word that does not decode (R266). -/
def decodeTrap (e : DecErr) : Trap :=
  match e with
  | .crossesGroup => { cause := cILLEGAL, detail := 3 }
  | .formatNotAdmitted => { cause := cILLEGAL, detail := 2 }
  | .mustBeZero => { cause := cILLEGAL, detail := 4 }
  | .minorNotListed => { cause := cILLEGAL, detail := 5 }
  | .reservedValue => { cause := cILLEGAL, detail := 6 }
  | .patternNotAccepted => { cause := cILLEGAL, detail := 7 }
  | .scopeNotAccepted => { cause := cILLEGAL, detail := 9 }
  | .patternCode => { cause := cOPERAND, detail := 1 }

/-- The instruction whose gate an ill-formed word meets: it names no operand. -/
def nopAt0 : Instr := .nop { fmt := .f64a, stall := 0, yld := false }

/-- What was fetched is carried out. -/
def State.runFetched (s : State) (r : Except DecErr Instr) : Host.Outcome State Fault Refusal :=
  match r with
  | .ok i => exec i s
  | .error e => issue nopAt0 (fun k => k.trap (decodeTrap e)) s

/-- A strand that comes to the end of its recipe code leaves it (R98, R99). -/
def State.leaveRecipe (s : State) (c : Cur) : State :=
  let pc := (s.split c.g c.t c.x).pc
  if (s.strand c.g c.t).recipe = some pc then s.setStrand c.g c.t fun S => { S with recipe := none } else s

/-- Cycles for which an instruction holds its port: an FP64 instruction two (R339). -/
def portCycles : Instr → Nat
  | .vdadd .. | .vdsub .. | .vdmul .. | .vdfma .. | .vdcmp .. | .vdcvt .. => 2
  | _ => 1

/-- The last cycle for which the port of the next instruction is taken once it issues. -/
def State.portUntil (s : State) : Nat :=
  match s.fetchNext with
  | .ok i => s.cycle + portCycles i - 1
  | .error _ => s.cycle

/-- The state in which a split issues: it is the current one, it has left the ready pool, its port is taken (R90, R339), and the granule
of its PC has been fetched (R173). -/
def State.issuing (s : State) (c : Cur) : State :=
  let u := ({ s with cur := c } : State).leaveRecipe c
  let pc := (u.split c.g c.t c.x).pc
  let core := (u.gang c.g).core
  ((u.setSplit c.g c.t c.x fun X => { X with ready := none }).setGang c.g fun G => { G with fetched := G.fetched.set (pc.toNat / 256) u.stepNo }).setCore
    core fun C => { C with issued := C.issued.set u.portNow u.portUntil }

/-- Whether a split is eligible: issuing its next instruction would do something now. -/
def State.eligible (s : State) (c : Cur) : Bool :=
  let u := ({ s with cur := c } : State).leaveRecipe c
  match u.runFetched u.fetchNext with
  | .next t => decide (t ≠ u)
  | _ => true

/-- Whether the port of a split's next instruction is not taken in this cycle. -/
def State.portFree (s : State) (c : Cur) : Bool :=
  (s.core (s.gang c.g).core).issued.all fun q => decide (q.2 < s.cycle) || decide (q.1 ≠ ({ s with cur := c } : State).portNow)

/-- The cycle of the last step's effect: what made a split eligible that was not so before happened then, or its stall count has ended since. -/
def State.lastCycle (s : State) : Nat := s.cycle - Config.elapsed (s.stepNo - 1)

/-- When a split that has become eligible stands in the order: by the cycle in which it did, a YLD after the others, then by strand slot. -/
def State.stamp (s : State) (c : Cur) : Nat :=
  let S := s.strand c.g c.t
  ((max s.lastCycle (S.splits.getD c.x Split.none).readyAt * 2 + (if (S.splits.getD c.x Split.none).yld then 1 else 0)) * 32 + S.slot % 32) * 4 + c.x % 4

/-- The splits that are eligible keep their places or get one; every other has none. -/
def State.enroll (s : State) (l : List Cur) : State :=
  { s with gangs := s.gangs.map fun q => (q.1, { q.2 with strands := q.2.strands.map fun t => (t.1, { t.2 with splits := t.2.splits.map fun x =>
      let c : Cur := { g := q.1, t := t.1, x := x.1 }
      (x.1, { x.2 with ready := if l.contains c then some (x.2.ready.getD (s.stamp c)) else none }) }) }) }

/-- The splits that are eligible have entered their pools, in whatever way the step goes on. -/
def State.enrolled (s : State) : State :=
  s.enroll ((s.gangs.flatMap s.splitActs).filterMap fun a => match a with
    | .split c => if s.eligible c then some c else none
    | _ => none)

/-- What the arbiter sees of an eligible split. -/
structure Member where
  cur   : Cur
  core  : Nat
  port  : Nat
  prio  : Nat
  stamp : Nat
deriving DecidableEq, Repr

def State.member (s : State) (c : Cur) : Member :=
  let G := s.gang c.g
  { cur := c, core := G.core, port := ({ s with cur := c } : State).portNow, prio := (effRcb (s.part G.part).regions G.region).prio,
    stamp := (s.split c.g c.t c.x).ready.getD 0 }

/-- The pool of a port: the first 64 of its eligible splits. -/
def poolOf (l : List Member) (core port : Nat) : List Member := (sortBy Member.stamp (l.filter fun m => m.core == core && m.port == port)).take 64

/-- The splits that may issue next: of each port's pool the member of the highest effective priority, and then the one ready first. -/
def heads (l : List Member) : List Cur :=
  (l.filter fun m =>
    let pool := poolOf l m.core m.port
    pool.contains m && pool.all fun o => decide (o.prio < m.prio) || (o.prio == m.prio && decide (m.stamp ≤ o.stamp))).map Member.cur

/-! ## Gangs -/

/-- Events of a gang in its phase. -/
def State.phaseActs (s : State) (q : Nat × Gang) : List Act :=
  let g := q.1
  let G := q.2
  let at_ := fun n => decide (s.cycle ≥ G.waitFrom + n)
  match G.phase with
  | .walk => [.of .gangAdmission g]
  | .placer | .saved =>
    [.of .gangPlacement g] ++ onlyIf (at_ 4096 && !(s.marked g)) (.of .drainToFitMark g) ++ onlyIf (at_ 1024) (.of .preemptionTrigger g)
  | .loading => if G.fresh then [.of .overlayLoadComplete g] else [.of .gangResume g]
  | .stopping since _ => [.of .gangSave g] ++ onlyIf (decide (s.cycle ≥ since + 2 ^ 20)) (.of .runToFlashTimeout g)
  | .saving => [.of .gangSaveComplete g]
  | .checkpointing => [.of .checkpoint g]
  | .running | .suspended | .dead => []

/-- The stores of a gang that may be performed now: those that no write-combining page merges (R245, R256). -/
def storeActs (q : Nat × Gang) : List Act :=
  q.2.strands.flatMap fun t => (t.2.posted.filter fun m => !m.comb).map fun m => .store q.1 t.1 m

/-- The other events of a gang. -/
def State.gangActs (s : State) (q : Nat × Gang) : List Act :=
  let g := q.1
  let G := q.2
  let slice := (effRcb (s.part G.part).regions G.region).tslice
  s.phaseActs q ++ onlyIf (G.resident && !G.expired && slice != 0 && decide (s.cycle ≥ G.slice + slice * 1024)) (.of .sliceExpiry g) ++
    (G.strands.filter fun t => t.2.exited && !t.2.freed).map (fun t => .of2 .strandRelease g t.1) ++
    onlyIf ((G.charged || G.killed) && G.strands.all fun t => t.2.freed) (.of .gangExit g) ++
    (G.evicted.filter fun n => G.livePcs.contains n).map (fun n => .of2 .granuleRefill g n) ++
    G.wloads.map fun L => .event .weightLoadComplete { g := G.core, t := g, x := L.slot }

/-! ## Cores -/

/-- Events of a core. -/
def State.coreActs (s : State) (q : Nat × Core) : List Act :=
  let c := q.1
  let C := q.2
  C.copies.flatMap (fun k => match k.st with
    | .queued => onlyIf (C.mayStart k) (.of2 .copyDescriptorStart c k.id)
    | .active => [.of2 .copyComplete c k.id, .of2 .poolPageNotPresent c k.id]
    | .parked _ => []) ++
  C.bank.flatMap (fun w =>
    if w.cur < w.total then onlyIf (s.mayRequest c w) (.of2 .bankRequest c w.id) else [.of2 .bankCommandComplete c w.id]) ++
  onlyIf (C.engine.isNone && !C.forces.isEmpty) (.of .evaluationStart c) ++ onlyIf C.engine.isSome (.of .evaluationComplete c) ++
  (C.landing.filter fun L => L.wait.isNone).map (fun L => .of2 .loadReturn c L.id) ++
  C.bins.flatMap fun b =>
    onlyIf (!b.2.due && b.2.spwt != 0 && decide (s.cycle ≥ b.2.first + b.2.spwt)) (.of2 .spawnBinTimer c b.1) ++ onlyIf b.2.due (.of2 .spawnBinLaunch c b.1) ++
      onlyIf (match b.2.fullAt with
        | some t => decide (s.cycle ≥ t + 65536)
        | none => false) (.of2 .spawnStarvation c b.1)

def groupActs (q : Nat × Group) : List Act :=
  q.2.inflight.map (fun a => .of2 .clusterBarrierArrival q.1 a.2.2.2) ++ q.2.release.map fun n => .of2 .clusterBarrierRelease q.1 n

/-! ## Queues -/

/-- The event that takes a command of an OP (R27). -/
def opEvent (op : Nat) : Instr :=
  match op with
  | 1 => .launch
  | 2 => .regionCreate
  | 3 => .regionSet
  | 4 => .regionDestroy
  | 5 => .invoke
  | 6 => .capture
  | 7 => .signal
  | 8 => .queueFence
  | _ => .opNotDefined

/-- What the first open command of a queue, or an INVOKE that has settled, is ready for. -/
def cmdActs (q : Nat) (Q : Queue) : List Act :=
  (match Q.cmds with
   | c :: _ => (match c.kind with
     | .signal .. => [.of .signalWrite q]
     | .fence true .. => [.of .fencePoll q]
     | .fence false .. => [.of .queueFence q]
     | _ => [])
   | [] => []) ++
  onlyIf (Q.cmds.any fun c => match c.kind with
    | .invoke _ st _ _ => st != 0
    | _ => false) (.of .invoke q)

def State.queueActs (s : State) (q : Nat × Queue) : List Act :=
  let Q := q.2
  (match s.headOp q.1 with
   | some op => [.of (opEvent op) q.1]
   | none => []) ++ cmdActs q.1 Q ++
  (match Q.bound, Q.idle with
   | some b, i => onlyIf ((i.map fun t => decide (s.cycle ≥ t + 4096)).getD false) (.of .slotIdleFree q.1) ++
       onlyIf (decide (s.cycle ≥ b + 65536)) (.of .slotBindLimit q.1)
   | none, _ => [])

/-! ## Partitions, functions, peers, the package -/

def State.partActs (s : State) (q : Nat × Part) : List Act :=
  let p := q.1
  let P := q.2
  (P.regions.filter fun r => r.2.dirty && r.2.image.isSome && decide (s.cycle ≥ r.2.wbAt)).map (fun r => .of2 .usageWriteback p r.1) ++
    onlyIf P.tlbBusy (.of .tlbinvComplete p) ++ onlyIf (P.cap.isNone && !P.capWait.isEmpty) (.of .captureStart p) ++
    onlyIf P.cap.isSome (.of .capturePageCopy p) ++ onlyIf (!P.pfWait.isEmpty) (.of .faultQueueEntry p) ++
    (P.lrt.filter fun e => e.2.proxy && e.2.waits).map fun e => .of2 .addressedInvocationStart p e.1

def fnActs (q : Nat × Fn) : List Act :=
  let f := q.1
  let F := q.2
  onlyIf (F.ctx == 1 && F.ctxOp == 1) (.of .contextSaveComplete f) ++ onlyIf (F.ctx == 1 && F.ctxOp == 2) (.of .contextRestoreComplete f) ++
    (match F.flr with
     | .drain _ => [.of .flrDrainEnd f]
     | .scrub => [.of .flrComplete f]
     | .off => []) ++ onlyIf (F.attStatus == 1) (.of .attestationReportDone f)

def State.peerActs (s : State) (q : Nat × Peer) : List Act :=
  let d := q.1
  let P := q.2
  if d = s.pkg.pkgid then [] else
    (P.unacked.filter fun u => decide (s.cycle ≥ u.2.2 + 65536)).map (fun u => .of2 .messageRetransmit d u.1.toNat) ++
      onlyIf (decide (s.cycle ≥ P.sent + 2 ^ 20)) (.of .keepAliveSend d) ++
      onlyIf (!P.unreach && s.knows d && (decide (s.cycle ≥ P.heard + 2 ^ 22) || (s.route d).isNone)) (.of .unreachableDeclaration d)

/-- The message at the head of the package's own mail. -/
def mailEvent (m : Msg) : Instr :=
  match m.ty with
  | 1 => .invocationRequest m.h
  | 2 => .forwardedInvocation m.h
  | 3 => .accept m.h
  | 4 => .resolve m.h
  | 5 => .tarnish m.h
  | _ => .release m.h

def State.pkgActs (s : State) : List Act :=
  onlyIf (decide (s.boundCount < Config.activeSlots) && !s.readyQueues.isEmpty) (.of .mapperBind 0) ++
    onlyIf (match s.pkg.trig with
      | q :: _ => decide (s.cycle ≥ q.at_ + 24)
      | [] => false) (.of .snapshotLatch 0) ++
    ((List.range 16).filter s.pkg.scrub.getLsbD).map (fun k => .of .scrubComplete k) ++
    (match s.mail with
     | (t, m) :: _ => onlyIf (decide (s.cycle ≥ t)) (.of (mailEvent m) 0)
     | [] => []) ++
    (s.lkres.filter fun r => r.val.isSome && decide (r.due ≤ s.cycle)).map (fun r => .of .locketResultWrite r.id) ++
    (s.trans.flatMap fun e => e.busy.map fun p => .of2 .translationComplete p e.id) ++ s.slotLinks.map .slot ++
    onlyIf ((List.range 64).any s.hostWaits) .hostFlit

/-- Everything that may happen next; nothing while a thermal trip stands (R16): the partitions, and with them the scrub sequencer, the snapshot
latch, resets and reports under way (DESIGN CHOICE, log entry 36). -/
def State.acts (s : State) : List Act :=
  if s.pkg.trip then []
  else
    s.gangs.flatMap s.splitActs ++ s.gangs.flatMap s.gangActs ++ s.gangs.flatMap storeActs ++ s.cores.flatMap s.coreActs ++ s.groups.flatMap groupActs ++
      s.queues.flatMap s.queueActs ++ s.parts.flatMap s.partActs ++ s.fns.flatMap fnActs ++ s.peers.flatMap s.peerActs ++ s.pkgActs

/-! ## Doing it -/

def State.perform (s : State) (a : Act) : Host.Outcome State Fault Refusal :=
  match a with
  | .split c =>
    let u := s.issuing c
    u.runFetched u.fetchNext
  | .event ev c => exec ev { s with cur := c }
  | .slot l => .next (s.slot l)
  | .hostFlit => .next s.hostFlit
  | .store g t m => .next (s.drain g t fun x => x == m)

/-- Time passes: the next step's number, and a number of cycles that the manual does not give (DESIGN CHOICE, log entry 2). -/
def State.tick (before s : State) : State :=
  { s with stepNo := before.stepNo + 1, cycle := s.cycle + Config.elapsed before.stepNo }

def tickOf (before : State) (o : Host.Outcome State Fault Refusal) : Host.Outcome State Fault Refusal :=
  match o with
  | .next s => .next (before.tick s)
  | .fault f => .fault f
  | .refused r => .refused r

/-- The outside event that is due, and the state without it. -/
def State.dueStim (s : State) : Option (Instr × State) :=
  match s.stim with
  | e :: r => if e.due ≤ s.stepNo then some (e.ev, { s with stim := r }) else none
  | [] => none

/-- The state in which the arbiter has its splits in order, and what may happen then: of the splits those whose turn it is on a port that is free. -/
def State.arbitrate (s : State) (as : List Act) : State × List Act :=
  let cs := as.filterMap fun a => match a with
    | .split c => some c
    | _ => none
  let el := cs.filter s.eligible
  let s1 := s.enroll el
  let hs := (heads (el.map s1.member)).filter s1.portFree
  (s1, as.filter fun a => match a with
    | .split c => hs.contains c
    | _ => true)

/-- A gang whose committed strands run on to their next FLASH (R96). -/
def Gang.stopJudged (G : Gang) : Bool :=
  match G.phase with
  | .stopping _ judged => judged
  | _ => false

/-- Whether a split's next instruction is a fault that stops its gang. -/
def State.wouldFault (s : State) (c : Cur) : Bool :=
  match s.perform (.split c) with
  | .next t => ((s.gang c.g).phase == .running || (s.gang c.g).stopJudged) && ((t.gang c.g).phase == .suspended || (t.gang c.g).phase == .dead)
  | _ => false

/-- The split of another strand of the same gang that faults in the same cycle on the other port; whether it issues in that cycle is a free value
(R89, R107; DESIGN CHOICE, log entry 26). -/
def State.faultsToo (s : State) (as : List Act) (a : Act) : Option (Cur × Cur) :=
  match a with
  | .split c =>
    let other := as.findSome? fun b => match b with
      | .split d => if d.g = c.g ∧ d.t ≠ c.t ∧ s.wouldFault d then some d else none
      | _ => none
    other.bind fun d => if s.wouldFault c && Config.freeBit (s.choice (2 ^ 71 + c.g)) then some (if c.t < d.t then (c, d) else (d, c)) else none
  | _ => none

/-- A split's fault record is written, as its trap writes it, and nothing else of its instruction happens (R107). -/
def State.recordOnly (s : State) (c : Cur) : State :=
  match s.perform (.split c) with
  | .next t =>
    let G := s.gang c.g
    let rec_ := tblBytes (t.strand c.g c.t).image 0 128
    (s.setImage c.g c.t rec_).postRecord G.part G.region rec_
  | _ => s

/-- An act happens; of two strands of a gang that fault in one cycle each writes its record, in ascending slot order, before the gang stops (R107). -/
def State.together (s : State) (as : List Act) (a : Act) : Host.Outcome State Fault Refusal :=
  match s.faultsToo as a with
  | some (lo, hi) => (s.recordOnly lo).perform (.split hi)
  | none => s.perform a

/-- One of a list of acts, which of them is open (DESIGN CHOICE, log entry 1). -/
def State.oneOf (s : State) : List Act → Host.Outcome State Fault Refusal
  | [] => .next s
  | a :: r => s.together (a :: r) ((a :: r).getD (Config.pick s.stepNo % (r.length + 1)) a)

/-- One of the things that may happen: a single one does, and of several the arbiter first says which splits may issue (R90). -/
def State.choose (s : State) : List Act → Host.Outcome State Fault Refusal
  | [] => .next s
  | [.split c] => if s.portFree c then s.perform (.split c) else .next s.enrolled
  | [a] => s.perform a
  | a :: r => let u := s.arbitrate (a :: r)
              u.1.oneOf u.2

/-- What the next step does. -/
def State.move (s : State) : Host.Outcome State Fault Refusal :=
  match s.dueStim with
  | some (ev, s') => exec ev s'.enrolled
  | none => s.choose s.acts

/-! ## A word at the next fetch -/

/-- The layout of a package with one partition, of setting 0, bound to PF0. -/
def oneLayout : Layout := [(4, 0x80), (20, 0x80)]

/-- A gang of one strand that has a core to itself, its code space holding the given bytes at 0. -/
def loneGang (code : List Byte) (m : Mem) : Gang :=
  let role : Role := { ovl := 0, ovlLen := 16, entry := 0, strands := 1, vblk := 16, tiles := 16 }
  let S : Strand := { Strand.empty with vblk := 16, ntiles := 16, fenced := m.logging false, splits := [(0, startSplit 0 View.empty)] }
  { Gang.empty with
    phase := .running, fresh := false, charged := true, wslots := [0, 1, 2, 3], bars0 := List.range 64, tiles := List.range 16,
    code := tblPut [] 0 code, strands := [(0, S)], group := some 2,
    lrec := { LRec.empty with roles := [role], nbar := 64, wslots := 4, spad := 2 ^ 18 } }

end Sys2Proof.Machine
end

