-- ==== Sys2Proof/Machine/Step.lean ====
section
/-! DEFINITION. Machine/Step.lean: one step of the package, and a state in which a given word is the next to be fetched. -/

namespace Sys2Proof.Machine

open Sys2Proof

/-- One step: the next outside event if it is due, else one of the things that may happen; then time passes. -/
def step (s : State) : Host.Outcome State Fault Refusal := tickOf s s.move

/-- A state whose next step fetches and runs the word: a gang of one strand runs on core 0, alone in the package, with the word at the start of
its code space (DESIGN CHOICE, log entry 1). -/
def State.withFetchWord (s : State) (nbits w : Nat) : State :=
  { s with
    stim := [], pkg := { s.pkg with trip := false, trig := [], out := [], msixOut := [], scrub := 0, layA := oneLayout, layActB := false }, fns := [(0, Fn.reset true)],
    queues := [], parts := [(0, Part.formed 1)], peers := [], mail := [], cores := [], gangs := [(1, loneGang (leBytes 16 (w % 2 ^ nbits)) s.mem)],
    ckpts := [], groups := [(2, { gangs := [1], bars := [], inflight := [], release := [] })], lkres := [], trans := [],
    nextId := max s.nextId 3 }

end Sys2Proof.Machine
end

