-- ==== Sys2Proof/Safety.lean ====
section
/-! DEFINITION. Safety.lean: the terms that statements use: when an instruction issues, and what a next state keeps of the one before. -/

namespace Sys2Proof.Machine

open Sys2Proof

/-! ## Issuing -/

/-- The split that State.cur names issues the instruction: nothing makes it wait or trap first (R99, R105, R138, R159, R166-R169), and `k` is
what it reads. -/
def Issues (i : Instr) (s : State) (k : Ctx) : Prop := s.canIssue = true ∧ gate i s = .go k

/-- Registers that an instruction of the issuing strand reads: scalars and, as `crKey n`, control registers, those of a force that it will make among
them (R413). -/
def scalarReads (i : Instr) (s : State) : List Nat :=
  ((usesOf i).filter Use.isRead).flatMap Use.sregs ++ ((s.strand s.cur.g s.cur.t).ctlReads i).map crKey
def vectorReads (i : Instr) : List Nat := ((usesOf i).filter Use.isRead).flatMap Use.vregs
def scalarWrites (i : Instr) : List Nat := ((usesOf i).filter Use.isWrite).flatMap Use.sregs
def vectorWrites (i : Instr) : List Nat := ((usesOf i).filter Use.isWrite).flatMap Use.vregs

/-- The split is past its stall count (R168), no handler of another split holds it (R105), and no `.msacq` of its strand is open (R138), nor one that
its gang issued before it was placed anew (R257). -/
def Unheld (s : State) : Prop :=
  (s.split s.cur.g s.cur.t s.cur.x).readyAt ≤ s.cycle ∧ (∀ e, (s.strand s.cur.g s.cur.t).eret = some e → e.split = s.cur.x) ∧
    ∀ c ∈ s.cores, ∀ w ∈ c.2.bank, w.acq = true → w.gang = s.cur.g →
      w.strand ≠ s.cur.t ∧ c.1 = (s.gang s.cur.g).core ∧ w.gen = (s.strand s.cur.g w.strand).gen

/-- The subcode of OPERAND that an instruction's operands give, if they exceed its strand's allocation (R159). -/
def operandsOf (i : Instr) (s : State) : Option Nat :=
  operandFault (usesOf i) (16 * (s.strand s.cur.g s.cur.t).vblk) (s.strand s.cur.g s.cur.t).ntiles (s.gang s.cur.g).lrec.wslots
    (s.gang s.cur.g).lrec.nbar

/-- A tile, graph or weight instruction's strand is converged (R368). -/
def Converges (i : Instr) (s : State) : Prop := isGraph i = true → (s.strand s.cur.g s.cur.t).converged = true

/-- Some register that the instruction reads or writes awaits a variable-latency write (R167). -/
def Scoreboarded (i : Instr) (s : State) : Prop :=
  (∃ r ∈ scalarReads i s ++ scalarWrites i, r ≠ 0 ∧ r ∈ (s.split s.cur.g s.cur.t s.cur.x).view.busy) ∨
    ∃ r ∈ vectorReads i ++ vectorWrites i, r ∈ (s.strand s.cur.g s.cur.t).vbusy

/-- Every register that the instruction reads has landed (R168). -/
def Landed (i : Instr) (s : State) : Prop :=
  (∀ f ∈ (s.split s.cur.g s.cur.t s.cur.x).view.fly, f.key ∈ scalarReads i s → f.lands ≤ s.cycle) ∧
    ∀ f ∈ (s.strand s.cur.g s.cur.t).vfly, f.reg ∈ vectorReads i → f.lands ≤ s.cycle

/-- None of them carries a poison mark (R166). -/
def Unmarked (i : Instr) (s : State) : Prop :=
  (∀ r ∈ scalarReads i s, (s.split s.cur.g s.cur.t s.cur.x).view.marks.get? r = none) ∧
    ∀ r ∈ vectorReads i, (s.strand s.cur.g s.cur.t).vmarks.get? r = none

/-- With cr.CHK.LIVEIN set, in the replay window of a FLASH, the instruction writes a live-in (R99); recipe code that no handler interrupts may. -/
def WritesLiveIn (i : Instr) (s : State) : Prop :=
  ((s.split s.cur.g s.cur.t s.cur.x).view.ctl crCHK).getLsbD 1 = true ∧
    ((s.strand s.cur.g s.cur.t).recipe = none ∨ (s.strand s.cur.g s.cur.t).eret ≠ none) ∧ isFlash i = false ∧
    ∃ f, (s.strand s.cur.g s.cur.t).flash = some f ∧
      ((∃ r ∈ scalarWrites i, r ≠ 0 ∧ r ∈ f.sset) ∨ ∃ r ∈ vectorWrites i, r ∈ f.vset)

/-- What the instruction at the issuing split's PC reads when every register it names has landed. -/
def plainCtx (i : Instr) (s : State) : Ctx :=
  let S := s.strand s.cur.g s.cur.t
  let X := s.split s.cur.g s.cur.t s.cur.x
  { g := s.cur.g, t := s.cur.t, x := s.cur.x, G := s.gang s.cur.g, S := S, X := X, pc := X.pc, next := X.pc + BitVec.ofNat 16 (bytesOf i),
    stall := (i.com.map fun c => c.stall.toNat).getD 0, yld := (i.com.map Com.yld).getD false, act := S.active X, now := s.cycle }

/-- The instruction raises a trap at its own PC (R104): the state is what taking that trap leaves. -/
def Raises (s t : State) (i : Instr) (tr : Trap) : Prop :=
  t = s.raise s.cur.g s.cur.t s.cur.x (s.split s.cur.g s.cur.t s.cur.x).pc
    ((s.split s.cur.g s.cur.t s.cur.x).pc + BitVec.ofNat 16 (bytesOf i)) tr

/-- An instruction that issues completes where `when` holds: exec answers a next state, and `then_` holds of it. -/
def Completes (i : Instr) (when : State → Ctx → Prop) (then_ : State → State → Ctx → Prop) : Prop :=
  ∀ s k, Issues i s k → when s k → ∃ t, exec i s = .next t ∧ then_ s t k

/-! ## What an instruction of a split leaves as it was -/

/-- Every byte of memory reads as before. -/
def SameMemory (s t : State) : Prop := ∀ a, t.mem.read a = s.mem.read a

/-- The split goes on at a PC, no sooner than its stall count allows (R168, R297); every register, lane, counter, every other split and
strand, and everything else of the machine is as it was. -/
def Goes (s t : State) (k : Ctx) (pc : BitVec 16) : Prop :=
  t = s.setSplit k.g k.t k.x (fun X => { X with pc := pc, readyAt := s.cycle + 1 + k.stall, yld := k.yld }) ∧
    (t.split k.g k.t k.x).pc = pc ∧ SameMemory s t

/-- The instruction writes scalar d of its split's view (nothing, where d is s0) and the split goes on at `pc`: every other scalar, every
control register, every scoreboard bit, every other poison mark, the lane mask, everything outside the split, and memory are as they were. -/
def ScalarWritten (s t : State) (k : Ctx) (pc : BitVec 16) (d : BitVec 8) (v : DWord) : Prop :=
  let X := s.split k.g k.t k.x
  let Y := t.split k.g k.t k.x
  t = s.setSplit k.g k.t k.x (fun _ => Y) ∧
    Y = { X with pc := pc, readyAt := s.cycle + 1 + k.stall, yld := k.yld, view := Y.view } ∧
    Y.view.scalar d.toNat = (if d = 0 then 0 else v) ∧ (∀ r, r ≠ d.toNat → Y.view.scalar r = X.view.scalar r) ∧
    Y.view.cr = X.view.cr ∧ Y.view.busy = X.view.busy ∧ (∀ r, r ≠ d.toNat → Y.view.marks.get? r = X.view.marks.get? r) ∧
    SameMemory s t

/-- An instruction that issues writes scalar d, as `f` gives it from what the instruction reads. -/
def WritesScalar (i : Instr) (d : BitVec 8) (f : Ctx → DWord) : Prop :=
  ∀ s k, Issues i s k → ∃ t, exec i s = .next t ∧ ScalarWritten s t k k.next d (f k)

/-- The active lanes of the vector registers listed get new words: register r, lane n gets `f r n`. Every other lane and register, every
scalar, every control register but cr.FSTAT, into which `fl` is ORed when the instruction completes (R162), every counter, every other split, everything outside the strand, and memory
are as they were. -/
def VectorWritten (s t : State) (k : Ctx) (rs : List Nat) (f : Nat → Nat → Word) (fl : DWord) : Prop :=
  let S := s.strand k.g k.t
  let R := t.strand k.g k.t
  let X := s.split k.g k.t k.x
  let Y := t.split k.g k.t k.x
  t = s.setStrand k.g k.t (fun _ => R) ∧
    R = { S with v := R.v, vmarks := R.vmarks, vfly := R.vfly, splits := R.splits } ∧
    (∀ r n, n < 32 → R.lane r n = if r ∈ rs ∧ k.on n = true then f r n else S.lane r n) ∧
    (∀ r, r ∉ rs → R.vmarks.get? r = S.vmarks.get? r) ∧
    (∀ y, y ≠ k.x → R.splits.getD y Split.none = S.splits.getD y Split.none) ∧
    Y = { X with pc := k.next, readyAt := s.cycle + 1 + k.stall, yld := k.yld, view := Y.view } ∧
    Y.view.s = X.view.s ∧ Y.view.busy = X.view.busy ∧ Y.view.marks = X.view.marks ∧
    Y.view.fstat = X.view.fstat ||| fl ∧ (∀ n, n ≠ crFSTAT → Y.view.ctl n = X.view.ctl n) ∧
    SameMemory s t

/-- Registers of a typed destination: one, or the two of a pair (R263). -/
def destRegs (ty : Ty) (d : BitVec 8) : List Nat := if ty.is64 then [d.toNat, d.toNat + 1] else [d.toNat]

/-- The word that register r of a destination gets from a lane's result (R158). -/
def destWord (d : BitVec 8) (f : Nat → Nat) (r n : Nat) : Word := BitVec.ofNat 32 (if r = d.toNat then f n else f n / 2 ^ 32)

/-- An instruction that issues writes a typed integer result, lane by lane, and no flag. -/
def WritesVector (i : Instr) (ty : Ty) (d : BitVec 8) (f : Ctx → Nat → Nat) : Prop :=
  ∀ s k, Issues i s k → ∃ t, exec i s = .next t ∧ VectorWritten s t k (destRegs ty d) (destWord d (f k)) 0

/-- The flags of a float instruction's active lanes together. -/
def flagsOf (k : Ctx) (f : Nat → Res) : DWord := k.lanes.foldl (fun m n => m ||| (f n).flags) 0

/-- The flags whose traps cr.RMODE.TEN enables (R161): TEN lies in its bits [12:8]. -/
def enabledOf (k : Ctx) (fl : DWord) : DWord := fl &&& ((k.cr crRMODE >>> 8) &&& 0x1F)

/-- An instruction that issues writes a typed result with flags, lane by lane (R324). Where no flag it sets is enabled it is complete, its flags in cr.FSTAT;
where one is, it raises ARITH after its results and flags are written, LANES naming the lanes with an enabled flag (R188). -/
def WritesFloat (i : Instr) (ty : Ty) (d : BitVec 8) (f : Ctx → Nat → Res) : Prop :=
  ∀ s k, Issues i s k →
    let w := destWord d fun n => widen32 ty (f k n).bits
    let fl := flagsOf k (f k)
    ∃ t, exec i s = .next t ∧
      (enabledOf k fl = 0 → VectorWritten s t k (destRegs ty d) w fl) ∧
      (enabledOf k fl ≠ 0 → ∃ u : State, VectorWritten s (u.setSplit k.g k.t k.x fun X => { X with pc := k.next }) k (destRegs ty d) w fl ∧
        t = u.raise k.g k.t k.x k.pc k.next
          { cause := cARITH, lanes := setOfLanes (k.lanes.filter fun n => enabledOf k (f k n).flags ≠ 0), val := d.zeroExtend 64 })

/-- The lanes of a strand's counters that a structured instruction may change: those of the split's mask that are not vacant (R305). -/
def Ctx.holds (k : Ctx) (s : State) (n : Nat) : Bool := bit (s.split k.g k.t k.x).mask n && !(bit (s.strand k.g k.t).vacant n)

/-- The nesting counter of a lane. -/
def counterOf (s : State) (g t n : Nat) : Nat := ((s.strand g t).counters.getD n 0).toNat

/-- The nesting counters of the split's lanes that are not vacant become `f`, and the split goes on at a PC; every other counter, every register,
every other split, everything outside the strand, and memory are as they were. -/
def Counted (s t : State) (k : Ctx) (pc : BitVec 16) (f : Nat → Nat) : Prop :=
  let S := s.strand k.g k.t
  let R := t.strand k.g k.t
  t = s.setStrand k.g k.t (fun _ => R) ∧
    R = { S with counters := R.counters, splits := S.splits.modify k.x fun X => { X with pc := pc, readyAt := s.cycle + 1 + k.stall, yld := k.yld } } ∧
    (∀ n, n < 32 → counterOf t k.g k.t n = if k.holds s n then f n else counterOf s k.g k.t n) ∧ SameMemory s t

/-! ## Memory accesses -/

/-- The strand has issued no store to this byte that is still to be performed (R122, R245). -/
def Unposted (s : State) (k : Ctx) (a : Nat) : Prop := ∀ m ∈ (s.strand k.g k.t).posted, m.covers a = false

/-- Every store that the strand has issued has been performed. -/
def AllPerformed (s : State) (k : Ctx) : Prop := (s.strand k.g k.t).posted = []

/-- The result of a load, or of an atomic, has entered its core's landing buffer as `L`: the destination is scoreboarded and the load counted (R165-R167), and
the split goes on; no register has its value yet. -/
def LandingAdded (s t : State) (k : Ctx) (L : Landing) : Prop :=
  (t.core k.G.core).landing = (s.core k.G.core).landing ++ [L] ∧ L.gang = k.g ∧ L.strand = k.t ∧ L.split = k.x ∧
    L.gen = (s.strand k.g k.t).gen ∧ L.wait = none ∧ (t.strand k.g k.t).olc = (s.strand k.g k.t).olc + 1 ∧
    (∀ r ∈ L.regs, r ∈ (t.strand k.g k.t).vbusy) ∧ (∀ r, L.dest = .s r → r ≠ 0 → r ∈ (t.split k.g k.t k.x).view.busy) ∧
    (t.split k.g k.t k.x).pc = k.next ∧ (t.strand k.g k.t).v = (s.strand k.g k.t).v ∧
    (t.split k.g k.t k.x).view.s = (s.split k.g k.t k.x).view.s ∧ (t.split k.g k.t k.x).view.cr = (s.split k.g k.t k.x).view.cr ∧
    (t.strand k.g k.t).counters = (s.strand k.g k.t).counters

/-- The little-endian number in `n` bytes of memory (R3). -/
def State.leNat (s : State) (a n : Nat) : Nat := ofLe ((List.range n).map fun i => s.mem.read (a + i))

/-- The pages of an instruction's accesses hold raw bytes (R124). -/
def Raw_ (accs : List Acc) : Prop := ∀ x ∈ accs, ∀ l, x.leaf = some l → l.fmt = 0

/-- A vector load (R121, R165, R166, R342): its addresses are checked, and it traps, waits for the landing buffer or the banks, or enters the landing buffer.
Memory changes at most where earlier stores are performed before it. Of raw pages outside the banks, with every store performed, each lane gets the little-endian number at
its address, extended by its type. -/
def LoadsVector (i : Instr) (ty : Ty) (m : MemMod) (kind : AccKind) (d : BitVec 8) (as : Ctx → State → List (Nat × DWord) × (Nat → Bool)) : Prop :=
  ∀ s k, Issues i s k →
    (∀ tr, s.checkAll k.G m.space ty kind false true (tyBytes ty) (as k s).2 (as k s).1 = .error tr → ∃ t, exec i s = .next t ∧ Raises s t i tr) ∧
    (∀ accs, s.checkAll k.G m.space ty kind false true (tyBytes ty) (as k s).2 (as k s).1 = .ok accs →
      let ready := s.canLoad k.g k.t (destRegs ty d).length && !(k.bankWaits s accs)
      (ready = false → exec i s = .next s) ∧
      (ready = true → ∃ t L, exec i s = .next t ∧ LandingAdded s t k L ∧ L.dest = .v ∧ L.regs = destRegs ty d ∧
        (∀ a, Unposted s k a → t.mem.read a = s.mem.read a) ∧
        (m.space ≠ .bk → AllPerformed s k → Raw_ accs →
          L.vval = destWords ty.is64 d.toNat (accs.map fun x => (x.lane, widen32 ty (s.leNat x.pa (tyBytes ty)))) ∧ L.flags = 0)))

/-- What each byte that the stores of a list write gets: that of the last of them to cover it. -/
def Stored (ws : List (Nat × List Byte)) (read : Nat → Byte) : Prop :=
  ∀ pre w post n b, ws = pre ++ w :: post → w.2[n]? = some b → (∀ v ∈ post, ¬(v.1 ≤ w.1 + n ∧ w.1 + n < v.1 + v.2.length)) → read (w.1 + n) = b

/-- What a split's stores have done: outside their bytes, and the earlier stores performed with them, every byte of memory reads as before; the split itself
reads the bytes that they give (R122, R245). A store waits to be performed on a write-combining page, and on a normal one perhaps (log entry 7). -/
def StoredBytes (s t : State) (k : Ctx) (ws : List (Nat × List Byte)) : Prop :=
  (∀ a, (∀ w ∈ ws, ¬(w.1 ≤ a ∧ a < w.1 + w.2.length)) → Unposted s k a → t.mem.read a = s.mem.read a) ∧
    Stored ws (t.readByte k.g k.t k.x false)

/-- Every access lies in a scratchpad or a bank, or on a device or strongly ordered page, where a store is performed at once (R122). -/
def AtOnce (accs : List Acc) : Prop := ∀ x ∈ accs, ∀ l, x.leaf = some l → 2 ≤ l.mtype

/-- The stores of a list have been performed, one after another: each of their bytes is that of the last that covers it, and every other byte is as it was. -/
def PerformedStores (s t : State) (l : List Posted) : Prop :=
  (∀ a, (∀ m ∈ l, m.covers a = false) → t.mem.read a = s.mem.read a) ∧
    ∀ pre m post a, l = pre ++ m :: post → m.covers a = true → (∀ n ∈ post, n.covers a = false) → t.mem.read a = m.bytes.getD (a - m.addr) 0

/-- The strand's stores that satisfy `p` have been performed, each after the older ones of the same program that it overlaps, and the others still wait
(R122, R245). -/
def Performs (s t : State) (k : Ctx) (p : Posted → Bool) : Prop :=
  let S := s.strand k.g k.t
  PerformedStores s t (dueStores p S.posted).1 ∧ (t.strand k.g k.t).posted = (dueStores p S.posted).2 ∧
    ∀ m ∈ S.posted, p m = true → m ∈ (dueStores p S.posted).1

/-- The stores of the issuing split's program have been performed (R251, R344). -/
def OwnPerformed (s t : State) (k : Ctx) : Prop := Performs s t k fun m => m.seen.contains k.x

/-- Registers, counters and lane masks of the strand are as they were. -/
def SameRegisters (s t : State) (k : Ctx) : Prop :=
  (t.strand k.g k.t).v = (s.strand k.g k.t).v ∧ (t.split k.g k.t k.x).view.s = (s.split k.g k.t k.x).view.s ∧
    (t.strand k.g k.t).counters = (s.strand k.g k.t).counters ∧ (t.split k.g k.t k.x).mask = (s.split k.g k.t k.x).mask ∧
    (t.split k.g k.t k.x).view.busy = (s.split k.g k.t k.x).view.busy

/-- A vector store (R121, R125, R342, R347): it traps before any effect, for its lanes, then for a block not covered as a whole, then where a completer refuses it; it waits for the banks or the capture engine, or stores the bytes that `encodeStore` gives, of raw
pages each lane's number at its address; flags of a conversion enter cr.FSTAT, and an enabled one raises ARITH once the bytes are stored. -/
def StoresVector (i : Instr) (ty : Ty) (m : MemMod) (kind : AccKind) (b : Src) (as : Ctx → State → List (Nat × DWord) × (Nat → Bool)) : Prop :=
  ∀ s k, Issues i s k →
    (∀ tr, s.checkLanes k.G m.space ty kind true false (tyBytes ty) (as k s).2 (as k s).1 = .error tr → ∃ t, exec i s = .next t ∧ Raises s t i tr) ∧
    (∀ accs, s.checkLanes k.G m.space ty kind true false (tyBytes ty) (as k s).2 (as k s).1 = .ok accs →
      let pb := if 5 ≤ accsFmt accs ∧ accsFmt accs ≤ 7 then partBlocks accs else []
      let waits := k.bankWaits s accs || s.captureHolds k.G.part accs
      let ws := (k.encodeStore ty b accs).1
      (∀ x r, pb = x :: r → ∃ t, exec i s = .next t ∧
        Raises s t i { cause := cPARTBLOCK, addr := x.addr, lanes := setOfLanes (pb.map Acc.lane) }) ∧
      (pb = [] → ∀ tr, refusedBy false accs = some tr → ∃ t, exec i s = .next t ∧ Raises s t i tr) ∧
      (pb = [] → refusedBy false accs = none → waits = true → ∃ t, exec i s = .next t ∧ t.split k.g k.t k.x = s.split k.g k.t k.x ∧ SameMemory s t) ∧
      (Raw_ accs → ws = accs.map fun x => (x.pa, leBytes (tyBytes ty) (k.val ty b x.lane))) ∧
      (pb = [] → refusedBy false accs = none → waits = false → ∃ t u, exec i s = .next t ∧ StoredBytes s u k ws ∧ (AtOnce accs → Stored ws u.mem.read) ∧ SameRegisters s u k ∧
        ((k.cr crRMODE >>> 8) &&& 0x1F = 0 ∨ Raw_ accs → t = u ∧ (t.split k.g k.t k.x).pc = k.next) ∧
        (t = u ∨ ∃ tr, tr.cause = cARITH ∧ t = u.raise k.g k.t k.x k.pc k.next tr)))

/-- Accesses of w bytes that do not overlap, lane by lane. -/
def Apart (w : Nat) (accs : List Acc) : Prop := accs.Pairwise fun x y => x.pa + w ≤ y.pa ∨ y.pa + w ≤ x.pa

/-- An atomic that nothing stops (R123, R134, R343, R351, R353), on elements that do not overlap and with every store performed: each element becomes what `new` gives
from the lane and the old value (it stays where `new` gives none), no other byte of memory changes, the strand is committed (R95), and the split goes on. -/
def AtomicDone (s t : State) (k : Ctx) (w : Nat) (accs : List Acc) (new : Nat → Nat → Option Nat) : Prop :=
  (∀ x ∈ accs, s.leNat x.pa w < 2 ^ (8 * w) ∧ t.leNat x.pa w = ((new x.lane (s.leNat x.pa w)).getD (s.leNat x.pa w)) % 2 ^ (8 * w)) ∧
    (∀ a, (∀ x ∈ accs, ¬(x.pa ≤ a ∧ a < x.pa + w)) → t.mem.read a = s.mem.read a) ∧ (t.strand k.g k.t).committed = true ∧
    (t.split k.g k.t k.x).pc = k.next

/-- The split has its next issue cycle set by the instruction's stall count (R168), and is otherwise as it was. -/
def stalled (s : State) (k : Ctx) : State := s.setSplit k.g k.t k.x fun X => { X with readyAt := s.cycle + 1 + k.stall, yld := k.yld }

/-- The split of a strand that goes on after a division or a rejoin: lane mask, PC and state are as given. -/
def SplitAt (t : State) (g n x : Nat) (st : SplitSt) (mask : Word) (pc : BitVec 16) : Prop :=
  (t.split g n x).st = st ∧ (t.split g n x).mask = mask ∧ (t.split g n x).pc = pc

/-- A strand divided in two: split x keeps `stay` and goes on at `pc`; split e, the lowest that was FREE or EXITED, runs the lanes of
`go` at `pcGo` with a copy of the view (R157, R302); the stores of split x not yet performed both see (R246). Every other split, every vector register and
counter, everything outside the strand, and memory are as they were. -/
def DividedInTwo (s t : State) (k : Ctx) (e : Nat) (stay : Word) (pc : BitVec 16) (go : Word) (pcGo : BitVec 16) : Prop :=
  let S := s.strand k.g k.t
  let R := t.strand k.g k.t
  t = s.setStrand k.g k.t (fun _ => R) ∧ R = { S with splits := R.splits, posted := R.posted } ∧ (∀ a, R.sees k.x a = S.sees k.x a) ∧
    ((∀ m ∈ S.posted, e ∉ m.seen) → ∀ a, R.sees e a = S.sees k.x a) ∧
    SplitAt t k.g k.t k.x .run stay pc ∧ SplitAt t k.g k.t e .run go pcGo ∧
    (t.split k.g k.t e).view.s = (s.split k.g k.t k.x).view.s ∧ (t.split k.g k.t e).view.cr = (s.split k.g k.t k.x).view.cr ∧
    (t.split k.g k.t k.x).view.s = (s.split k.g k.t k.x).view.s ∧ (t.split k.g k.t k.x).view.cr = (s.split k.g k.t k.x).view.cr ∧
    (∀ y, y ≠ k.x → y ≠ e → R.splits.getD y Split.none = S.splits.getD y Split.none) ∧ SameMemory s t

/-- The entries that the active lanes name in the dispatch table pass the checks of R300: every index is below cr.DTLEN, the table can be read through `accs`, one access a
lane, nothing of it is poisoned, and each entry has no reserved bit, a TARGET that is a multiple of 4 and, for SPAWN, SP = 1. -/
def EntriesGood (k : Ctx) (spawn : Bool) (a : Src) (s : State) (accs : List Acc) : Prop :=
  let word := fun (x : Acc) => s.readNat k.g k.t k.x false x.pa 8
  k.act ≠ 0 ∧ (∀ n ∈ k.lanes, (k.v a n).toNat < (k.cr crDTLEN).toNat % 2 ^ 32) ∧
    s.checkAll k.G .g .n64 (.scattered false) false true 8 unstrided
      (k.lanes.map fun n => (n, k.cr crDTBASE + BitVec.ofNat 64 (8 * (k.v a n).toNat))) = .ok accs ∧
    ∀ x ∈ accs, s.mem.poisoned x.pa 8 = false ∧ word x < 2 ^ 24 ∧ word x / 2 ^ 17 % 8 = 0 ∧ word x % 4 = 0 ∧ (spawn = true → word x / 2 ^ 16 % 2 = 1)

/-- The state once the dispatch table has been read through `accs`. -/
def tableRead (s : State) (k : Ctx) (accs : List Acc) : State := (s.noteAccs k.G.part accs).orderBefore k false 8 accs

/-- The active lanes all name one index, whose entry has this TARGET. -/
def OneTarget (k : Ctx) (a : Src) (s : State) (accs : List Acc) (target : BitVec 16) : Prop :=
  (∀ n ∈ k.lanes, ∀ m ∈ k.lanes, k.v a n = k.v a m) ∧ ∀ x ∈ accs, BitVec.ofNat 16 (s.readNat k.g k.t k.x false x.pa 8) = target

/-! ## Copies, nodes, bank commands and lockets -/

/-- The first failed check of a list traps; with none failed, the instruction does what P says. -/
def TrapsOrDoes (i : Instr) (s : State) (chk : List (Option Trap)) (P : State → Prop) : Prop :=
  (∀ pre tr post, chk = pre ++ some tr :: post → (∀ x ∈ pre, x = none) → ∃ t, exec i s = .next t ∧ Raises s t i tr) ∧
    ((∀ x ∈ chk, x = none) → ∃ t, exec i s = .next t ∧ P t)

/-- A copy's descriptor has entered its core's queue in the slot `slot` of class `cls`, its token's register awaits its word (R229, R358), and the split goes on; no
register changes, and memory changes at most where the strand's earlier stores are performed (R252). -/
def CopyQueued (s t : State) (k : Ctx) (cls : CopyCls) (slot : Nat) (c : Copy) : Prop :=
  (t.core k.G.core).copies = (s.core k.G.core).copies ++
      [{ c with id := s.nextId, gang := k.g, strand := k.t, gen := (s.strand k.g k.t).gen, split := k.x, pc := k.pc, cls := cls, slot := slot,
                want := c.valid }] ∧
    (c.token ≠ 0 → c.token ∈ (t.split k.g k.t k.x).view.busy) ∧ (∀ r ∈ (s.split k.g k.t k.x).view.busy, r ∈ (t.split k.g k.t k.x).view.busy) ∧
    (t.strand k.g k.t).v = (s.strand k.g k.t).v ∧ (t.split k.g k.t k.x).view.s = (s.split k.g k.t k.x).view.s ∧
    (t.strand k.g k.t).counters = (s.strand k.g k.t).counters ∧ (t.split k.g k.t k.x).mask = (s.split k.g k.t k.x).mask ∧
    (t.split k.g k.t k.x).pc = k.next ∧ ∀ a, Unposted s k a → t.mem.read a = s.mem.read a

/-- A descriptor of this kind, its ends and token as given, is the newest of its core's queue; the token's register awaits its word, and the split goes on. -/
def Described (s t : State) (k : Ctx) (kind : CopyKind) (dst src : DWord) (token : Nat) : Prop :=
  (∃ c, (t.core k.G.core).copies = (s.core k.G.core).copies ++ [c] ∧ c.gang = k.g ∧ c.strand = k.t ∧ c.kind = kind ∧ c.dst = dst ∧ c.src = src ∧
      c.token = token ∧ c.st = .queued) ∧
    (token ≠ 0 → token ∈ (t.split k.g k.t k.x).view.busy) ∧ (t.split k.g k.t k.x).pc = k.next

/-- A copy instruction (R229, R230, R358): it waits for a descriptor of its class; then its first failed check traps, or its descriptor takes the lowest free slot. -/
def QueuesCopy (i : Instr) (s : State) (k : Ctx) (cls : CopyCls) (c : Copy) (chk : List (Option Trap)) : Prop :=
  let free := fun n => n < 64 ∧ ∀ d ∈ (s.core k.G.core).copies, ¬(d.cls = cls ∧ d.slot = n)
  ((∀ n, ¬free n) → exec i s = .next s) ∧
    (∀ n, free n → (∀ m, m < n → ¬free m) → TrapsOrDoes i s chk fun t => CopyQueued s t k cls n c)

/-- A tile, graph or weight instruction whose strand is not converged raises CONVERGENCE, before its registers' values are waited for or looked at (R368). -/
def NeedsConvergence (i : Instr) : Prop :=
  ∀ s, s.canIssue = true → Unheld s → operandsOf i s = none → (s.strand s.cur.g s.cur.t).converged = false →
    ∃ t, exec i s = .next t ∧ Raises s t i { cause := cCONVERGENCE }

/-- Nothing stands before a node over these tile registers (R198-R201): no poisoned operand, no register that the pin rule forces, no force of the instruction's own to
report, and room in the buffer. -/
def RoomFor (S : Strand) (d : Option Nat) (uses : List Nat) : Prop :=
  S.converged = true ∧ (∀ u ∈ uses, (S.treg u).st ≠ .poisoned) ∧ (∀ r, d = some r → S.pinned r = []) ∧ S.carried = [] ∧ S.graph.length < 48 ∧
    S.newDepth uses ≤ 16

/-- A node has entered the strand's graph buffer under its next sequence number, and register d is PENDING on it (R197, R199); no register or lane changes, every other tile register
is as it was, and so is memory. -/
def NodeAdded (s t : State) (k : Ctx) (d : Nat) (kind : NodeKind) (rows cols : Nat) : Prop :=
  let S := s.strand k.g k.t
  let R := t.strand k.g k.t
  (R.treg d).st = .pending S.nextSeq ∧ R.graph.get? S.nextSeq = some { kind := kind, rows := rows, cols := cols, pc := k.pc } ∧
    R.nextSeq = S.nextSeq + 1 ∧ (∀ u, u ≠ d → R.treg u = S.treg u) ∧ SameRegisters s t k ∧ (t.split k.g k.t k.x).pc = k.next ∧ SameMemory s t

/-- An instruction that makes a node. -/
def MakesNode (i : Instr) (d : Nat) (uses : List Nat) (mk : Ctx → Strand → NodeKind × Nat × Nat) : Prop :=
  ∀ s k, Issues i s k →
    let n := mk k (s.strand k.g k.t)
    (RoomFor (s.strand k.g k.t) (some d) uses → ∃ t, exec i s = .next t ∧ NodeAdded s t k d n.1 n.2.1 n.2.2) ∧
    ((s.strand k.g k.t).converged = true → (∃ u ∈ uses, ((s.strand k.g k.t).treg u).st = .poisoned) →
      ∃ t, exec i s = .next t ∧ Raises s t i { cause := cTILEPOISON })

/-- A command has been handed to the banks of its core (R134-R136): no request of it is performed yet, the core's read buffer is empty, its token's register awaits the
completion word, the strand is committed where the command writes, and the split goes on. -/
def CommandAtBanks (s t : State) (k : Ctx) (kind : BankKind) (lanes : List BLane) (d count : Nat) : Prop :=
  (∃ w, (t.core k.G.core).bank = (s.core k.G.core).bank ++ [w] ∧ w.kind = kind ∧ w.lanes = lanes ∧ w.cur = 0 ∧ w.token = d ∧ w.count = count ∧
      w.gang = k.g ∧ w.strand = k.t ∧ w.split = k.x ∧ w.part = (s.gang k.g).part ∧ w.bits = 0) ∧
    (t.core k.G.core).rbuf = [] ∧ (d ≠ 0 → d ∈ (t.split k.g k.t k.x).view.busy) ∧ (t.strand k.g k.t).committed = true ∧
    (t.strand k.g k.t).v = (s.strand k.g k.t).v ∧ (t.split k.g k.t k.x).view.s = (s.split k.g k.t k.x).view.s ∧
    (t.strand k.g k.t).counters = (s.strand k.g k.t).counters ∧ (t.split k.g k.t k.x).pc = k.next ∧ SameMemory s t

/-- A command of this kind is the newest at its core's banks, and the split goes on. -/
def Commanded (s t : State) (k : Ctx) (kind : BankKind) : Prop :=
  (∃ w, (t.core k.G.core).bank = (s.core k.G.core).bank ++ [w] ∧ w.kind = kind ∧ w.gang = k.g ∧ w.strand = k.t ∧ w.cur = 0) ∧
    (t.split k.g k.t k.x).pc = k.next

/-- The lane checks of a bank command (R136, R384): ALIGN before BOUNDS, the LANES those that fail and the ADDR the offset of the lowest. -/
def BankLanesChecked (i : Instr) (s : State) (k : Ctx) (a : BitVec 8) (b : Src) (w : Nat) : Prop :=
  let off := fun n => ((k.s a).toNat : Int) + (k.v b n).toInt
  let skew := k.lanes.filter fun n => (BitVec.ofInt 64 (off n)).toNat % w != 0
  let past := k.lanes.filter fun n => decide (off n < 0 ∨ (s.window k.G).2 < off n + w)
  (∀ n r, skew = n :: r → ∃ t, exec i s = .next t ∧ Raises s t i { cause := cALIGN, addr := BitVec.ofInt 64 (off n), lanes := setOfLanes skew }) ∧
    (∀ n r, skew = [] → past = n :: r →
      ∃ t, exec i s = .next t ∧ Raises s t i { cause := cBOUNDS, addr := BitVec.ofInt 64 (off n), lanes := setOfLanes past })

/-- Every lane of a bank command lies in the window at a multiple of `w` bytes. -/
def BankLanesFit (s : State) (k : Ctx) (a : BitVec 8) (b : Src) (w : Nat) : Prop :=
  ∀ n ∈ k.lanes, let off := ((k.s a).toNat : Int) + (k.v b n).toInt
    0 ≤ off ∧ off + w ≤ (s.window k.G).2 ∧ (BitVec.ofInt 64 off).toNat % w = 0

/-- The lanes of a bank command: share offset, value and key. -/
def bankLanesOf (s : State) (k : Ctx) (a : BitVec 8) (b : Src) (data key : Nat → DWord) : List BLane :=
  k.lanes.map fun n => { lane := n, addr := (s.window k.G).1 + (((k.s a).toNat : Int) + (k.v b n).toInt).toNat, data := data n, key := key n }

/-- A value is on its way to scalar d (R393): its register awaits it, and it is due 40 cycles on, or when its entry settles. -/
def OnItsWay (s t : State) (k : Ctx) (d : BitVec 8) (val : Option DWord) (entry : Nat) : Prop :=
  (∃ r ∈ t.lkres, r.val = val ∧ r.reg = d.toNat ∧ r.entry = entry ∧ r.due = s.cycle + 40 ∧ r.gang = k.g ∧ r.strand = k.t ∧
      r.split = k.x) ∧
    (d ≠ 0 → d.toNat ∈ (t.split k.g k.t k.x).view.busy) ∧ (t.strand k.g k.t).v = (s.strand k.g k.t).v ∧
    (t.split k.g k.t k.x).view.s = (s.split k.g k.t k.x).view.s ∧ (t.strand k.g k.t).counters = (s.strand k.g k.t).counters ∧
    (t.split k.g k.t k.x).pc = k.next

/-- An address that is no multiple of w bytes raises ALIGN, and one whose n bytes leave a space of a size BOUNDS. -/
def alignCheck (w : Nat) (a : DWord) : Option Trap := if a.toNat % w = 0 then none else some { cause := cALIGN, addr := a }
def boundCheck (size n : Nat) (a : DWord) : Option Trap := if a.toNat + n ≤ size then none else some { cause := cBOUNDS, addr := a }
def bankopCheck (bad : Bool) (sub : Nat) (a : DWord) : Option Trap :=
  if bad then some { cause := cBANKOP, detail := BitVec.ofNat 64 sub, addr := a } else none

/-- A locket of another package or partition raises FOREIGNLOCKET, and a stale one STALELOCKET (R65, R393). -/
def locketChecks (s : State) (k : Ctx) (l : DWord) : List (Option Trap) :=
  [if lkPkg l ≠ s.pkg.pkgid ∨ lkPart l ≠ (s.gang k.g).part then some { cause := cFOREIGNLOCKET } else none,
   if s.stale (s.gang k.g).part l then some { cause := cSTALELOCKET } else none]

/-- A command that returns vector values is at its banks, and its landing entry waits for it (R165, R387, R391). -/
def LoadAtBanks (s t : State) (k : Ctx) (kind : BankKind) (lanes : List BLane) (regs : List Nat) (acq : Bool) : Prop :=
  (∃ w L, (t.core k.G.core).bank = (s.core k.G.core).bank ++ [w] ∧ w.kind = kind ∧ w.lanes = lanes ∧ w.cur = 0 ∧ w.acq = acq ∧ w.gang = k.g ∧
      w.strand = k.t ∧ w.token = 0 ∧ (t.core k.G.core).landing = (s.core k.G.core).landing ++ [L] ∧ L.wait = some w.id ∧ L.regs = regs ∧
      L.gang = k.g ∧ L.strand = k.t) ∧
    (t.core k.G.core).rbuf = [] ∧ (t.strand k.g k.t).olc = (s.strand k.g k.t).olc + 1 ∧ (∀ r ∈ regs, r ∈ (t.strand k.g k.t).vbusy) ∧
    (t.strand k.g k.t).v = (s.strand k.g k.t).v ∧ (t.split k.g k.t k.x).view.s = (s.split k.g k.t k.x).view.s ∧
    (t.strand k.g k.t).counters = (s.strand k.g k.t).counters ∧ (t.split k.g k.t k.x).pc = k.next ∧ SameMemory s t

/-! ## Commands of a queue -/

/-- The front end takes the command of OP `op` at the consumer index of the queue that State.cur names: slot `l`, which passes the checks of R27, in a partition whose
tables let CIWB be written (R21, R26, R27). -/
def Taken (s : State) (op p : Nat) (l : List Byte) : Prop :=
  s.mayTake s.cur.g = true ∧ s.fnPart (s.queue s.cur.g).func = some p ∧ s.slotAt p s.cur.g = some l ∧ leAt l 0 1 = op ∧ cmdBad l = none ∧
    ∃ ls, s.writeLeaves p (s.queue s.cur.g).desc.ciwb.toNat 8 = .ok ls

/-- CIDX has passed the command, and its new value stands at CIWB (R21). -/
def CmdPassed (s u : State) (p : Nat) : Prop :=
  ∃ w, s.writeVa p (s.queue s.cur.g).desc.ciwb.toNat (leBytes 8 ((s.queue s.cur.g).cidx + 1).toNat) = .ok w ∧
    u = w.setQueue s.cur.g fun Q => { Q with cidx := Q.cidx + 1, idle := (u.queue s.cur.g).idle }

/-- The command has been entered among the queue's open ones, under its ring index. -/
def CmdEntered (s u t : State) (l : List Byte) (k : CmdKind) : Prop :=
  t = u.setQueue s.cur.g fun Q => { Q with
    cmds := Q.cmds ++ [{ id := Q.nextCmd, op := l.getD 0 0, idx := (s.queue s.cur.g).cidx.toNat, tag := BitVec.ofNat 32 (leAt l 4 4), kind := k }],
    nextCmd := Q.nextCmd + 1 }

/-- The queue stops at the command at its consumer index (R30): it is in ERROR, and CIDX stays there. -/
def StoppedAt (s t : State) (l : List Byte) (cause : Byte) : Prop :=
  t = s.queueError s.cur.g (BitVec.ofNat 32 (leAt l 4 4)) (s.queue s.cur.g).cidx.toNat cause (l.getD 0 0) ∧ (t.queue s.cur.g).err = true ∧
    (t.queue s.cur.g).cidx = (s.queue s.cur.g).cidx ∧ t.gangs = s.gangs ∧ t.parts = s.parts

end Sys2Proof.Machine
end

