-- ==== Sys2Proof/Certificates/Slice0/Obligations.lean ====
section
/-! DEFINITION. Certificates/Slice0/Obligations.lean: the statements about the model. Each docstring names the rules it formalises. -/

open Sys2Proof Sys2Proof.Machine

/-! ## Encoding -/

/-- Every well-formed Kweyn-N instruction decodes from its own bytes, at any offset at which they stay within one 32-byte group (R259-R277),
whatever bytes follow. -/
def Obligations.DecodeOfEncode : Prop :=
  ∀ i : Instr, i.com.isSome → WellFormed i → ∀ pos rest, pos % 8 = 0 → pos + (encodeBytes i).length ≤ 32 →
    decode pos (encodeBytes i ++ rest) = .ok i

/-! ## Issue -/

/-- A split whose instruction nothing holds or traps issues it, with its registers as they stand: past its stall count (R168), operands in range (R159), its strand
converged where it is a tile, graph or weight instruction (R368), no scoreboard bit set (R167), sources landed (R168) and unmarked (R166), and no live-in written (R99). A split does not issue before its stall count ends (R168), while a handler of another split of its strand runs (R105), or while a
register its instruction names awaits a variable-latency write (R167): the machine is as it was. An operand outside the strand's allocation raises OPERAND with its subcode, the lowest first (R159); then a strand that is not converged raises CONVERGENCE (R368); a marked source raises POISON with
the ADDR and DETAIL of its mark (R166); a write of a live-in in the replay window raises LIVEIN (R99). -/
def Obligations.WhenAnInstructionIssues : Prop :=
  (∀ i s, s.canIssue = true → Unheld s → operandsOf i s = none → Converges i s → ¬Scoreboarded i s → Landed i s → Unmarked i s → ¬WritesLiveIn i s →
    Issues i s (plainCtx i s)) ∧
  (∀ i body s, s.canIssue = true →
    (s.cycle < (s.split s.cur.g s.cur.t s.cur.x).readyAt ∨
      (∃ e, (s.strand s.cur.g s.cur.t).eret = some e ∧ e.split ≠ s.cur.x) ∨
      (Unheld s ∧ operandsOf i s = none ∧ Converges i s ∧ Scoreboarded i s)) →
    issue i body s = .next s) ∧
  (∀ i body s, s.canIssue = true → Unheld s →
    (∀ n, operandsOf i s = some n → ∃ t, issue i body s = .next t ∧ Raises s t i { cause := cOPERAND, detail := BitVec.ofNat 64 n }) ∧
    (operandsOf i s = none → ¬Converges i s → ∃ t, issue i body s = .next t ∧ Raises s t i { cause := cCONVERGENCE }) ∧
    (operandsOf i s = none → Converges i s → ¬Scoreboarded i s → Landed i s → ¬Unmarked i s →
      ∃ m t, ((∃ r ∈ scalarReads i s, (s.split s.cur.g s.cur.t s.cur.x).view.marks.get? r = some m) ∨
          ∃ r ∈ vectorReads i, (s.strand s.cur.g s.cur.t).vmarks.get? r = some m) ∧
        issue i body s = .next t ∧ Raises s t i { cause := cPOISON, addr := m.addr, detail := m.detail }) ∧
    (operandsOf i s = none → Converges i s → ¬Scoreboarded i s → Landed i s → Unmarked i s → WritesLiveIn i s →
      ∃ t, issue i body s = .next t ∧ Raises s t i { cause := cLIVEIN }))

/-! ## Scalar instructions (R313-R320) -/

/-- The two-operand scalar instructions of R314 write the result that their row of the table gives, and nothing else (R313). -/
def Obligations.ScalarRegisterResults : Prop :=
  ∀ c d a b,
    WritesScalar (.sadd c d a b) d (fun k => BitVec.ofNat 64 ((k.s a).toNat + (k.s b).toNat)) ∧
    WritesScalar (.ssub c d a b) d (fun k => BitVec.ofInt 64 ((k.s a).toNat - (k.s b).toNat)) ∧
    WritesScalar (.smul c d a b) d (fun k => BitVec.ofNat 64 ((k.s a).toNat * (k.s b).toNat)) ∧
    WritesScalar (.smulh c false d a b) d (fun k => (((k.s a).signExtend 128) * ((k.s b).signExtend 128)).extractLsb' 64 64) ∧
    WritesScalar (.smulh c true d a b) d (fun k => (((k.s a).zeroExtend 128) * ((k.s b).zeroExtend 128)).extractLsb' 64 64) ∧
    WritesScalar (.sand c d a b) d (fun k => k.s a &&& k.s b) ∧
    WritesScalar (.sor c d a b) d (fun k => k.s a ||| k.s b) ∧
    WritesScalar (.sxor c d a b) d (fun k => k.s a ^^^ k.s b) ∧
    WritesScalar (.sshl c d a b) d (fun k => k.s a <<< ((k.s b).toNat % 64)) ∧
    WritesScalar (.sshr c d a b) d (fun k => k.s a >>> ((k.s b).toNat % 64)) ∧
    WritesScalar (.ssra c d a b) d (fun k => (k.s a).sshiftRight ((k.s b).toNat % 64)) ∧
    WritesScalar (.smin c false d a b) d (fun k => BitVec.ofInt 64 (min (k.s a).toInt (k.s b).toInt)) ∧
    WritesScalar (.smin c true d a b) d (fun k => BitVec.ofNat 64 (min (k.s a).toNat (k.s b).toNat)) ∧
    WritesScalar (.smax c false d a b) d (fun k => BitVec.ofInt 64 (max (k.s a).toInt (k.s b).toInt)) ∧
    WritesScalar (.smax c true d a b) d (fun k => BitVec.ofNat 64 (max (k.s a).toNat (k.s b).toNat))

/-- SDIV and SREM divide with truncation towards zero; a zero divisor gives all ones and the dividend, -2^63 by -1 gives -2^63 and 0, and
neither traps (R315). -/
def Obligations.ScalarDivision : Prop :=
  ∀ c d a b,
    WritesScalar (.sdiv c false d a b) d (fun k =>
      if k.s b = 0 then 0xFFFFFFFFFFFFFFFF else if (k.s a).toInt = -2 ^ 63 ∧ (k.s b).toInt = -1 then BitVec.ofInt 64 (-2 ^ 63)
      else BitVec.ofInt 64 ((k.s a).toInt.tdiv (k.s b).toInt)) ∧
    WritesScalar (.srem c false d a b) d (fun k =>
      if k.s b = 0 then k.s a else if (k.s a).toInt = -2 ^ 63 ∧ (k.s b).toInt = -1 then 0
      else BitVec.ofInt 64 ((k.s a).toInt - (k.s a).toInt.tdiv (k.s b).toInt * (k.s b).toInt)) ∧
    WritesScalar (.sdiv c true d a b) d (fun k =>
      if k.s b = 0 then 0xFFFFFFFFFFFFFFFF else BitVec.ofNat 64 ((k.s a).toNat / (k.s b).toNat)) ∧
    WritesScalar (.srem c true d a b) d (fun k =>
      if k.s b = 0 then k.s a else BitVec.ofNat 64 ((k.s a).toNat - (k.s a).toNat / (k.s b).toNat * (k.s b).toNat))

/-- SCMP writes 1 if the comparison holds and 0 otherwise; SSEL writes a where c is not zero, and b otherwise (R316). The immediate forms
of R317 and the bit counts and bit fields of R318 write the results their tables give. SRDV writes the value that its operand delivers to a lane, active or not (R164, R319); SVOTE writes one of four results of the active
lanes' tests: with no lane active, ALL gives 1 and the others 0 (R319). -/
def Obligations.ScalarOtherResults : Prop :=
  (∀ c u d a b x imm pos len,
    WritesScalar (.scmp c false .eq d a b) d (fun k => if (k.s a).toInt = (k.s b).toInt then 1 else 0) ∧
    WritesScalar (.scmp c false .ne d a b) d (fun k => if (k.s a).toInt ≠ (k.s b).toInt then 1 else 0) ∧
    WritesScalar (.scmp c false .lt d a b) d (fun k => if (k.s a).toInt < (k.s b).toInt then 1 else 0) ∧
    WritesScalar (.scmp c false .le d a b) d (fun k => if (k.s a).toInt ≤ (k.s b).toInt then 1 else 0) ∧
    WritesScalar (.scmp c false .gt d a b) d (fun k => if (k.s a).toInt > (k.s b).toInt then 1 else 0) ∧
    WritesScalar (.scmp c false .ge d a b) d (fun k => if (k.s a).toInt ≥ (k.s b).toInt then 1 else 0) ∧
    WritesScalar (.scmp c true .eq d a b) d (fun k => if (k.s a).toNat = (k.s b).toNat then 1 else 0) ∧
    WritesScalar (.scmp c true .ne d a b) d (fun k => if (k.s a).toNat ≠ (k.s b).toNat then 1 else 0) ∧
    WritesScalar (.scmp c true .lt d a b) d (fun k => if (k.s a).toNat < (k.s b).toNat then 1 else 0) ∧
    WritesScalar (.scmp c true .le d a b) d (fun k => if (k.s a).toNat ≤ (k.s b).toNat then 1 else 0) ∧
    WritesScalar (.scmp c true .gt d a b) d (fun k => if (k.s a).toNat > (k.s b).toNat then 1 else 0) ∧
    WritesScalar (.scmp c true .ge d a b) d (fun k => if (k.s a).toNat ≥ (k.s b).toNat then 1 else 0) ∧
    WritesScalar (.ssel c d a b x) d (fun k => if k.s x ≠ 0 then k.s a else k.s b) ∧
    WritesScalar (.saddi c d a imm) d (fun k => k.s a + imm.signExtend 64) ∧
    WritesScalar (.smovi c d imm) d (fun _ => imm.signExtend 64) ∧
    WritesScalar (.smovhi c d imm) d (fun k => imm ++ (k.s d).extractLsb' 0 32) ∧
    WritesScalar (.sclz c d a) d (fun k => BitVec.ofNat 64 (((List.range 64).reverse.takeWhile fun n => !(k.s a).getLsbD n).length)) ∧
    WritesScalar (.spopc c d a) d (fun k => BitVec.ofNat 64 (((List.range 64).filter fun n => (k.s a).getLsbD n).length)) ∧
    (1 ≤ len.toNat → pos.toNat + len.toNat ≤ 64 →
      WritesScalar (.sbfx c u d a pos len) d (fun k =>
        let f := (k.s a).extractLsb' pos.toNat len.toNat
        if u then f.zeroExtend 64 else f.signExtend 64) ∧
      WritesScalar (.sbfi c d a pos len) d (fun k => BitVec.ofFnLE fun (n : Fin 64) =>
        if pos.toNat ≤ n.val ∧ n.val < pos.toNat + len.toNat then (k.s a).getLsbD (n.val - pos.toNat) else (k.s d).getLsbD n.val))) ∧
  (∀ c d a lane,
    WritesScalar (.srdv c d a lane false) d (fun k => (k.v a lane.toNat).zeroExtend 64) ∧
    WritesScalar (.srdv c d a lane true) d (fun k => k.p a lane.toNat) ∧
    WritesScalar (.svote c .any d a) d (fun k => if (List.range 32).any fun n => k.on n && decide (k.v a n ≠ 0) then 1 else 0) ∧
    WritesScalar (.svote c .all d a) d (fun k => if (List.range 32).all fun n => !(k.on n) || decide (k.v a n ≠ 0) then 1 else 0) ∧
    WritesScalar (.svote c .ballot d a) d (fun k => BitVec.ofFnLE fun (n : Fin 64) =>
      decide (n.val < 32) && k.on n.val && decide (k.v a n.val ≠ 0)) ∧
    WritesScalar (.svote c .count d a) d (fun k =>
      BitVec.ofNat 64 (((List.range 32).filter fun n => k.on n && decide (k.v a n ≠ 0)).length)))

/-! ## Control flow (R297-R312) -/

/-- NOP and PREF change nothing but the PC (R298, R349); BRA goes to its target, BRC there if its signed comparison with 0 holds (R299);
RET goes to its operand's low 16 bits, or raises DISPATCH 0x04 where they are no multiple of 4 (R299); WAITL goes on where cr.OLC is at or below its
count, and is held otherwise (R349). CALL writes its link and goes to its target (R299). OVLCALL finds the lowest valid directory entry with its ID: it writes its link and
goes to BASE + 4w where that lies within the overlay, raises DISPATCH 0x05 where it does not, and raises OVLMISS with its ID where no entry has
it (R171, R311). -/
def Obligations.UniformFlowAndCalls : Prop :=
  (∀ c a off off32 n,
    (∀ s k, Issues (.nop c) s k → ∃ t, exec (.nop c) s = .next t ∧ Goes s t k k.next) ∧
    (∀ s k, Issues (.pref c a off32) s k → ∃ t, exec (.pref c a off32) s = .next t ∧ Goes s t k k.next) ∧
    (∀ s k, Issues (.waitl c n) s k →
      if (s.strand k.g k.t).olc ≤ n.toNat then ∃ t, exec (.waitl c n) s = .next t ∧ Goes s t k k.next else exec (.waitl c n) s = .next s) ∧
    (∀ s k, Issues (.bra c off) s k → ∃ t, exec (.bra c off) s = .next t ∧ Goes s t k (BitVec.ofInt 16 (k.pc.toNat + 4 * off.toInt))) ∧
    (∀ s k cond, Issues (.brc c cond a off) s k →
      ∃ t, exec (.brc c cond a off) s = .next t ∧
        Goes s t k (if (match cond with
          | .eq => decide ((k.s a).toInt = 0)
          | .ne => decide ((k.s a).toInt ≠ 0)
          | .lt => decide ((k.s a).toInt < 0)
          | .le => decide ((k.s a).toInt ≤ 0)
          | .gt => decide ((k.s a).toInt > 0)
          | .ge => decide ((k.s a).toInt ≥ 0)
          | .un => false
          | .ord => true) then BitVec.ofInt 16 (k.pc.toNat + 4 * off.toInt) else k.next)) ∧
    (∀ s k, Issues (.ret c a) s k →
      ∃ t, exec (.ret c a) s = .next t ∧
        if (k.s a).toNat % 4 = 0 then Goes s t k ((k.s a).extractLsb' 0 16) else Raises s t (.ret c a) { cause := cDISPATCH, detail := 4 })) ∧
  (∀ c d,
    (∀ s k off, Issues (.call c d off) s k →
      ∃ t, exec (.call c d off) s = .next t ∧ ScalarWritten s t k (BitVec.ofInt 16 (k.pc.toNat + 4 * off.toInt)) d (k.next.zeroExtend 64)) ∧
    (∀ s k id w, Issues (.ovlcall c d id w) s k →
      let ovd := fun n => (s.gang k.g).ovd.getD n 0
      let hit := fun n => (ovd n).getLsbD 63 = true ∧ (ovd n).extractLsb' 32 16 = id
      (∀ n, n < 16 → hit n → (∀ m, m < n → ¬hit m) →
        ∃ t, exec (.ovlcall c d id w) s = .next t ∧
          if 4 * w.toNat < 256 * ((ovd n).extractLsb' 0 9).toNat then
            ScalarWritten s t k ((ovd n).extractLsb' 16 16 + 4#16 * w) d (k.next.zeroExtend 64)
          else Raises s t (.ovlcall c d id w) { cause := cDISPATCH, detail := 5 }) ∧
      ((∀ n, n < 16 → ¬hit n) →
        ∃ t, exec (.ovlcall c d id w) s = .next t ∧ Raises s t (.ovlcall c d id w) { cause := cOVLMISS, val := id.zeroExtend 64 })))

/-- ILL, and a word that is no instruction, raise their trap (R266, R298); TRAP and BKPT complete and then raise SWTRAP and BREAK with
their immediate for cr.FLTADDR (R312). -/
def Obligations.InstructionsThatTrap : Prop :=
  ∀ c imm,
    (∀ s k, Issues (.ill c) s k → ∃ t, exec (.ill c) s = .next t ∧ Raises s t (.ill c) { cause := cILLEGAL }) ∧
    (∀ s k, Issues (.unassignedMajor .unassigned) s k →
      ∃ t, exec (.unassignedMajor .unassigned) s = .next t ∧ Raises s t (.unassignedMajor .unassigned) { cause := cILLEGAL, detail := 1 }) ∧
    (∀ s k, Issues (.unassignedMajor .future) s k →
      ∃ t, exec (.unassignedMajor .future) s = .next t ∧ Raises s t (.unassignedMajor .future) { cause := cFUTURE }) ∧
    (∀ s k, Issues (.unassignedMajor .length) s k →
      ∃ t, exec (.unassignedMajor .length) s = .next t ∧ Raises s t (.unassignedMajor .length) { cause := cLENGTH }) ∧
    (∀ s k, Issues (.trap c imm) s k →
      ∃ t, exec (.trap c imm) s = .next t ∧ Raises (stalled s k) t (.trap c imm) { cause := cSWTRAP, val := imm.zeroExtend 64 }) ∧
    (∀ s k, Issues (.bkpt c imm) s k →
      ∃ t, exec (.bkpt c imm) s = .next t ∧ Raises (stalled s k) t (.bkpt c imm) { cause := cBREAK, val := imm.zeroExtend 64 })

/-- Taking a resumable trap in a region that has a handler, outside handler mode (R104, R105, R400): cr.FLTPC, cr.EPC, cr.FLTINFO and cr.FLTADDR are
written, the ERET state holds the split's mask and the strand's counters, the fault image is set, and the split goes on at 65,536 - 256 x HLEN + HENTRY.
Every other control register, every scalar, vector register and other split, everything outside the strand, and memory are as they were. ERET in handler mode restores the lane mask and counters of the ERET state, leaves handler mode and goes to cr.EPC with bits [1:0] zero; outside
handler mode it raises ILLEGAL 0x08 (R105, R399). Every register, every other split, everything outside the strand, and memory are as they were. -/
def Obligations.HandlerModeEnteredAndLeft : Prop :=
  (∀ (s : State) pc next (tr : Trap), s.canIssue = true →
    let g := s.cur.g
    let n := s.cur.t
    let x := s.cur.x
    let S := s.strand g n
    let X := s.split g n x
    S.eret = none → resumable tr.cause = true → (s.gang g).hlen ≠ 0 →
    let t := s.raise g n x pc next tr
    let R := t.strand g n
    let Y := t.split g n x
    t = s.setStrand g n (fun _ => R) ∧
      R = { S with eret := some { split := x, mask := X.mask, counters := S.counters }, splits := R.splits,
                   image := tblPut [] 0 (recordBytes s g n x pc tr (fflags S tr)) } ∧
      Y = { X with st := .run, wait := none, view := Y.view,
                   pc := BitVec.ofInt 16 (65536 - 256 * (s.gang g).hlen + (s.gang g).hentry.toNat) } ∧
      Y.view.ctl crFLTPC = pc.zeroExtend 64 ∧
      Y.view.ctl crEPC = (if tr.cause = cOVLMISS ∨ tr.cause = cSTALLCHK then pc else next).zeroExtend 64 ∧
      Y.view.ctl crFLTINFO = BitVec.ofNat 64 (x % 4 * 256 + tr.cause.toNat) ∧ Y.view.ctl crFLTADDR = tr.val ∧
      (∀ m, m ≠ crFLTPC → m ≠ crEPC → m ≠ crFLTINFO → m ≠ crFLTADDR → Y.view.ctl m = X.view.ctl m) ∧ Y.view.s = X.view.s ∧
      (∀ y, y ≠ x → R.splits.getD y Split.none = S.splits.getD y Split.none) ∧ SameMemory s t) ∧
  (∀ c s k, Issues (.eret c) s k →
    let S := s.strand k.g k.t
    let X := s.split k.g k.t k.x
    (∀ e, S.eret = some e → ∃ t, exec (.eret c) s = .next t ∧
      t = s.setStrand k.g k.t (fun _ => t.strand k.g k.t) ∧
      t.strand k.g k.t = { S with eret := none, counters := e.counters, splits := (t.strand k.g k.t).splits } ∧
      t.split k.g k.t k.x = { X with mask := e.mask, pc := (k.cr crEPC).extractLsb' 2 14 ++ 0#2, readyAt := s.cycle + 1 + k.stall, yld := k.yld } ∧
      (∀ y, y ≠ k.x → t.split k.g k.t y = s.split k.g k.t y) ∧ SameMemory s t) ∧
    (S.eret = none → ∃ t, exec (.eret c) s = .next t ∧ Raises s t (.eret c) { cause := cILLEGAL, detail := 8 }))

/-- A trap taken in handler mode is a DOUBLETRAP whose DETAIL holds the original cause and subcode (R104, R106); a precise trap, or a resumable one
in a region without a handler, writes a fault record and the region's policy applies (R104, R107, R108). A fault that is recorded suspends its gang, if it has a place, where the region's FLAGS say so, and kills it where they do not: a killed gang's strands have all
exited and are freed (R37, R85, R108). Nothing of another gang changes where it is in no group. The record's 128 bytes are those of R107, and go to the region's ring, its producer index
advanced, or are counted as dropped where there is no ring, it is full, or it cannot be read and written (R37; that its indices run freely is log entry 26's choice). -/
def Obligations.OtherTrapsFault : Prop :=
  (∀ (s : State) g n x pc next (tr : Trap),
    ((s.strand g n).eret.isSome →
      s.raise g n x pc next tr = s.fault g n x pc
        { tr with cause := cDOUBLETRAP, detail := BitVec.ofNat 64 (tr.detail.toNat % 256 * 256 + tr.cause.toNat) } false tcFAULT) ∧
    ((s.strand g n).eret = none → (resumable tr.cause = false ∨ (s.gang g).hlen = 0) →
      s.raise g n x pc next tr = s.fault g n x pc tr false tcFAULT)) ∧
  (∀ (s : State) g n x pc (tr : Trap) ff,
    let b := recordBytes s g n x pc tr ff
    let G := s.gang g
    let X := s.split g n x
    b.length = 128 ∧ leAt b 0 1 = tr.cause.toNat ∧ leAt b 1 1 = ff % 2 ^ 8 ∧ leAt b 3 1 = n % 2 ^ 8 ∧ leAt b 4 2 = G.region % 2 ^ 16 ∧
      leAt b 6 2 = G.core % 2 ^ 16 ∧ leAt b 8 2 = pc.toNat ∧ leAt b 10 2 = (tr.opc.getD pc).toNat ∧ leAt b 12 2 = G.queue.getD 0xFFFF % 2 ^ 16 ∧
      leAt b 16 4 = G.index % 2 ^ 32 ∧ leAt b 20 4 = tr.lanes.toNat ∧ leAt b 24 8 = tr.addr.toNat ∧ leAt b 32 8 = tr.detail.toNat ∧
      leAt b 72 8 = s.cycle % 2 ^ 64 ∧ leAt b 80 8 = G.locket.toNat ∧
      (tr.all = false → leAt b 2 1 = 1 ∧ leAt b 40 8 = X.mask.toNat * 2 ^ 32 + pc.toNat ∧ leAt b 48 24 = 0)) ∧
  (∀ (s : State) p r bytes,
    let e := effRcb (s.part p).regions r
    let ring := e.fring.toNat
    let t := s.postRecord p r bytes
    (ring = 0 → t = s.countDropped p r) ∧ (ring ≠ 0 → ∀ f, s.readVa p ring 64 = .error f → t = s.countDropped p r) ∧
      ∀ h, ring ≠ 0 → s.readVa p ring 64 = .ok h →
        let prod := leAt h 0 4
        let full := 2 ^ e.frlog2 ≤ (prod + 2 ^ 32 - leAt h 4 4) % 2 ^ 32
        (full → ∀ u, s.writeVa p (ring + 8) (leBytes 4 (min (leAt h 8 4 + 1) 0xFFFFFFFF)) = .ok u → t = u) ∧
        (¬full → ∀ f, s.writeVa p (ring + 64 + prod % 2 ^ e.frlog2 * 128) bytes = .error f → t = s.countDropped p r) ∧
        (¬full → ∀ u v, s.writeVa p (ring + 64 + prod % 2 ^ e.frlog2 * 128) bytes = .ok u →
          u.writeVa p ring (leBytes 4 ((prod + 1) % 2 ^ 32)) = .ok v → t = v)) ∧
  (∀ (s : State) g n x pc tr cause, (s.gangs.get? g).isSome → s.mates g = [] →
    let t := s.fault g n x pc tr false cause
    let b := recordBytes s g n x pc tr (fflags (s.strand g n) tr + if (s.gang g).suspends then 2 else 1)
    t = (((s.setImage g n b).postRecord (s.gang g).part (s.gang g).region b).faultIrq g).faultPolicy g false cause ∧
    (∀ h, h ≠ g → t.gang h = s.gang h) ∧
    ((s.gang g).suspends = true → (s.gang g).charged = true → (t.gang g).phase = .suspended ∧ (t.gang g).killed = (s.gang g).killed) ∧
      ((s.gang g).suspends = false → (t.gang g).phase = .dead ∧ (t.gang g).killed = true ∧
        ∀ q ∈ (t.gang g).strands, q.2.exited = true ∧ q.2.freed = true))

/-- VIF, VELSE, VENDIF, VLOOP, VBREAK, VCONT and VENDL change the nesting counters of their split's lanes that are not vacant as R305 and R306 give
them; VIF and VLOOP raise NESTING, and change no counter, where one would pass 255 (R305, R306). -/
def Obligations.NestingCounters : Prop :=
  ∀ c inv a off s k,
    let n := counterOf s k.g k.t
    let c_ := fun m => (k.v a m != 0) != inv
    let any := fun (p : Nat → Bool) => (List.range 32).filter fun m => k.holds s m && p m
    let vendl := fun m => if n m ≤ 1 then (if c_ m then 0 else 2) else n m
    (Issues (.vif c inv a) s k → ∃ t, exec (.vif c inv a) s = .next t ∧
      if any (fun m => n m == 255) = [] then Counted s t k k.next fun m => if n m ≥ 1 then n m + 1 else if c_ m then 0 else 1
      else Raises s t (.vif c inv a) { cause := cNESTING, lanes := setOfLanes (any fun m => n m == 255) }) ∧
    (Issues (.velse c) s k → ∃ t, exec (.velse c) s = .next t ∧
      Counted s t k k.next fun m => if n m = 0 then 1 else if n m = 1 then 0 else n m) ∧
    (Issues (.vendif c) s k → ∃ t, exec (.vendif c) s = .next t ∧ Counted s t k k.next fun m => if n m ≥ 1 then n m - 1 else n m) ∧
    (Issues (.vloop c) s k → ∃ t, exec (.vloop c) s = .next t ∧
      if any (fun m => decide (254 ≤ n m)) = [] then Counted s t k k.next fun m => if n m ≥ 1 then n m + 2 else n m
      else Raises s t (.vloop c) { cause := cNESTING, lanes := setOfLanes (any fun m => decide (254 ≤ n m)) }) ∧
    (Issues (.vbreak c inv a) s k → ∃ t, exec (.vbreak c inv a) s = .next t ∧
      Counted s t k k.next fun m => if n m = 0 ∧ c_ m = true then 2 else n m) ∧
    (Issues (.vcont c inv a) s k → ∃ t, exec (.vcont c inv a) s = .next t ∧
      Counted s t k k.next fun m => if n m = 0 ∧ c_ m = true then 1 else n m) ∧
    (Issues (.vendl c inv a off) s k → ∃ t, exec (.vendl c inv a off) s = .next t ∧
      if any (fun m => vendl m == 0) ≠ [] then Counted s t k (BitVec.ofInt 16 (k.pc.toNat + 4 * off.toInt)) vendl
      else Counted s t k k.next fun m => if vendl m ≥ 2 then vendl m - 2 else vendl m)

/-- VBR goes on, branches or divides by the operand's lanes (R303): with none of the active lanes taken, the PC goes to next, with all of them, to the
target; otherwise a strand of one live split divides, the taken lanes leaving for the lowest entry that is FREE or EXITED, and a strand of several
raises ILLEGAL 0x0A. -/
def Obligations.VbrByItsLanes : Prop :=
  ∀ c a off s k, Issues (.vbr c a off) s k →
    let S := s.strand k.g k.t
    let taken := laneSet fun n => k.on n && k.v a n != 0
    let target := BitVec.ofInt 16 (k.pc.toNat + 4 * off.toInt)
    ∃ t, exec (.vbr c a off) s = .next t ∧
      (taken = 0 → Goes s t k k.next) ∧ (taken ≠ 0 → taken = k.act → Goes s t k target) ∧
      (taken ≠ 0 → taken ≠ k.act → S.liveSplits.length > 1 → Raises s t (.vbr c a off) { cause := cILLEGAL, detail := 0x0A }) ∧
      (taken ≠ 0 → taken ≠ k.act → S.liveSplits.length ≤ 1 → ∀ e, e < 4 → (s.split k.g k.t e).st.live = false →
        (∀ m, m < e → (s.split k.g k.t m).st.live = true) →
        DividedInTwo s t k e ((s.split k.g k.t k.x).mask &&& ~~~taken) k.next taken target)

/-- What the entries of an instruction that reads the dispatch table are (R84, R300): an index at or above cr.DTLEN in an active lane raises
DISPATCH 0x01, its LANES the lanes of such indices and its ADDR the entry VA of the lowest; where every check passes, each active lane has the entry of its index, with a TARGET that is a
multiple of 4 and, for SPAWN, SP = 1. JMPX and CALLX (R301, R302). With no active lane both only go on. Where the active lanes name one index they go to its TARGET, CALLX with its
link written (so it is for every table whose entries are good); where they name several, JMPX raises ILLEGAL 0x0A, and CALLX divides, or raises ILLEGAL 0x0A in a strand of more than one live split or,
at another PC, with a dispatch record standing. In a division each of the first four indices gets a split with its lanes at its TARGET, this one the lowest
index and its inactive lanes, and lanes of further indices are deferred. -/
def Obligations.TableCalls : Prop :=
  (∀ (k : Ctx) spawn a s,
    let len := (k.cr crDTLEN).toNat % 2 ^ 32
    let bad := k.lanes.filter fun n => decide ((k.v a n).toNat ≥ len)
    (∀ n r, bad = n :: r → k.dispatch spawn a s = .error
      { cause := cDISPATCH, detail := 1, addr := k.cr crDTBASE + BitVec.ofNat 64 (8 * (k.v a n).toNat), lanes := setOfLanes bad }) ∧
    (∀ es accs, k.dispatch spawn a s = .ok (es, accs) →
      bad = [] ∧ es.map (fun e => e.1) = k.lanes ∧
        ∀ e ∈ es, e.2.1 = (k.v a e.1).toNat ∧ e.2.2.target.toNat % 4 = 0 ∧ (spawn = true → e.2.2.sp = true))) ∧
  (∀ c d a s k,
    (Issues (.jmpx c a) s k → k.act = 0 → ∃ t, exec (.jmpx c a) s = .next t ∧ Goes s t k k.next) ∧
    (Issues (.callx c d a) s k → k.act = 0 → ∃ t, exec (.callx c d a) s = .next t ∧ Goes s t k k.next) ∧
    (∀ es accs, k.act ≠ 0 → k.dispatch false a s = .ok (es, accs) →
      let s1 := tableRead s k accs
      let xs := distinct (es.map fun e => e.2.1)
      let lanesAt := fun x => setOfLanes ((es.filter fun e => e.2.1 == x).map fun e => e.1)
      (∀ x e r, xs = [x] → es = e :: r →
        (Issues (.jmpx c a) s k → ∃ t, exec (.jmpx c a) s = .next t ∧ Goes s1 t k e.2.2.target) ∧
        (Issues (.callx c d a) s k →
          ∃ t, exec (.callx c d a) s = .next t ∧ ScalarWritten s1 t k e.2.2.target d (k.next.zeroExtend 64))) ∧
      (xs.length > 1 →
        let round := ∃ r, (s.strand k.g k.t).disp = some r ∧ r.cpc = k.pc
        (Issues (.jmpx c a) s k → ∃ t, exec (.jmpx c a) s = .next t ∧ Raises s1 t (.jmpx c a) { cause := cILLEGAL, detail := 0x0A }) ∧
        (Issues (.callx c d a) s k → ((s.strand k.g k.t).liveSplits.length > 1 ∨ ((s.strand k.g k.t).disp.isSome ∧ ¬round)) →
          ∃ t, exec (.callx c d a) s = .next t ∧ Raises s1 t (.callx c d a) { cause := cILLEGAL, detail := 0x0A }) ∧
        (Issues (.callx c d a) s k → (s.strand k.g k.t).liveSplits.length ≤ 1 → ((s.strand k.g k.t).disp = none ∨ round) →
          ∃ t, exec (.callx c d a) s = .next t ∧
            (t.split k.g k.t k.x).mask = lanesAt (xs.headD 0) ||| ((s.split k.g k.t k.x).mask &&& ~~~k.act) ∧
            (∀ e, (es.find? fun q => q.2.1 == xs.headD 0) = some e → (t.split k.g k.t k.x).pc = e.2.2.target) ∧
            (d ≠ 0 → (t.split k.g k.t k.x).view.scalar d.toNat = k.next.zeroExtend 64) ∧
            (∀ x ∈ (xs.take 4).drop 1, ∃ y, y < 4 ∧ y ≠ k.x ∧ (t.split k.g k.t y).st = .run ∧ (t.split k.g k.t y).mask = lanesAt x ∧
              (d ≠ 0 → (t.split k.g k.t y).view.scalar d.toNat = k.next.zeroExtend 64)) ∧
            (t.strand k.g k.t).disp.map Disp.defer =
              (if xs.length ≤ 4 then (if (s.strand k.g k.t).disp.isSome then some 0 else none)
               else some ((xs.drop 4).foldl (fun m x => m ||| lanesAt x) 0)) ∧
            SameMemory s1 t)))) ∧
  (∀ c d a accs target,
    Completes (.jmpx c a) (fun s k => EntriesGood k false a s accs ∧ OneTarget k a s accs target) (fun s t k => Goes (tableRead s k accs) t k target) ∧
    Completes (.callx c d a) (fun s k => EntriesGood k false a s accs ∧ OneTarget k a s accs target)
      (fun s t k => ScalarWritten (tableRead s k accs) t k target d (k.next.zeroExtend 64)) ∧
    Completes (.callx c d a) (fun s k => EntriesGood k false a s accs ∧ (∃ n ∈ k.lanes, ∃ m ∈ k.lanes, k.v a n ≠ k.v a m) ∧
        (s.strand k.g k.t).liveSplits.length ≤ 1 ∧ (s.strand k.g k.t).disp = none)
      (fun s t k => ((t.strand k.g k.t).liveSplits.length > 1 ∧ (t.split k.g k.t k.x).st = .run ∧
        (d ≠ 0 → (t.split k.g k.t k.x).view.scalar d.toNat = k.next.zeroExtend 64) ∧ SameMemory (tableRead s k accs) t)))

/-- JOIN (R304). While another live split is not in JOIN the split only waits there; when every live split is in JOIN at more than one PC the strand
raises REJOIN for all of them; when they are at one PC, no write of theirs is still to land and no dispatch record stands at that JOIN, they merge: the lowest goes on
at next with all their lanes and the merged view of R157, and the others are FREE. EXIT (R88, R308). A split that is not the last live one leaves: it is EXITED, a handler of its own ends, and, unless the others are all in
JOIN, nothing else of the strand changes; where they are, at one PC, they merge as at a JOIN. At the JOIN of a standing dispatch record the merged split goes back to the call with the deferred
lanes, the others counted up (NESTING where one stands at 255), or, with none deferred, the held lanes are counted down and the record ends. With the last split the strand exits: its stores are all performed and its pending nodes
discarded, and no other byte of memory changes. Each of the four completes whenever its condition on the strand's splits holds. -/
def Obligations.RejoiningAndLeaving : Prop :=
  (∀ c s k, Issues (.join c) s k →
    let S := s.strand k.g k.t
    let others := S.liveSplits.filter (· != k.x)
    ∃ t, exec (.join c) s = .next t ∧
      ((∃ y ∈ others, (s.split k.g k.t y).st ≠ .join) →
        t = s.setSplit k.g k.t k.x (fun X => { X with st := .join, readyAt := s.cycle + 1 + k.stall, yld := k.yld }) ∧ SameMemory s t) ∧
      ((∀ y ∈ others, (s.split k.g k.t y).st = .join) → (∃ y ∈ others, (s.split k.g k.t y).pc ≠ k.pc) →
        Raises s t (.join c) { cause := cREJOIN, all := true }) ∧
      ((∀ y ∈ others, (s.split k.g k.t y).st = .join ∧ (s.split k.g k.t y).pc = k.pc) → S.pendingWrites s.cycle = false →
        (∀ r, S.disp = some r → k.pc ≠ r.cpc + 8#16) → ∀ lo r, S.liveSplits = lo :: r →
          SplitAt t k.g k.t lo .run (S.liveSplits.foldl (fun m y => m ||| (s.split k.g k.t y).mask) 0) (k.pc + 8#16) ∧
          (t.split k.g k.t lo).view = mergeViews (S.liveSplits.map fun y => (s.split k.g k.t y).view) ∧
          (∀ y ∈ S.liveSplits, y ≠ lo → t.split k.g k.t y = Split.none) ∧
          (t.strand k.g k.t).counters = S.counters ∧ (t.strand k.g k.t).v = S.v ∧ SameMemory s t) ∧
      ((∀ y ∈ others, (s.split k.g k.t y).st = .join ∧ (s.split k.g k.t y).pc = k.pc) → ∀ r lo l, S.disp = some r → k.pc = r.cpc + 8#16 →
        S.liveSplits = lo :: l →
          let mask := S.liveSplits.foldl (fun m y => m ||| (s.split k.g k.t y).mask) 0
          let up := (List.range 32).filter fun n => bit mask n && !(bit S.vacant n) && !(bit r.held n)
          let C := fun n => S.counters.getD n 0
          let D := fun n => (t.strand k.g k.t).counters.getD n 0
          let high := up.filter fun n => C n = 255
          (r.defer ≠ 0 → high ≠ [] → Raises s t (.join c) { cause := cNESTING, lanes := setOfLanes high }) ∧
          (r.defer ≠ 0 → high = [] → S.pendingWrites s.cycle = false →
            SplitAt t k.g k.t lo .run (mask ||| r.defer) r.cpc ∧ (t.strand k.g k.t).disp = some { r with defer := 0, held := r.held ||| setOfLanes up } ∧
            (∀ n, D n = if n ∈ up then C n + 1 else C n) ∧ SameMemory s t) ∧
          (r.defer = 0 → S.pendingWrites s.cycle = false →
            SplitAt t k.g k.t lo .run mask (k.pc + 8#16) ∧ (t.strand k.g k.t).disp = none ∧
            (∀ n, D n = if n < 32 ∧ bit r.held n = true then C n - 1 else C n) ∧ SameMemory s t))) ∧
  (∀ c s k, Issues (.exit c) s k →
    let S := s.strand k.g k.t
    let others := S.liveSplits.filter (· != k.x)
    ∃ t, exec (.exit c) s = .next t ∧
      ((∃ y ∈ others, (s.split k.g k.t y).st ≠ .join) →
        (t.split k.g k.t k.x).st = .exited ∧ (∀ y, y ≠ k.x → t.split k.g k.t y = s.split k.g k.t y) ∧
          (∀ e, S.eret = some e → e.split = k.x → (t.strand k.g k.t).eret = none) ∧ (t.strand k.g k.t).counters = S.counters ∧
          (t.strand k.g k.t).v = S.v ∧ (t.strand k.g k.t).exited = S.exited ∧ SameMemory s t) ∧
      (S.liveSplits = [k.x] →
        (t.strand k.g k.t).exited = true ∧ (t.strand k.g k.t).graph = [] ∧ (t.split k.g k.t k.x).st = .exited ∧
          (t.strand k.g k.t).posted = [] ∧
          (∀ a, Unposted s k a → t.mem.read a = s.mem.read a) ∧
          ∀ a pre m post, S.posted = pre ++ m :: post → m.covers a = true → (∀ n ∈ post, n.covers a = false) →
            t.mem.read a = m.bytes.getD (a - m.addr) 0) ∧
      (∀ lo l, others = lo :: l → S.liveSplits.Nodup → (∀ y ∈ others, (s.split k.g k.t y).st = .join) → S.pendingWrites s.cycle = false →
        (∀ y ∈ others, (s.split k.g k.t y).pc = (s.split k.g k.t lo).pc) → S.disp = none →
          SplitAt t k.g k.t lo .run (others.foldl (fun m y => m ||| (s.split k.g k.t y).mask) 0) ((s.split k.g k.t lo).pc + 8#16) ∧
          (t.split k.g k.t k.x).st = .exited ∧ (t.strand k.g k.t).counters = S.counters ∧ SameMemory s t)) ∧
  (∀ c,
    Completes (.join c) (fun s k => ∃ y ∈ (s.strand k.g k.t).liveSplits, y ≠ k.x ∧ (s.split k.g k.t y).st ≠ .join)
      (fun s t k => (t.split k.g k.t k.x).st = .join ∧ (t.split k.g k.t k.x).pc = k.pc ∧ SameMemory s t) ∧
    Completes (.join c)
      (fun s k => (∀ y ∈ (s.strand k.g k.t).liveSplits, y ≠ k.x → (s.split k.g k.t y).st = .join ∧ (s.split k.g k.t y).pc = k.pc) ∧
        (s.strand k.g k.t).pendingWrites s.cycle = false ∧ (s.strand k.g k.t).disp = none)
      (fun s t k => ∀ lo r, (s.strand k.g k.t).liveSplits = lo :: r → (t.split k.g k.t lo).st = .run ∧ (t.split k.g k.t lo).pc = k.pc + 8#16 ∧
        (t.split k.g k.t lo).mask = (s.strand k.g k.t).liveSplits.foldl (fun m y => m ||| (s.split k.g k.t y).mask) 0) ∧
    Completes (.exit c) (fun s k => ∃ y ∈ (s.strand k.g k.t).liveSplits, y ≠ k.x ∧ (s.split k.g k.t y).st ≠ .join)
      (fun s t k => (t.split k.g k.t k.x).st = .exited ∧ (t.strand k.g k.t).exited = (s.strand k.g k.t).exited ∧ SameMemory s t) ∧
    Completes (.exit c) (fun s k => (s.strand k.g k.t).liveSplits = [k.x])
      (fun _ t k => (t.split k.g k.t k.x).st = .exited ∧ (t.strand k.g k.t).exited = true ∧ (t.strand k.g k.t).graph = []))

/-- FLASH outside handler mode, with the strand converged and no node in its graph buffer, sets its flash state (its PC, the union of its runs, the
recipe index, and the copies whose token is not yet written) and ends the committed state; otherwise it raises FLASHSTATE (R93, R95, R309). -/
def Obligations.FlashSetsItsState : Prop :=
  ∀ c f s k, Issues (.flash c f) s k →
    let S := s.strand k.g k.t
    let runs := fun (r : Run) n => r.first.toNat ≤ n ∧ n < r.first.toNat + r.count.toNat
    (S.eret = none ∧ S.converged = true ∧ S.graph = [] → (s.gang k.g).phase = .running →
      ∃ t F, exec (.flash c f) s = .next t ∧ (t.strand k.g k.t).flash = some F ∧ F.pc = k.pc ∧ F.recipe = f.recipe.toNat ∧
        (∀ n, n ∈ F.vset ↔ runs f.v0 n ∨ runs f.v1 n) ∧ (∀ n, n ∈ F.sset ↔ runs f.s0 n ∨ runs f.s1 n) ∧ F.copies = s.openCopies k.g k.t ∧
        t = s.setStrand k.g k.t (fun _ => t.strand k.g k.t) ∧
        t.strand k.g k.t = { S with flash := some F, committed := false, recipe := none,
                                    splits := S.splits.modify k.x fun X => { X with pc := k.next, readyAt := s.cycle + 1 + k.stall, yld := k.yld } } ∧
        SameMemory s t) ∧
    (¬(S.eret = none ∧ S.converged = true ∧ S.graph = []) →
      ∃ t, exec (.flash c f) s = .next t ∧ Raises s t (.flash c f) { cause := cFLASHSTATE })

/-- A SPAWN deposits a thread in the bin of its entry, or in the lowest unused one of the eight, where the bin has fewer than 32; it waits at a full bin, and with no
bin free makes the oldest due (R84). A SPAWN whose threads all find a bin completes, and its strand is committed (R95, R310): so it does whenever its entries are good, its core has no
bin in use and its lanes name at most eight entries, and each lane's thread is then in the bin of its entry. -/
def Obligations.SpawnDeposits : Prop :=
  (∀ (s : State) (k : Ctx) (th : Thread) n b,
    (s.core k.G.core).bins.find? (fun q => q.2.gang == k.g && q.2.entry == th.idx) = some (n, b) →
      (b.threads.length < 32 → ∃ t, s.deposit k th = (some t, s) ∧ t = s.setCore k.G.core (fun _ => t.core k.G.core) ∧
        ((t.core k.G.core).bins.get? n).map Bin.threads = some (b.threads ++ [th.args])) ∧
      (32 ≤ b.threads.length → s.deposit k th = (none, s))) ∧
  (∀ (s : State) (k : Ctx) (th : Thread) n,
    (s.core k.G.core).bins.find? (fun q => q.2.gang == k.g && q.2.entry == th.idx) = none → n < 8 →
      (s.core k.G.core).bins.get? n = none → (∀ m, m < n → ((s.core k.G.core).bins.get? m).isSome) →
      ∃ t b, s.deposit k th = (some t, s) ∧ t = s.setCore k.G.core (fun _ => t.core k.G.core) ∧ (t.core k.G.core).bins.get? n = some b ∧
        b.gang = k.g ∧ b.entry = th.idx ∧ b.target = th.target ∧ b.vblk = th.vblk ∧ b.threads = [th.args] ∧ b.first = s.cycle) ∧
  (∀ (s : State) (k : Ctx) (th : Thread),
    let bins := (s.core k.G.core).bins
    bins.find? (fun q => q.2.gang == k.g && q.2.entry == th.idx) = none → (∀ m, m < 8 → (bins.get? m).isSome) →
      ∃ q ∈ bins, (∀ r ∈ bins, q.2.first ≤ r.2.first) ∧
        s.deposit k th = (none, s.setCore k.G.core fun C => { C with bins := C.bins.modify q.1 fun b => { b with due := true } })) ∧
  (∀ c a b s k, Issues (.spawn c a b) s k → (s.split k.g k.t k.x).todo = none →
    (k.act = 0 → ∃ t, exec (.spawn c a b) s = .next t ∧ Goes (s.commit k.g k.t) t k k.next) ∧
    (∀ es accs s2, k.act ≠ 0 → k.dispatch true a s = .ok (es, accs) →
      let ths := es.map fun e => ({ idx := e.2.1, target := e.2.2.target, vblk := e.2.2.vblk,
                                    args := [k.S.lane b.toNat e.1, k.S.lane (b.toNat + 1) e.1, k.S.lane (b.toNat + 2) e.1, k.S.lane (b.toNat + 3) e.1] } : Thread)
      State.deposits k ths ((tableRead s k accs).commit k.g k.t) = ([], s2) →
      ∃ t, exec (.spawn c a b) s = .next t ∧ (t.split k.g k.t k.x).pc = k.next ∧ (t.strand k.g k.t).committed = true ∧
        (∀ n, ((t.core k.G.core).bins.get? n).map Bin.threads = ((s2.core k.G.core).bins.get? n).map Bin.threads) ∧ SameMemory (tableRead s k accs) t)) ∧
  (∀ c a b accs,
    Completes (.spawn c a b)
      (fun s k => (s.split k.g k.t k.x).todo = none ∧ EntriesGood k true a s accs ∧ (s.core k.G.core).bins = [] ∧
        (distinct (k.lanes.map fun n => (k.v a n).toNat)).length ≤ 8)
      (fun s t k => (t.split k.g k.t k.x).pc = k.next ∧ (t.strand k.g k.t).committed = true ∧ SameMemory (tableRead s k accs) t ∧
        ∀ n ∈ k.lanes, ∃ q ∈ (t.core k.G.core).bins, q.2.gang = k.g ∧ q.2.entry = (k.v a n).toNat ∧
          [k.S.lane b.toNat n, k.S.lane (b.toNat + 1) n, k.S.lane (b.toNat + 2) n, k.S.lane (b.toNat + 3) n] ∈ q.2.threads))

/-! ## Vector instructions (R321-R332, R340) -/

/-- The typed integer instructions of R325 and R326 write, in the active lanes, the result that their row of the table gives, wrapped or clamped to the type, and
nothing else (R321). The bitwise, shift, count, bit-field, select, compare and move instructions, and VSHUF, VLANE and VRNG, write what R325 to R330 and R340 give: VSRA fills with
copies of the top bit, VSEL reads a 32-bit condition, VCMP gives a 32-bit 1 or 0, VBFI keeps the destination's other bits. -/
def Obligations.VectorIntegerResults : Prop :=
  (∀ c ty d a b x,
    let v := fun (k : Ctx) (f : Src) n => intOf (tySigned ty) (tyBits ty) (k.val ty f n)
    let w := tyBits ty
    WritesVector (.vadd c ty false d a b) ty d (fun k n => ((v k a n + v k b n) % 2 ^ w).toNat) ∧
    WritesVector (.vadd c ty true d a b) ty d (fun k n => clampW (tySigned ty) w (v k a n + v k b n)) ∧
    WritesVector (.vsub c ty false d a b) ty d (fun k n => ((v k a n - v k b n) % 2 ^ w).toNat) ∧
    WritesVector (.vsub c ty true d a b) ty d (fun k n => clampW (tySigned ty) w (v k a n - v k b n)) ∧
    WritesVector (.vmul c ty d a b) ty d (fun k n => k.val ty a n * k.val ty b n % 2 ^ w) ∧
    WritesVector (.vmulh c ty d a b) ty d (fun k n => (v k a n * v k b n / 2 ^ w % 2 ^ w).toNat) ∧
    WritesVector (.vmad c ty d a b x) ty d (fun k n => (k.val ty a n * k.val ty b n + k.val ty x n) % 2 ^ w) ∧
    WritesVector (.vmin c ty d a b) ty d (fun k n => if v k a n < v k b n then k.val ty a n else k.val ty b n) ∧
    WritesVector (.vmax c ty d a b) ty d (fun k n => if v k a n < v k b n then k.val ty b n else k.val ty a n) ∧
    WritesVector (.vabs c ty false d a) ty d (fun k n => ((v k a n).natAbs : Nat) % 2 ^ w) ∧
    WritesVector (.vabs c ty true d a) ty d (fun k n => clampW (tySigned ty) w (v k a n).natAbs) ∧
    (∀ imm, WritesVector (.vaddi c ty d a imm) .n32 d (fun k n => (k.v a n + imm).toNat))) ∧
  (∀ c ty d a b x pos len imm,
    let w := tyBits ty
    WritesVector (.vand c ty d a b) ty d (fun k n => k.val ty a n &&& k.val ty b n) ∧
    WritesVector (.vor c ty d a b) ty d (fun k n => k.val ty a n ||| k.val ty b n) ∧
    WritesVector (.vxor c ty d a b) ty d (fun k n => k.val ty a n ^^^ k.val ty b n) ∧
    WritesVector (.vshl c ty d a b) ty d (fun k n => k.val ty a n * 2 ^ (k.val ty b n % w) % 2 ^ w) ∧
    WritesVector (.vshr c ty d a b) ty d (fun k n => k.val ty a n / 2 ^ (k.val ty b n % w)) ∧
    WritesVector (.vsra c ty d a b) ty d (fun k n => (intOf true w (k.val ty a n) / 2 ^ (k.val ty b n % w) % 2 ^ w).toNat) ∧
    WritesVector (.vclz c ty d a) ty d (fun k n => ((List.range w).reverse.takeWhile fun m => !(k.val ty a n).testBit m).length) ∧
    WritesVector (.vpopc c ty d a) ty d (fun k n => ((List.range w).filter fun m => (k.val ty a n).testBit m).length) ∧
    WritesVector (.vsel c ty d a b x) ty d (fun k n => if k.v x n ≠ 0 then k.val ty a n else k.val ty b n) ∧
    (∀ cond, WritesVector (.vcmp c cond ty d a b) .n32 d (fun k n =>
      if condInt cond (intOf (tySigned ty) w (k.val ty a n)) (intOf (tySigned ty) w (k.val ty b n)) then 1 else 0)) ∧
    (1 ≤ len.toNat → pos.toNat + len.toNat ≤ 32 →
      WritesVector (.vbfx c .n32 d a pos len) .n32 d (fun k n => ((k.v a n).extractLsb' pos.toNat len.toNat).toNat) ∧
      WritesVector (.vbfx c .i32 d a pos len) .i32 d (fun k n => (((k.v a n).extractLsb' pos.toNat len.toNat).signExtend 32).toNat) ∧
      WritesVector (.vbfi c d a pos len) .n32 d (fun k n => (BitVec.ofFnLE fun (m : Fin 32) =>
        if pos.toNat ≤ m.val ∧ m.val < pos.toNat + len.toNat then (k.v a n).getLsbD (m.val - pos.toNat)
        else (k.S.lane d.toNat n).getLsbD m.val).toNat)) ∧
    WritesVector (.vmov c false d a) .n32 d (fun k n => (k.v a n).toNat) ∧
    WritesVector (.vmov c true d a) .n64 d (fun k n => (k.p a n).toNat) ∧
    WritesVector (.vmovi c d imm) .n32 d (fun _ _ => imm.toNat) ∧
    WritesVector (.vshuf c false d a b) .n32 d (fun k n => (k.v a ((k.v b n).toNat % 32)).toNat) ∧
    WritesVector (.vshuf c true d a b) .n64 d (fun k n => (k.p a ((k.v b n).toNat % 32)).toNat) ∧
    WritesVector (.vlane c .laneid d) .n32 d (fun _ n => n) ∧
    WritesVector (.vlane c .mask d) .n32 d (fun k _ => k.act.toNat) ∧
    WritesVector (.vlane c .rank d) .n32 d (fun k n => ((List.range n).filter fun m => k.on m).length) ∧
    (∀ r, WritesVector (.vrng c d a r) .n32 d (fun k n => (bangle (k.s r) (k.p a n)).toNat)))

/-- Rounding to FP32, FP64, FP16 or BF16 (R186, R187, R188). A value whose magnitude the format has keeps it, with no flag. One between neighbouring magnitudes takes the nearer, at a tie the one with
even last bit (RNE), the smaller (RZ), the upper or lower value (RU, RD), or the larger where the draw is below the fraction of the way to it (RS), and sets NX, with UF below the largest
subnormal. One above the largest finite magnitude takes that or infinity by its mode, RS as RNE, and sets OF where it is out of range once rounded. An
instruction's mode is the one it names or cr.RMODE.MODE, and its draw is Bangle of cr.SRKEY, its PC and the element's index (R187). -/
def Obligations.RoundingToAFormat : Prop :=
  (∀ (f : FFmt) (mode : Mode) (r : Nat) (neg : Bool) (m : Nat) (e : Int), f ∈ [.f64, .f32, .f16, .bf16] → m ≠ 0 → mode ≤ 4 →
    let x := Machine.Num.fin false m e
    let y := roundTo f mode r (.fin neg m e)
    (∀ c, c ≤ f.maxFin → Machine.Num.cmp x (Machine.Num.decode f c) = 0 → y = { bits := signBit f neg + c, flags := 0 }) ∧
    (∀ c, c < f.maxFin → Machine.Num.cmp (Machine.Num.decode f c) x = -1 → Machine.Num.cmp x (Machine.Num.decode f (c + 1)) = -1 →
      let e0 := min x.exp (min (Machine.Num.decode f c).exp (Machine.Num.decode f (c + 1)).exp)
      let v := x.atExp e0
      let lo := (Machine.Num.decode f c).atExp e0
      let hi := (Machine.Num.decode f (c + 1)).atExp e0
      let up := (mode = 0 ∧ (lo + hi < 2 * v ∨ (2 * v = lo + hi ∧ c % 2 = 1))) ∨ (mode = 2 ∧ neg = false) ∨ (mode = 3 ∧ neg = true) ∨
        (mode = 4 ∧ (r : Int) < (v - lo) * 2 ^ 32 / (hi - lo))
      (up → y.bits = signBit f neg + (c + 1)) ∧ (¬up → y.bits = signBit f neg + c) ∧
        (2 ^ f.fb ≤ c → y.flags = fNX) ∧ (c + 1 < 2 ^ f.fb → y.flags = fUF ||| fNX)) ∧
    (Machine.Num.cmp (Machine.Num.decode f f.maxFin) x = -1 →
      let beyond := Machine.Num.cmp x (.fin false 1 (f.bias + 1)) ≠ -1
      let near := Machine.Num.cmp x (.fin false (2 ^ (f.fb + 2) - 1) ((f.bias : Int) - f.fb - 1)) = -1
      let inf := ((mode = 0 ∨ mode = 4) ∧ ¬near) ∨ (mode = 2 ∧ neg = false) ∨ (mode = 3 ∧ neg = true)
      (inf → y = { bits := signBit f neg + f.infCode, flags := fOF ||| fNX }) ∧
      (¬inf → y.bits = signBit f neg + f.maxFin ∧ (beyond → y.flags = fOF ||| fNX) ∧ (¬beyond → y.flags = fNX)))) ∧
  (∀ (k : Ctx) n,
    k.mode .cr = (k.cr crRMODE).toNat % 8 ∧ k.mode .rne = 0 ∧ k.mode .rz = 1 ∧ k.mode .ru = 2 ∧ k.mode .rd = 3 ∧ k.mode .rs = 4 ∧
      k.draw n = (bangle (k.cr crSRKEY) ((k.pc.zeroExtend 32 : BitVec 32) ++ BitVec.ofNat 32 n)).toNat)

/-- What a lane reads of a vector source (R163, R164): its own lane, lane n + amount modulo 32, one lane for all, lanes exchanged by one bit, groups of lanes
mirrored, or the low half of a scalar of the split's view; a pair has its low half in the even register (R158). -/
def Obligations.CrossbarPatterns : Prop :=
  ∀ (k : Ctx) r n,
    k.v { pat := .same, reg := r } n = k.S.lane r.toNat n ∧
    (∀ m : Fin 32, k.v { pat := .rot m, reg := r } n = k.S.lane r.toNat ((n + m.val) % 32)) ∧
    (∀ m : Fin 32, k.v { pat := .bc m, reg := r } n = k.S.lane r.toNat m.val) ∧
    (∀ m : Fin 5, k.v { pat := .bf m, reg := r } n = k.S.lane r.toNat (n ^^^ 2 ^ m.val)) ∧
    (∀ m : Fin 5, ∀ q j, n = q * 2 ^ (m.val + 1) + j → j < 2 ^ (m.val + 1) →
      k.v { pat := .mir m, reg := r } n = k.S.lane r.toNat (q * 2 ^ (m.val + 1) + (2 ^ (m.val + 1) - 1 - j))) ∧
    k.v { pat := .scalar, reg := r } n = (k.s r).extractLsb' 0 32 ∧ k.p { pat := .scalar, reg := r } n = k.s r ∧
    k.p { pat := .same, reg := r } n = k.S.lane (r.toNat + 1) n ++ k.S.lane r.toNat n

/-- SREDV of an integer type gives the sum modulo 2^w, the bitwise and, or and exclusive or, or the least or greatest, of the active lanes, extended to
64 bits by its type (R320); with no lane active it gives the operation's identity. SREDV of a float type writes the reduction of its active lanes and ORs its flags into cr.FSTAT where none is enabled (R320, R324). VSCAN gives each active lane the reduction of the active lanes up to it, or below it with EXCL (R331); VSEGRED gives it that of its segment, which
begins at the last active lane at or below it whose flag is set, or at the first active lane (R332). -/
def Obligations.ReductionsAndScans : Prop :=
  (∀ c ty d a, ty.isT = true →
    let w := tyBits ty
    let l := fun (k : Ctx) => k.lanes.map fun n => k.val ty a n
    let z := fun (k : Ctx) => k.lanes.map fun n => intOf (tySigned ty) w (k.val ty a n)
    let top : Int := if tySigned ty then 2 ^ (w - 1) - 1 else 2 ^ w - 1
    let bottom : Int := if tySigned ty then -2 ^ (w - 1) else 0
    WritesScalar (.sredv c .add ty d a) d (fun k => widen64 ty ((l k).sum % 2 ^ w)) ∧
    WritesScalar (.sredv c .and ty d a) d (fun k => widen64 ty ((l k).foldl (fun m n => m &&& n) (2 ^ w - 1))) ∧
    WritesScalar (.sredv c .or ty d a) d (fun k => widen64 ty ((l k).foldl (fun m n => m ||| n) 0)) ∧
    WritesScalar (.sredv c .xor ty d a) d (fun k => widen64 ty ((l k).foldl (fun m n => m ^^^ n) 0)) ∧
    WritesScalar (.sredv c .min ty d a) d (fun k => widen64 ty ((z k).foldl min top % 2 ^ w).toNat) ∧
    WritesScalar (.sredv c .max ty d a) d (fun k => widen64 ty ((z k).foldl max bottom % 2 ^ w).toNat)) ∧
  (∀ c op ty d a s k, ty = .f32 ∨ ty = .f64 → Issues (.sredv c op ty d a) s k →
    let r := reduce op ty (k.mode .cr) (k.draw 0) (k.lanes.map fun n => k.val ty a n)
    let X := s.split k.g k.t k.x
    ∃ t, exec (.sredv c op ty d a) s = .next t ∧
      (enabledOf k r.flags = 0 →
        t = s.setSplit k.g k.t k.x (fun _ => t.split k.g k.t k.x) ∧ (t.split k.g k.t k.x).pc = k.next ∧
          (t.split k.g k.t k.x).view.scalar d.toNat = (if d = 0 then 0 else BitVec.ofNat 64 (r.bits % 2 ^ tyBits ty)) ∧
          (∀ n, n ≠ d.toNat → (t.split k.g k.t k.x).view.scalar n = X.view.scalar n) ∧
          (t.split k.g k.t k.x).view.fstat = X.view.fstat ||| r.flags ∧
          (∀ n, n ≠ crFSTAT → (t.split k.g k.t k.x).view.ctl n = X.view.ctl n) ∧ SameMemory s t) ∧
      (enabledOf k r.flags ≠ 0 → ∃ u : State, (d ≠ 0 → (u.split k.g k.t k.x).view.scalar d.toNat = BitVec.ofNat 64 (r.bits % 2 ^ tyBits ty)) ∧
        (u.split k.g k.t k.x).view.fstat = X.view.fstat ||| r.flags ∧ SameMemory s u ∧
        t = u.raise k.g k.t k.x k.pc k.next { cause := cARITH, val := d.zeroExtend 64 })) ∧
  (∀ c op ty d a b,
    WritesFloat (.vscan c op ty false d a) ty d (fun k n =>
      reduce op ty (k.mode .cr) (k.draw n) ((k.lanes.filter fun m => decide (m ≤ n)).map fun m => k.val ty a m)) ∧
    WritesFloat (.vscan c op ty true d a) ty d (fun k n =>
      reduce op ty (k.mode .cr) (k.draw n) ((k.lanes.filter fun m => decide (m < n)).map fun m => k.val ty a m)) ∧
    WritesFloat (.vsegred c op ty d a b) ty d (fun k n =>
      let start := fun m => ((k.lanes.filter fun j => decide (j ≤ m) && k.v b j != 0).getLast?).getD (k.lanes.headD 0)
      reduce op ty (k.mode .cr) (k.draw (start n)) ((k.lanes.filter fun m => start m == start n).map fun m => k.val ty a m)))

/-! ## Floating point (R324, R333-R339) -/

/-- The FP32 and FP64 arithmetic instructions write, lane by lane, the rounded operation on what their source lanes denote, under the rounding mode and draw they
select (R186, R187), with its flags (R333, R334, R339): two operands. The same for one operand, fused multiply-add and conversions: VFRCP, VFRSQ, VFEXP2 and VFLOG2 take no rounding mode (R335), a conversion takes NOSAT from
cr.RMODE (R338), and VFCLS sets no flag (R337). -/
def Obligations.FloatResults : Prop :=
  (∀ c r d a b,
    WritesFloat (.vfadd c r d a b) .f32 d (fun k n => fAdd .f32 (k.mode r) (k.draw n) (k.f .f32 a n) (k.f .f32 b n)) ∧
    WritesFloat (.vfsub c r d a b) .f32 d (fun k n => fSub .f32 (k.mode r) (k.draw n) (k.f .f32 a n) (k.f .f32 b n)) ∧
    WritesFloat (.vfmul c r d a b) .f32 d (fun k n => fMul .f32 (k.mode r) (k.draw n) (k.f .f32 a n) (k.f .f32 b n)) ∧
    WritesFloat (.vfdiv c r d a b) .f32 d (fun k n => fDiv .f32 (k.mode r) (k.draw n) (k.f .f32 a n) (k.f .f32 b n)) ∧
    WritesFloat (.vdadd c r d a b) .f64 d (fun k n => fAdd .f64 (k.mode r) (k.draw n) (k.f .f64 a n) (k.f .f64 b n)) ∧
    WritesFloat (.vdsub c r d a b) .f64 d (fun k n => fSub .f64 (k.mode r) (k.draw n) (k.f .f64 a n) (k.f .f64 b n)) ∧
    WritesFloat (.vdmul c r d a b) .f64 d (fun k n => fMul .f64 (k.mode r) (k.draw n) (k.f .f64 a n) (k.f .f64 b n)) ∧
    WritesFloat (.vfmin c d a b) .f32 d (fun k n => extRes false (k.f .f32 a n) (k.f .f32 b n)) ∧
    WritesFloat (.vfmax c d a b) .f32 d (fun k n => extRes true (k.f .f32 a n) (k.f .f32 b n)) ∧
    (∀ cond, WritesFloat (.vfcmp c cond d a b) .n32 d (fun k n =>
      { bits := if (fCompare cond (k.f .f32 a n) (k.f .f32 b n)).1 then 1 else 0, flags := (fCompare cond (k.f .f32 a n) (k.f .f32 b n)).2 })) ∧
    (∀ cond, WritesFloat (.vdcmp c cond d a b) .n32 d (fun k n =>
      { bits := if (fCompare cond (k.f .f64 a n) (k.f .f64 b n)).1 then 1 else 0, flags := (fCompare cond (k.f .f64 a n) (k.f .f64 b n)).2 }))) ∧
  (∀ c r d a b x negp negc dty sty,
    WritesFloat (.vffma c r negp negc d a b x) .f32 d (fun k n =>
      fFma .f32 (k.mode r) (k.draw n) negp negc (k.f .f32 a n) (k.f .f32 b n) (k.f .f32 x n)) ∧
    WritesFloat (.vdfma c r negp negc d a b x) .f64 d (fun k n =>
      fFma .f64 (k.mode r) (k.draw n) negp negc (k.f .f64 a n) (k.f .f64 b n) (k.f .f64 x n)) ∧
    WritesFloat (.vfsqrt c r d a) .f32 d (fun k n => fSqrt .f32 (k.mode r) (k.draw n) (k.f .f32 a n)) ∧
    WritesFloat (.vfrnd c r d a) .f32 d (fun k n => fRnd (k.mode r) (k.draw n) (k.f .f32 a n)) ∧
    WritesFloat (.vfrcp c d a) .f32 d (fun k n => fRcp (k.f .f32 a n)) ∧
    WritesFloat (.vfrsq c d a) .f32 d (fun k n => fRsq (k.f .f32 a n)) ∧
    WritesFloat (.vfexp2 c d a) .f32 d (fun k n => fExp2 (k.f .f32 a n)) ∧
    WritesFloat (.vflog2 c d a) .f32 d (fun k n => fLog2 (k.f .f32 a n)) ∧
    WritesFloat (.vfcvt c r dty sty d a) dty d (fun k n =>
      convertTy dty ((k.cr crRMODE).getLsbD 4) (k.mode r) (k.draw n) (k.f sty a n)) ∧
    WritesFloat (.vdcvt c r dty sty d a) dty d (fun k n =>
      convertTy dty ((k.cr crRMODE).getLsbD 4) (k.mode r) (k.draw n) (k.f sty a n)) ∧
    WritesVector (.vfcls c d a) .n32 d (fun k n => fClass (k.v a n).toNat))

/-! ## Memory (R341-R350) -/

/-- VLD, VLDS and VLDX check every lane's address (base plus lane times width, base plus lane times stride, base plus index; R346), then trap, wait or land. SLD checks its address, then traps, waits, or enters the landing buffer with the little-endian number at its address, extended to 64 bits by its type (R345). VLDT
does the same for 32 registers, lane r of register d + c receiving column c of row r (R348). -/
def Obligations.Loads : Prop :=
  (∀ c ty m d a off,
    LoadsVector (.vld c ty m d a off) ty m .load d (fun k s => k.unitAddrs s m.space ty (k.s a + off.signExtend 64)) ∧
    (∀ x, LoadsVector (.vlds c ty m d a x off) ty m (.scattered false) d
      (fun k _ => k.strideAddrs (k.s a + off.signExtend 64) (k.s x))) ∧
    (∀ x, LoadsVector (.vldx c ty m d a x off) ty m (.scattered false) d
      (fun k _ => (k.lanes.map fun n => (n, k.s a + off.signExtend 64 + (k.v x n).signExtend 64), unstrided)))) ∧
  (∀ c ty m d a off s k,
    (Issues (.sld c ty m d a off) s k →
      let chk := s.checkAll k.G m.space ty .scalar false true (tyBytes ty) unstrided [(0, k.s a + off.signExtend 64)]
      (∀ tr, chk = .error tr → ∃ t, exec (.sld c ty m d a off) s = .next t ∧ Raises s t (.sld c ty m d a off) tr) ∧
      (∀ x, chk = .ok [x] →
        let ready := s.canLoad k.g k.t 1 && !(k.bankWaits s [x])
        (ready = false → exec (.sld c ty m d a off) s = .next s) ∧
        (ready = true → ∃ t L, exec (.sld c ty m d a off) s = .next t ∧ LandingAdded s t k L ∧ L.dest = .s d.toNat ∧
          (∀ a, Unposted s k a → t.mem.read a = s.mem.read a) ∧
          (m.space ≠ .bk → AllPerformed s k → L.sval = widen64 ty (s.leNat x.pa (tyBytes ty)) ∧ L.flags = 0)))) ∧
    (∀ space x, Issues (.vldt c ty space d a x off) s k →
      let w := (s.elemWidth k.G.part space ty (k.s a + off.signExtend 64)).1
      let cells := k.lanes.flatMap fun r => (List.range 32).map fun j => (r, j)
      let chk := s.checkAll k.G space ty (.scattered false) false true (tyBytes ty)
        (strided (k.s x)) (cells.map fun q => (q.1, k.s a + off.signExtend 64 + BitVec.ofNat 64 q.1 * k.s x + BitVec.ofNat 64 (q.2 * w)))
      (∀ tr, chk = .error tr → ∃ t, exec (.vldt c ty space d a x off) s = .next t ∧ Raises s t (.vldt c ty space d a x off) tr) ∧
      (∀ accs, chk = .ok accs →
        let ready := s.canLoad k.g k.t 32 && !(k.bankWaits s accs)
        (ready = false → exec (.vldt c ty space d a x off) s = .next s) ∧
        (ready = true → ∃ t L, exec (.vldt c ty space d a x off) s = .next t ∧ LandingAdded s t k L ∧ L.dest = .v ∧
          L.regs = (List.range 32).map (d.toNat + ·) ∧ (∀ a, Unposted s k a → t.mem.read a = s.mem.read a) ∧
          (space ≠ .bk → AllPerformed s k → Raw_ accs →
            L.vval = (cells.zip accs).map fun q =>
              ((d.toNat + q.1.2) * 32 + q.1.1, BitVec.ofNat 32 (widen32 ty (s.leNat q.2.pa (tyBytes ty)))))))))

/-- A landing entry is written whole: its registers, their scoreboard bits and poison marks, its flags, and the count of loads (R165, R166); an entry whose strand
has gone is discarded (R86). No byte of memory changes. -/
def Obligations.LoadReturns : Prop :=
  ∀ (s : State) L, (s.core s.cur.g).landing.find? (fun l => l.id == s.cur.t) = some L → L.wait = none →
    let S := s.strand L.gang L.strand
    ∃ t, exec .loadReturn s = .next t ∧ SameMemory s t ∧
      (∀ l, l ∈ (t.core s.cur.g).landing ↔ l ∈ (s.core s.cur.g).landing ∧ l.id ≠ L.id) ∧
      ((S.gen ≠ L.gen ∨ S.freed = true) → t.gangs = s.gangs) ∧
      (S.gen = L.gen → S.freed = false → (s.gangs.get? L.gang).isSome → ((s.gang L.gang).strands.get? L.strand).isSome →
        (t.strand L.gang L.strand).olc = S.olc - 1 ∧
        ((S.splits.get? L.split).isSome →
          (t.split L.gang L.strand L.split).view.fstat = (s.split L.gang L.strand L.split).view.fstat ||| L.flags) ∧
        (L.dest = .v → (t.strand L.gang L.strand).v = L.vval.foldl (fun a q => a.set q.1 q.2) S.v ∧
          (∀ r ∈ L.regs, r ∉ (t.strand L.gang L.strand).vbusy ∧ (t.strand L.gang L.strand).vmarks.get? r = L.mark) ∧
          (∀ r, r ∉ L.regs → (r ∈ (t.strand L.gang L.strand).vbusy ↔ r ∈ S.vbusy))) ∧
        (∀ r, L.dest = .s r → (t.strand L.gang L.strand).v = S.v ∧
          (r ≠ 0 → (S.splits.get? L.split).isSome → (t.split L.gang L.strand L.split).view.scalar r = L.sval ∧
            r ∉ (t.split L.gang L.strand L.split).view.busy ∧ (t.split L.gang L.strand L.split).view.marks.get? r = L.mark)))

/-- VST, VSTS and VSTX check every lane's address, then trap, wait, or store (R346, R347). SST checks its address, then traps, waits, or stores the low bytes of its source at it, least significant first; no other byte changes but merged stores that a
release performs (R344, R345). LREC stores lanes 0 to 15 of its source at its record in the gang's scratchpad, or raises BOUNDS (R237, R365). -/
def Obligations.Stores : Prop :=
  (∀ c ty m a b off,
    StoresVector (.vst c ty m a b off) ty m .store b (fun k s => k.unitAddrs s m.space ty (k.s a + off.signExtend 64)) ∧
    (∀ x, StoresVector (.vsts c ty m a b x off) ty m (.scattered true) b
      (fun k _ => k.strideAddrs (k.s a + off.signExtend 64) (k.s x))) ∧
    (∀ x, StoresVector (.vstx c ty m a b x off) ty m (.scattered true) b
      (fun k _ => (k.lanes.map fun n => (n, k.s a + off.signExtend 64 + (k.v x n).signExtend 64), unstrided)))) ∧
  (∀ c s k,
    (∀ ty m a b off, Issues (.sst c ty m a b off) s k →
      let chk := s.checkAll k.G m.space ty .scalar true false (tyBytes ty) unstrided [(0, k.s a + off.signExtend 64)]
      (∀ tr, chk = .error tr → ∃ t, exec (.sst c ty m a b off) s = .next t ∧ Raises s t (.sst c ty m a b off) tr) ∧
      (∀ x, chk = .ok [x] →
        let waits := k.bankWaits s [x] || s.captureHolds k.G.part [x]
        (waits = true → ∃ t, exec (.sst c ty m a b off) s = .next t ∧ t.split k.g k.t k.x = s.split k.g k.t k.x ∧ SameMemory s t) ∧
        (waits = false → ∃ t, exec (.sst c ty m a b off) s = .next t ∧
          let ws := [(x.pa, (List.range (tyBytes ty)).map fun n => (k.s b).extractLsb' (8 * n) 8)]
          StoredBytes s t k ws ∧ (AtOnce [x] → Stored ws t.mem.read ∧ (∀ l, x.leaf = some l → (t.strand k.g k.t).committed = true)) ∧
          SameRegisters s t k ∧ (t.split k.g k.t k.x).pc = k.next))) ∧
    (∀ a r, Issues (.lrec c a r) s k →
      let pa := spAddr (s.gang k.g).core ((s.gang k.g).spUnit * 1024 + 64 * r.toNat)
      (64 * r.toNat + 64 ≤ (s.gang k.g).lrec.spad → ∃ t, exec (.lrec c a r) s = .next t ∧
        let ws := [(pa, (List.range 16).flatMap fun n => (List.range 4).map fun j => (k.v a n).extractLsb' (8 * j) 8)]
        StoredBytes s t k ws ∧ Stored ws t.mem.read ∧
        SameRegisters s t k ∧ (t.split k.g k.t k.x).pc = k.next) ∧
      ((s.gang k.g).lrec.spad < 64 * r.toNat + 64 → ∃ t, exec (.lrec c a r) s = .next t ∧
        Raises s t (.lrec c a r) { cause := cBOUNDS, addr := BitVec.ofNat 64 (64 * r.toNat) })))

/-- A store to a write-combining page waits to be performed, and the stores of a 64-byte line are performed when they fill it (R122); its split reads its bytes, and no other byte differently. A store that
does not wait is performed after the earlier ones that it overlaps (R245); those to device and strongly ordered pages, banks and scratchpads do not (that one to a normal page may is log entry 7's choice). FENCE performs every store of the
split's program, and FENCE.ms waits for the strand's bank commands first and empties the bank read buffer (R138, R354); CFLUSH performs those merged in its line on a write-combining page, traps
where its address does not translate, and does nothing elsewhere (R350). FENCE completes unless it is FENCE.ms and a bank command of its strand is open; CFLUSH completes
wherever its address translates for a read. -/
def Obligations.MergedStores : Prop :=
  (∀ (s : State) g n x mtype a (bytes : List Byte), (s.gangs.get? g).isSome → ((s.gang g).strands.get? n).isSome →
    let S := s.strand g n
    let t := s.storeAt g n x mtype a bytes
    let R := t.strand g n
    (∀ i b, bytes[i]? = some b → t.readByte g n x false (a + i) = b) ∧
    (∀ y, ¬(a ≤ y ∧ y < a + bytes.length) → (∀ m ∈ S.posted, m.covers y = false) → t.readByte g n x false y = s.readByte g n x false y) ∧
    (mtype = 1 → SameMemory s t ∧ R.posted.getLast? = some { addr := a, bytes := bytes, seen := [x], comb := true } ∧
      ∀ y, ¬(a ≤ y ∧ y < a + bytes.length) → R.sees x y = S.sees x y) ∧
    (s.posts mtype a = false → (∀ i b, bytes[i]? = some b → t.mem.read (a + i) = b) ∧
      (∀ m ∈ S.posted, x ∈ m.seen → m.meets a bytes.length = true → m ∈ (dueStores (fun m => m.seen.contains x && m.meets a bytes.length) S.posted).1) ∧
      R.posted = (dueStores (fun m => m.seen.contains x && m.meets a bytes.length) S.posted).2) ∧
    (2 ≤ mtype ∨ (mtype = 0 ∧ bankBase ≤ a) → s.posts mtype a = false)) ∧
  (∀ (s : State) g n line, (s.gangs.get? g).isSome → ((s.gang g).strands.get? n).isSome →
    let S := s.strand g n
    let u := s.drainFull g n [line]
    let comb := fun (m : Posted) => m.comb && m.meets line 64
    let full := ∀ i, i < 64 → ∃ m ∈ S.posted, m.comb = true ∧ m.covers (line + i) = true
    (¬full → u = s) ∧
      (full → PerformedStores s u (dueStores comb S.posted).1 ∧ (u.strand g n).posted = (dueStores comb S.posted).2 ∧
        ∀ m ∈ (u.strand g n).posted, comb m = false)) ∧
  (∀ c sc s k, Issues (.fence c sc) s k →
    let busy := ∃ C ∈ s.cores, ∃ w ∈ C.2.bank, w.gang = k.g ∧
      (w.strand = k.t ∨ C.1 ≠ (s.gang k.g).core ∨ w.gen ≠ (s.strand k.g w.strand).gen)
    (sc = .ms → busy → exec (.fence c sc) s = .next s) ∧
    ((sc ≠ .ms ∨ ¬busy) → ∃ t, exec (.fence c sc) s = .next t ∧ OwnPerformed s t k ∧ (∀ m ∈ (t.strand k.g k.t).posted, k.x ∉ m.seen) ∧
      SameRegisters s t k ∧ (t.split k.g k.t k.x).pc = k.next ∧ (sc = .ms → (t.core k.G.core).rbuf = []))) ∧
  (∀ c a off s k, Issues (.cflush c a off) s k →
    let va := k.s a + off.signExtend 64
    (∀ f, s.flushLeaf k.G.part va = .error f →
      ∃ t, exec (.cflush c a off) s = .next t ∧ Raises s t (.cflush c a off) { cause := f.cause, detail := f.detail, addr := va }) ∧
    (∀ l, s.flushLeaf k.G.part va = .ok l →
      ∃ t, exec (.cflush c a off) s = .next t ∧ SameRegisters s t k ∧ (t.split k.g k.t k.x).pc = k.next ∧
        (l.mtype ≠ 1 → SameMemory s t) ∧ (l.mtype = 1 → Performs s t k fun m => m.comb && m.meets (lineOf l.pa) 64))) ∧
  (∀ c sc a off,
    Completes (.fence c sc) (fun s k => sc ≠ .ms ∨ ∀ C ∈ s.cores, ∀ w ∈ C.2.bank, w.gang ≠ k.g)
      (fun s t k => OwnPerformed s t k ∧ SameRegisters s t k ∧ (t.split k.g k.t k.x).pc = k.next) ∧
    Completes (.cflush c a off) (fun s k => ∃ l, s.flushLeaf k.G.part (k.s a + off.signExtend 64) = .ok l)
      (fun s t k => SameRegisters s t k ∧ (t.split k.g k.t k.x).pc = k.next))

/-- Where an access of a strand falls (R113-R115, R121). An offset in the scratchpad, cluster or bank space that is no multiple of the element size raises ALIGN, and one
outside the space BOUNDS; a scratchpad offset lies in the gang's own allocation. In the global space an address that is misaligned for
its page (the instruction's width on a raw page, the elements' on a formatted one, R126) raises ALIGN; where its page gives no width, it raises it before a translation fault. The page-table walk (R117, R121): a virtual address of 2^57 or more raises TRANSLATE 0x01, and a partition whose PTBASE is not valid TRANSLATE 0x02; a table outside
the partition's own HBM raises TRANSLATE 0x03; an entry that is not valid raises 0x02, or 0x04 where it is marked not present; a malformed one raises 0x03; a leaf ends the walk, with its
level's page size. -/
def Obligations.AddressChecksAndWalk : Prop :=
  (∀ (s : State) G who wr rd w a,
    (∀ space, space ≠ .g → a.toNat % w ≠ 0 → s.locate G space who wr rd false w a = .error { cause := cALIGN, sub := 0, level := 0 }) ∧
    (a.toNat % w = 0 → a.toNat + w ≤ G.lrec.spad →
      s.locate G .sp who wr rd false w a = .ok (spAddr G.core (G.spUnit * 1024 + a.toNat), none)) ∧
    (a.toNat % w = 0 → G.lrec.spad < a.toNat + w → s.locate G .sp who wr rd false w a = .error { cause := cBOUNDS, sub := 0, level := 0 }) ∧
    (a.toNat % w = 0 → (s.window G).2 < a.toNat + w → s.locate G .bk who wr rd false w a = .error { cause := cBOUNDS, sub := 0, level := 0 }) ∧
    (a.toNat % w = 0 → 2 ^ 23 ≤ a.toNat → s.locate G .cl who wr rd false w a = .error { cause := cBOUNDS, sub := 0, level := 0 }) ∧
    (a.toNat % w ≠ 0 → (∀ l, s.translate G.part a.toNat = .ok l → l.fmt = 0) →
      s.locate G .g who wr rd false w a = .error { cause := cALIGN, sub := 0, level := 0 }) ∧
    (∀ loose l, s.translate G.part a.toNat = .ok l → l.fmt ≠ 0 → a.toNat % pageBytesOf l.fmt ≠ 0 →
      s.locate G .g who wr rd loose w a = .error { cause := cALIGN, sub := 0, level := 0 }) ∧
    (a.toNat % w = 0 → ∀ f, s.translate G.part a.toNat = .error f → s.locate G .g who wr rd false w a = .error f)) ∧
  ((∀ (s : State) p va, 2 ^ 57 ≤ va → s.walk p va = .error { cause := cTRANSLATE, sub := 1, level := 0 }) ∧
  (∀ (s : State) p va, va < 2 ^ 57 → (s.part p).ptbase.getLsbD 0 = false → s.walk p va = .error { cause := cTRANSLATE, sub := 2, level := 0 }) ∧
  (∀ m settings va n lv tab, hbmOwned settings tab (tableBytes lv) = false →
    walkFrom m settings va (n + 1) lv tab = .error { cause := cTRANSLATE, sub := 3, level := lv }) ∧
  (∀ m settings va n lv tab, hbmOwned settings tab (tableBytes lv) = true →
    let e := ofLe (m.readN (tab + 16 * levelIndex lv va) 16)
    (e.testBit 0 = false → walkFrom m settings va (n + 1) lv tab =
      .error { cause := cTRANSLATE, sub := if e.testBit 1 then 4 else 2, level := lv }) ∧
    (e.testBit 0 = true → malformed lv e = true → walkFrom m settings va (n + 1) lv tab = .error { cause := cTRANSLATE, sub := 3, level := lv }) ∧
    (e.testBit 0 = true → malformed lv e = false → e.testBit 2 = true →
      walkFrom m settings va (n + 1) lv tab = .ok { pte := e, bits := levelBits lv, slot := tab + 16 * levelIndex lv va, va := va }) ∧
    (e.testBit 0 = true → malformed lv e = false → e.testBit 2 = false →
      walkFrom m settings va (n + 1) lv tab = walkFrom m settings va n (lv + 1) (e / 2 ^ 8 % 2 ^ 49 * 256))))

/-! ## Atomics and synchronisation (R351-R357) -/

/-- VATOM, VCAS, SATOM and SCAS (R351, R352). Where the addresses pass their checks and no lane is on a host page that lacks the operation (R123), and the banks, the capture engine
and, for a form with a result, the landing buffer allow it, each element is replaced by the operation's value, and a form with a result lands the old ones. VCAS and SCAS write
only where the old value equals the destination. Where an atomic traps: on what its address check gives, and with HOSTATOM on a host page for an operation that PCI Express lacks, naming those lanes, before any completer could
refuse it (R123, R351). Each of the four completes wherever its addresses pass, no lane needs an operation that host memory lacks, and nothing holds it. -/
def Obligations.Atomics : Prop :=
  (∀ c ty m d a b off s k, ty.isT = true ∨ ty = .f32 ∨ ty = .f64 →
    let w := tyBytes ty
    let waits := fun (need : Option Nat) accs =>
      (match need with | some n => !(s.canLoad k.g k.t n) | none => false) || k.bankWaits s accs || s.captureHolds k.G.part accs
    let vec := fun x => s.checkAll k.G m.space ty .atomic true false w unstrided
      (k.lanes.map fun n => (n, k.s a + off.signExtend 64 + (k.v x n).signExtend 64))
    let one := s.checkAll k.G m.space ty .scalar true false w unstrided [(0, k.s a + off.signExtend 64)]
    AllPerformed s k →
    (∀ op nr bv x accs, Issues (.vatom c op ty m nr d a bv x off) s k → vec x = .ok accs → (op = .add ∨ op = .xchg ∨ hostAccs accs = []) →
      waits (if nr then none else some (destRegs ty d).length) accs = false → Apart w accs →
      ∃ t, exec (.vatom c op ty m nr d a bv x off) s = .next t ∧
        AtomicDone s t k w accs (fun n old => some (intOp op ty old (k.val ty bv n))) ∧
        (nr = false → ∃ L, LandingAdded s t k L ∧ L.dest = .v ∧ L.regs = destRegs ty d ∧
          L.vval = destWords ty.is64 d.toNat (accs.map fun x => (x.lane, s.leNat x.pa w))) ∧
        (nr = true → SameRegisters s t k)) ∧
    (∀ bv x accs, Issues (.vcas c ty m d a bv x off) s k → vec x = .ok accs → waits (some (destRegs ty d).length) accs = false → Apart w accs →
      ∃ t L, exec (.vcas c ty m d a bv x off) s = .next t ∧
        AtomicDone s t k w accs (fun n old => if old = k.val ty { pat := .same, reg := d } n then some (k.val ty bv n) else none) ∧
        LandingAdded s t k L ∧ L.dest = .v ∧ L.regs = destRegs ty d ∧
        L.vval = destWords ty.is64 d.toNat (accs.map fun x => (x.lane, s.leNat x.pa w))) ∧
    (∀ op nr x, Issues (.satom c op ty m nr d a b off) s k → one = .ok [x] → (op = .add ∨ op = .xchg ∨ hostAccs [x] = []) →
      waits (if nr then none else some 1) [x] = false →
      ∃ t, exec (.satom c op ty m nr d a b off) s = .next t ∧
        AtomicDone s t k w [x] (fun _ old => some (intOp op ty old ((k.s b).toNat % 2 ^ tyBits ty))) ∧
        (nr = false → ∃ L, LandingAdded s t k L ∧ L.dest = .s d.toNat ∧ L.sval = widen64 ty (s.leNat x.pa w)) ∧
        (nr = true → SameRegisters s t k)) ∧
    (∀ x, Issues (.scas c ty m d a b off) s k → one = .ok [x] → waits (some 1) [x] = false →
      ∃ t L, exec (.scas c ty m d a b off) s = .next t ∧
        AtomicDone s t k w [x] (fun _ old => if old = (k.s d).toNat % 2 ^ tyBits ty then some ((k.s b).toNat % 2 ^ tyBits ty) else none) ∧
        LandingAdded s t k L ∧ L.dest = .s d.toNat ∧ L.sval = widen64 ty (s.leNat x.pa w))) ∧
  (∀ c op ty m nr d a b bv x off s k,
    let as := k.lanes.map fun n => (n, k.s a + off.signExtend 64 + (k.v x n).signExtend 64)
    let traps := fun (i : Instr) (kind : AccKind) hostOk (as : List (Nat × DWord)) => Issues i s k →
      (∀ tr, s.checkLanes k.G m.space ty kind true false (tyBytes ty) unstrided as = .error tr → ∃ t, exec i s = .next t ∧ Raises s t i tr) ∧
      (∀ accs, s.checkLanes k.G m.space ty kind true false (tyBytes ty) unstrided as = .ok accs →
        (∀ y r, hostOk = false → hostAccs accs = y :: r → ∃ t, exec i s = .next t ∧
          Raises s t i { cause := cHOSTATOM, addr := y.addr, lanes := if kind = .scalar then 0 else setOfLanes ((hostAccs accs).map Acc.lane) }) ∧
        (∀ tr, (hostOk = true ∨ hostAccs accs = []) → refusedBy (decide (kind = .scalar)) accs = some tr → ∃ t, exec i s = .next t ∧ Raises s t i tr))
    traps (.vatom c op ty m nr d a bv x off) .atomic (op == .add || op == .xchg) as ∧ traps (.vcas c ty m d a bv x off) .atomic true as ∧
    traps (.satom c op ty m nr d a b off) .scalar (op == .add || op == .xchg) [(0, k.s a + off.signExtend 64)] ∧
    traps (.scas c ty m d a b off) .scalar true [(0, k.s a + off.signExtend 64)]) ∧
  (∀ c op ty m nr d a b bv x off accs,
    let going := fun (s t : State) (k : Ctx) => (t.split k.g k.t k.x).pc = k.next ∧ (t.strand k.g k.t).committed = true ∧
      (t.strand k.g k.t).v = (s.strand k.g k.t).v
    let vec := fun (s : State) (k : Ctx) (need : Nat) => s.checkAll k.G m.space ty .atomic true false (tyBytes ty) unstrided
        (k.lanes.map fun n => (n, k.s a + off.signExtend 64 + (k.v x n).signExtend 64)) = .ok accs ∧
      s.canLoad k.g k.t need = true ∧ k.bankWaits s accs = false ∧ s.captureHolds k.G.part accs = false
    let one := fun (s : State) (k : Ctx) => s.checkAll k.G m.space ty .scalar true false (tyBytes ty) unstrided [(0, k.s a + off.signExtend 64)] = .ok accs ∧
      s.canLoad k.g k.t 1 = true ∧ k.bankWaits s accs = false ∧ s.captureHolds k.G.part accs = false
    Completes (.vatom c op ty m nr d a bv x off) (fun s k => vec s k 2 ∧ (op = .add ∨ op = .xchg ∨ hostAccs accs = [])) going ∧
    Completes (.vcas c ty m d a bv x off) (fun s k => vec s k 2) going ∧
    Completes (.satom c op ty m nr d a b off) (fun s k => one s k ∧ (op = .add ∨ op = .xchg ∨ hostAccs accs = [])) going ∧
    Completes (.scas c ty m d a b off) one going)

/-- Named barriers (R355, R356). BARS sets COUNT, or raises ILLEGAL 0x0B for a count outside 1 to 64. BARA arrives: it records the phase, and completes the phase with the last arrival,
when the waiters go on. BARW goes on, and commits its strand, where the phase has moved from the one recorded at the split's last arrival, and otherwise waits. BART arrives and then
waits. Other barriers are as they were; an arrival performs the stores of its split's program (R252). BARS completes for every count of 1 to 64, and BARA, BARW and BART whenever they issue. -/
def Obligations.NamedBarriers : Prop :=
  (∀ c n s k,
    let B := (s.gang k.g).bar n.toNat
    let others := fun (t : State) => ∀ m, m ≠ n.toNat → (t.gang k.g).bar m = (s.gang k.g).bar m
    let released := fun (t : State) => ∀ u y, (s.split k.g u y).st = .wait → (s.split k.g u y).wait = some (.bar n.toNat) →
      (t.split k.g u y).st = .run ∧ (t.strand k.g u).committed = true
    let arrived := fun (t : State) => (B.arr + 1 < B.count → (t.gang k.g).bar n.toNat = { B with arr := B.arr + 1, who := B.who ++ [k.t] }) ∧
      (B.count ≤ B.arr + 1 → (t.gang k.g).bar n.toNat = { B with arr := 0, phase := B.phase + 1, who := [] } ∧ released t ∧ (t.strand k.g k.t).committed = true) ∧
      others t ∧ OwnPerformed s t k
    (∀ a, Issues (.bars c a n) s k → ∃ t, exec (.bars c a n) s = .next t ∧
      if 1 ≤ (k.s a).toNat ∧ (k.s a).toNat ≤ 64 then
        (B.arr < (k.s a).toNat → (t.gang k.g).bar n.toNat = { B with count := (k.s a).toNat }) ∧
          ((k.s a).toNat ≤ B.arr → (t.gang k.g).bar n.toNat = { count := (k.s a).toNat, arr := 0, phase := B.phase + 1, who := [] } ∧ released t) ∧
          others t ∧ SameRegisters s t k ∧ (t.split k.g k.t k.x).pc = k.next ∧ SameMemory s t
      else Raises s t (.bars c a n) { cause := cILLEGAL, detail := 0x0B }) ∧
    (Issues (.bara c n) s k → ∃ t, exec (.bara c n) s = .next t ∧ arrived t ∧ (t.split k.g k.t k.x).barP.getD n.toNat 0 = B.phase ∧
      SameRegisters s t k ∧ (t.split k.g k.t k.x).st = .run ∧ (t.split k.g k.t k.x).pc = k.next) ∧
    (Issues (.barw c n) s k → ∃ t, exec (.barw c n) s = .next t ∧ (t.split k.g k.t k.x).pc = k.next ∧ SameRegisters s t k ∧ SameMemory s t ∧
      if (s.split k.g k.t k.x).barP.getD n.toNat B.phase = B.phase then
        (t.split k.g k.t k.x).st = .wait ∧ (t.split k.g k.t k.x).wait = some (.bar n.toNat)
      else (t.split k.g k.t k.x).st = .run ∧ (t.strand k.g k.t).committed = true) ∧
    (Issues (.bart c n) s k → ∃ t, exec (.bart c n) s = .next t ∧ arrived t ∧ SameRegisters s t k ∧ (t.split k.g k.t k.x).pc = k.next ∧
      (t.split k.g k.t k.x).st = if B.arr + 1 < B.count then .wait else .run)) ∧
  (∀ c n a,
    Completes (.bars c a n) (fun _ k => 1 ≤ (k.s a).toNat ∧ (k.s a).toNat ≤ 64) (fun s t k =>
      ((t.gang k.g).bar n.toNat).count = (k.s a).toNat ∧ SameRegisters s t k ∧ (t.split k.g k.t k.x).pc = k.next) ∧
    Completes (.bara c n) (fun _ _ => True) (fun s t k => SameRegisters s t k ∧ (t.split k.g k.t k.x).st = .run ∧ (t.split k.g k.t k.x).pc = k.next) ∧
    Completes (.barw c n) (fun s k => (s.split k.g k.t k.x).barP.getD n.toNat ((s.gang k.g).bar n.toNat).phase ≠ ((s.gang k.g).bar n.toNat).phase)
      (fun s t k => SameRegisters s t k ∧ (t.split k.g k.t k.x).st = .run ∧ (t.split k.g k.t k.x).pc = k.next) ∧
    Completes (.bart c n) (fun _ _ => True) (fun s t k => SameRegisters s t k ∧ (t.split k.g k.t k.x).pc = k.next))

/-- Cluster barriers (R357). CLBAR raises ILLEGAL 0x0B in a spawned strand and where the group's gangs do not lie in one cluster; `.arrive` and `.both` perform the stores of their split's program, send an arrival on its way and record the
phase; `.wait` and `.both` wait unless the phase has moved. An arrival that reaches the barrier is counted, and the phase ends when every live member has arrived; its
release lets the waiters of a phase before the present one go on. CLBAR completes in every launch-record strand of a group that lies in one cluster. -/
def Obligations.ClusterBarriers : Prop :=
  (∀ c op n s k, Issues (.clbar c op n) s k →
    let grp := (s.gang k.g).group.getD 0
    let B := (s.group grp).bar n.toNat
    let bad := (s.strand k.g k.t).isLaunch = false ∨ ∃ h ∈ (s.group grp).gangs, clusterOfCore (s.gang h).core ≠ clusterOfCore (s.gang k.g).core
    (bad → ∃ t, exec (.clbar c op n) s = .next t ∧ Raises s t (.clbar c op n) { cause := cILLEGAL, detail := 0x0B }) ∧
    (¬bad → ∃ t, exec (.clbar c op n) s = .next t ∧ (t.split k.g k.t k.x).pc = k.next ∧ SameRegisters s t k ∧
      (op = .wait → SameMemory s t) ∧ (op ≠ .wait → OwnPerformed s t k) ∧
      (op = .arrive → (t.split k.g k.t k.x).st = .run) ∧ (op ≠ .wait → (t.split k.g k.t k.x).barP.getD (16 + n.toNat) 0 = B.phase) ∧
      (op ≠ .wait → (s.groups.get? grp).isSome → (t.group grp).inflight = (s.group grp).inflight ++ [(k.g, k.t, k.x, n.toNat)]) ∧
      (op = .wait → (t.group grp).inflight = (s.group grp).inflight ∧
        ((t.split k.g k.t k.x).st = if (s.split k.g k.t k.x).barP.getD (16 + n.toNat) B.phase = B.phase then .wait else .run)) ∧
      (op = .both → (t.split k.g k.t k.x).st = .wait ∧ (t.split k.g k.t k.x).wait = some (.clbar n.toNat)))) ∧
  (∀ (s : State) a, (s.groups.get? s.cur.g).isSome → (s.group s.cur.g).inflight.find? (fun q => q.2.2.2 == s.cur.t) = some a →
    let B := (s.group s.cur.g).bar s.cur.t
    ∃ t, exec .clusterBarrierArrival s = .next t ∧ SameMemory s t ∧ (t.group s.cur.g).inflight = (s.group s.cur.g).inflight.erase a ∧
      (B.arr + 1 < s.clCount s.cur.g → (t.group s.cur.g).bar s.cur.t = { B with arr := B.arr + 1, who := B.who ++ [a.1 * 32 + a.2.1] }) ∧
      (s.clCount s.cur.g ≤ B.arr + 1 → ((t.group s.cur.g).bar s.cur.t).phase = B.phase + 1 ∧ ((t.group s.cur.g).bar s.cur.t).arr = 0 ∧
        s.cur.t ∈ (t.group s.cur.g).release)) ∧
  (∀ (s : State), s.cur.t ∈ (s.group s.cur.g).release →
    ∃ t, exec .clusterBarrierRelease s = .next t ∧ SameMemory s t ∧ ∀ g ∈ (s.group s.cur.g).gangs, ∀ u y,
      (s.split g u y).st = .wait → (s.split g u y).wait = some (.clbar s.cur.t) →
      (s.split g u y).barP.getD (16 + s.cur.t) 0 ≠ ((s.group s.cur.g).bar s.cur.t).phase → (t.split g u y).st = .run ∧ (t.strand g u).committed = true) ∧
  (∀ c op n,
    Completes (.clbar c op n)
      (fun s k => (s.strand k.g k.t).isLaunch = true ∧
        ∀ h ∈ (s.group ((s.gang k.g).group.getD 0)).gangs, clusterOfCore (s.gang h).core = clusterOfCore (s.gang k.g).core)
      (fun s t k => SameRegisters s t k ∧ (t.split k.g k.t k.x).pc = k.next))

/-! ## Copies (R358-R364, R366, R396) and layout records (R365) -/

/-- CPY, CPYT, CPYG, CPYD, OVLD, CBLD and LKGET queue a descriptor with their operands and a valid count of at most their capacity: a held instruction waits for a
descriptor of its class, the checks at issue trap in their order, and otherwise it goes on with its token pending (R229, R230, R358-R364, R396; that LKGET's locket is checked before its
alignment is log entry 32's choice). OVLD also marks its
directory entry as LOADING (R363). Each of the seven completes, and its descriptor stands in its core's queue, whenever its class has a free slot and its checks hold. -/
def Obligations.CopiesAreQueued : Prop :=
  (∀ c m d a b x s k,
    let G := s.gang k.g
    let C : Copy := { Copy.blank with dsp := m.dsp, ssp := m.ssp, token := d.toNat, scope := scopeCode m.scope,
                                      nb := if m.nben then some m.nb.toNat else none, dst := k.s a, src := k.s b }
    let cls := fun ends => s.copyClass G.part ends
    let src := (k.s b).toNat
    let dst := (k.s a).toNat
    let ends := [(m.ssp, src, false), (m.dsp, dst, true)]
    (∀ cap u, Issues (.cpy c m d a b x cap) s k → u ∈ [1, 2, 4, 8] →
      (dst % u = 0 ∧ src % u = 0 ∧ cap.toNat % u = 0) → (∀ v ∈ [2, 4, 8], u < v → ¬(dst % v = 0 ∧ src % v = 0 ∧ cap.toNat % v = 0)) →
      let n := min (k.s x).toNat cap.toNat / u
      QueuesCopy (.cpy c m d a b x cap) s k (cls ends) { C with kind := .cpy, valid := n, unit := u }
        [s.copyBounds G m.dsp dst (n * u), s.copyBounds G m.ssp src (n * u)]) ∧
    (∀ sr dr, Issues (.cpyt c m d a b x sr dr) s k →
      QueuesCopy (.cpyt c m d a b x sr dr) s k (cls (s.recEnds k.g sr.toNat dr.toNat (k.s a) (k.s b)))
        { C with kind := .cpyt sr.toNat dr.toNat, valid := (k.s x).toNat }
        (if k.s x = 0 then [] else [boundCheck G.lrec.spad 64 (BitVec.ofNat 64 (64 * sr.toNat)), boundCheck G.lrec.spad 64 (BitVec.ofNat 64 (64 * dr.toNat))])) ∧
    (∀ lw cap list, Issues (.cpyg c m lw d a b x cap list) s k →
      let w := 2 ^ lw.toNat
      let n := min (k.s x).toNat cap.toNat
      QueuesCopy (.cpyg c m lw d a b x cap list) s k (cls ends) { C with kind := .cpyg w (4 * list.toNat), valid := n, unit := w }
        [alignCheck w (k.s a), alignCheck w (k.s b), s.copyBounds G .sp (4 * list.toNat) (4 * n),
         s.copyBounds G m.dsp dst (n * w)]) ∧
    (∀ sty cap slot, Issues (.cpyd c m sty d a b x cap slot) s k →
      let n := min (k.s x).toNat cap.toNat
      let w := match sty with | some .f16 => 16 | some .e4m3 | some .e5m2 => 8 | some .cb4 => 4 | _ => 0
      QueuesCopy (.cpyd c m sty d a b x cap slot) s k (cls ends) { C with kind := .cpyd sty slot.toNat cap.toNat, valid := n, unit := 2 }
        [alignCheck 2 (k.s a), if w = 16 then alignCheck 2 (k.s b) else none, if m.dsp = .sp then s.copyBounds G .sp dst (2 * n) else none,
         s.copyBounds G m.ssp src ((n * w + 7) / 8)]) ∧
    (∀ id e, Issues (.ovld c m d a b x id e) s k →
      let n := (k.s x).toNat
      let len := (n + 255) / 256
      QueuesCopy (.ovld c m d a b x id e) s k (cls [(m.ssp, src, false)])
        { C with kind := .ovld dst n id.toNat e.toNat, dst := 0, valid := (n + 7) / 8, unit := 8 }
        [alignCheck 256 (k.s a), alignCheck 8 (k.s b),
         if 1 ≤ n ∧ n ≤ 65536 ∧ dst + 256 * len ≤ 65536 then none else some { cause := cBOUNDS, addr := k.s a }, s.copyBounds G m.ssp src n,
         if dst + 256 * len ≤ 65536 - 256 * G.hlen then none else some { cause := cHANDLEROVERLAP, addr := k.s a }] ∧
      ∀ t cl slot cc, exec (.ovld c m d a b x id e) s = .next t → CopyQueued s t k cl slot cc →
        (t.gang k.g).ovd.getD e.toNat 0 = BitVec.ofNat 64 (2 ^ 62 + id.toNat * 2 ^ 32 + dst % 65536 * 2 ^ 16 + len % 512)) ∧
    (∀ slot, Issues (.cbld c m d b slot) s k →
      QueuesCopy (.cbld c m d b slot) s k (cls [(m.ssp, src, false)]) { C with kind := .cbld slot.toNat, dst := 0, valid := 4, unit := 8 }
        [alignCheck 8 (k.s b), s.copyBounds G m.ssp src 32]) ∧
    (∀ sc dsp, Issues (.lkget c sc dsp d a b) s k →
      let e := s.entry G.part (lkIdx (k.s a))
      let far := lkNull (k.s a) = false ∧ (e.st = .migrated ∨ e.st = .resolved) ∧ e.peer ≠ s.pkg.pkgid
      (far → QueuesCopy (.lkget c sc dsp d a b) s k .fabric
        { Copy.blank with kind := .lkget (k.s a) none, dsp := dsp, dst := k.s b, token := d.toNat, scope := scopeCode sc }
        (locketChecks s k (k.s a) ++ [alignCheck 8 (k.s b)])) ∧
      (¬far → QueuesCopy (.lkget c sc dsp d a b) s k .local_
        { Copy.blank with kind := .lkget (k.s a) none, dsp := dsp, dst := k.s b, token := d.toNat, scope := scopeCode sc }
        (locketChecks s k (k.s a) ++ [alignCheck 8 (k.s b)])))) ∧
  (∀ c m d a b x,
    let spot := fun (s : State) (k : Ctx) ends => ∃ n, n < 64 ∧ ∀ e ∈ (s.core k.G.core).copies, ¬(e.cls = s.copyClass k.G.part ends ∧ e.slot = n)
    let fit := fun (s : State) (k : Ctx) sp off n => s.copyBounds (s.gang k.g) sp (BitVec.toNat off) n = none
    let al := fun w (o : DWord) => BitVec.toNat o % w = 0
    let from_ := fun (k : Ctx) => (m.ssp, (k.s b).toNat, false)
    let to_ := fun (k : Ctx) => (m.dsp, (k.s a).toNat, true)
    (∀ cap, Completes (.cpy c m d a b x cap)
      (fun s k =>
        let u := unitWidth (k.s a).toNat (k.s b).toNat cap.toNat
        let n := min (k.s x).toNat cap.toNat / u * u
        spot s k [from_ k, to_ k] ∧ fit s k m.dsp (k.s a) n ∧ fit s k m.ssp (k.s b) n)
      (fun s t k => Described s t k .cpy (k.s a) (k.s b) d.toNat)) ∧
    (∀ sr dr, Completes (.cpyt c m d a b x sr dr)
      (fun s k => spot s k (s.recEnds k.g sr.toNat dr.toNat (k.s a) (k.s b)) ∧ 64 * sr.toNat + 64 ≤ (s.gang k.g).lrec.spad ∧
        64 * dr.toNat + 64 ≤ (s.gang k.g).lrec.spad)
      (fun s t k => Described s t k (.cpyt sr.toNat dr.toNat) (k.s a) (k.s b) d.toNat)) ∧
    (∀ lw cap list, Completes (.cpyg c m lw d a b x cap list)
      (fun s k => spot s k [from_ k, to_ k] ∧ al (2 ^ lw.toNat) (k.s a) ∧ al (2 ^ lw.toNat) (k.s b) ∧
        fit s k .sp (BitVec.ofNat 64 (4 * list.toNat)) (4 * min (k.s x).toNat cap.toNat) ∧ fit s k m.dsp (k.s a) (min (k.s x).toNat cap.toNat * 2 ^ lw.toNat))
      (fun s t k => Described s t k (.cpyg (2 ^ lw.toNat) (4 * list.toNat)) (k.s a) (k.s b) d.toNat)) ∧
    (∀ sty cap slot, Completes (.cpyd c m sty d a b x cap slot)
      (fun s k =>
        let n := min (k.s x).toNat cap.toNat
        let w := match sty with | some .f16 => 16 | some .e4m3 | some .e5m2 => 8 | some .cb4 => 4 | _ => 0
        spot s k [from_ k, to_ k] ∧ al 2 (k.s a) ∧ (w = 16 → al 2 (k.s b)) ∧
          (m.dsp = .sp → fit s k .sp (k.s a) (2 * n)) ∧ fit s k m.ssp (k.s b) ((n * w + 7) / 8))
      (fun s t k => Described s t k (.cpyd sty slot.toNat cap.toNat) (k.s a) (k.s b) d.toNat)) ∧
    (∀ id e, Completes (.ovld c m d a b x id e)
      (fun s k => spot s k [from_ k] ∧ al 256 (k.s a) ∧ al 8 (k.s b) ∧ 1 ≤ (k.s x).toNat ∧ fit s k m.ssp (k.s b) (k.s x).toNat ∧
        (k.s a).toNat + 256 * (((k.s x).toNat + 255) / 256) ≤ 65536 - 256 * (s.gang k.g).hlen)
      (fun s t k => Described s t k (.ovld (k.s a).toNat (k.s x).toNat id.toNat e.toNat) 0 (k.s b) d.toNat)) ∧
    (∀ slot, Completes (.cbld c m d b slot)
      (fun s k => spot s k [from_ k] ∧ al 8 (k.s b) ∧ fit s k m.ssp (k.s b) 32)
      (fun s t k => Described s t k (.cbld slot.toNat) 0 (k.s b) d.toNat)) ∧
    (∀ sc dsp, Completes (.lkget c sc dsp d a b)
      (fun s k => (∀ y ∈ locketChecks s k (k.s a), y = none) ∧ al 8 (k.s b) ∧
        ∀ cls, ∃ n, n < 64 ∧ ∀ e ∈ (s.core k.G.core).copies, ¬(e.cls = cls ∧ e.slot = n))
      (fun s t k => Described s t k (.lkget (k.s a) none) (k.s b) 0 d.toNat)))

/-- CSTAGE advances the gang's stage counter and issues the copies of the schedule that are due, or waits for their descriptors (R239, R366); no byte changes but merged stores
that the copies have to follow (R253); LFENCE discards the gang's cached
layout records (R237, R365). CKPT raises CONVERGENCE 0x01, FLASHSTATE or ILLEGAL 0x0B where R367 says so; while a WLD of its strand loads it waits; with no tile register PENDING and no force to report, its strand waits
until every live launch-record strand is at its CKPT, which ends the lap: the strands go on, or the gang is checkpointed (R102, R367). CSTAGE completes where no entry is due, LFENCE whenever it
issues, and CKPT in every converged launch-record strand outside handler mode that has nothing pending. -/
def Obligations.StagesAndLaps : Prop :=
  (∀ c s k,
    (Issues (.cstage c) s k →
      let s1 := (s.setGang k.g fun G => { G with stage := G.stage + 1 }).commit k.g k.t
      let r := s1.replays k.g k.t k.x k.pc ((s.gang k.g).stage + 1).toNat
      (r = none → exec (.cstage c) s = .next s) ∧
      ((∀ e ∈ (s.gang k.g).lrec.sched, e.due ((s.gang k.g).stage + 1).toNat = none) → r = some s1) ∧
      (∀ s2, r = some s2 → ∃ t, exec (.cstage c) s = .next t ∧ (t.gang k.g).stage = (s.gang k.g).stage + 1 ∧ (t.strand k.g k.t).committed = true ∧
        (t.core k.G.core).copies = (s2.core k.G.core).copies ∧ SameRegisters s t k ∧ (t.split k.g k.t k.x).pc = k.next ∧
        ∀ a, Unposted s k a → t.mem.read a = s.mem.read a)) ∧
    (Issues (.lfence c) s k → ∃ t, exec (.lfence c) s = .next t ∧ SameRegisters s t k ∧ (t.split k.g k.t k.x).pc = k.next ∧ SameMemory s t ∧
      (t.core k.G.core).recs = (s.core k.G.core).recs.filter fun e => e.1 / 4096 != k.g) ∧
    (Issues (.ckpt c) s k →
      let S := s.strand k.g k.t
      let G := s.gang k.g
      let all := ∀ t ∈ G.liveLaunch, t = k.t ∨ t ∈ G.lapAt
      let due := G.pmode = 1 ∧ (G.lap + 1).toNat % max G.ckptn 1 = 0
      (S.converged = false → ∃ t, exec (.ckpt c) s = .next t ∧ Raises s t (.ckpt c) { cause := cCONVERGENCE, detail := 1 }) ∧
      (S.converged = true → S.eret.isSome → ∃ t, exec (.ckpt c) s = .next t ∧ Raises s t (.ckpt c) { cause := cFLASHSTATE }) ∧
      (S.converged = true → S.eret = none → S.isLaunch = false →
        ∃ t, exec (.ckpt c) s = .next t ∧ Raises s t (.ckpt c) { cause := cILLEGAL, detail := 0x0B }) ∧
      let loads := ∃ L ∈ G.wloads, L.strand = k.t
      (S.converged = true → S.eret = none → S.isLaunch = true → loads → exec (.ckpt c) s = .next s) ∧
      (S.converged = true → S.eret = none → S.isLaunch = true → ¬loads → S.pending = [] → S.carried = [] → (∀ q ∈ S.tregs, S.readIds q.1 = []) →
        ∃ t, exec (.ckpt c) s = .next t ∧ (t.split k.g k.t k.x).pc = k.next ∧ (t.strand k.g k.t).v = S.v ∧
          (t.split k.g k.t k.x).view.s = (s.split k.g k.t k.x).view.s ∧ SameMemory s t ∧
          (¬all → (t.gang k.g).lapAt = G.lapAt ++ [k.t] ∧ (t.gang k.g).lap = G.lap ∧ (t.split k.g k.t k.x).st = .wait ∧
            (t.split k.g k.t k.x).wait = some .ckpt) ∧
          (all → (t.gang k.g).lap = G.lap + 1) ∧
          (all → due → (t.gang k.g).phase = .checkpointing ∧ (t.split k.g k.t k.x).st = .wait) ∧
          (all → ¬due → (t.gang k.g).lapAt = [] ∧ (t.split k.g k.t k.x).st = .run)))) ∧
  (∀ c,
    Completes (.cstage c) (fun s k => ∀ e ∈ (s.gang k.g).lrec.sched, e.due ((s.gang k.g).stage + 1).toNat = none)
      (fun s t k => (t.gang k.g).stage = (s.gang k.g).stage + 1 ∧ (t.strand k.g k.t).committed = true ∧ SameRegisters s t k ∧ (t.split k.g k.t k.x).pc = k.next) ∧
    Completes (.lfence c) (fun _ _ => True) (fun s t k => (t.core k.G.core).recs = (s.core k.G.core).recs.filter (fun e => e.1 / 4096 != k.g) ∧
      SameRegisters s t k ∧ (t.split k.g k.t k.x).pc = k.next) ∧
    Completes (.ckpt c)
      (fun s k => (s.strand k.g k.t).converged = true ∧ (s.strand k.g k.t).eret = none ∧ (s.strand k.g k.t).isLaunch = true ∧
        (∀ L ∈ (s.gang k.g).wloads, L.strand ≠ k.t) ∧ (s.strand k.g k.t).pending = [] ∧ (s.strand k.g k.t).carried = [] ∧
        ∀ q ∈ (s.strand k.g k.t).tregs, (s.strand k.g k.t).readIds q.1 = [])
      (fun s t k => (t.split k.g k.t k.x).pc = k.next ∧ SameMemory s t))

/-! ## Tiles, graphs and weights (R368-R383) -/

/-- TLD, TLDV, TMMA, TTRN and TCVT make a node of their kind with its valid shape, and name it by their destination, where nothing stands before them (R197-R201, R371-R374);
a POISONED operand raises TILEPOISON, and a strand that is not converged CONVERGENCE (R199, R368). Each of the five completes in every converged strand whose operands are
not poisoned, whose destination no pending node reads (R200), that has no force to report, and whose buffer has room (R201). -/
def Obligations.TileNodes : Prop :=
  (∀ c d ys m n,
    (∀ f, NeedsConvergence (.tld c d ys m n f) ∧
      MakesNode (.tld c d ys m n f) d.toNat [] fun k S =>
        (.tld f.space (if f.lr then k.s6 f.xs else k.s6 f.xs + f.imm.signExtend 64) (if f.lr then some (f.imm.toNat % 4096) else none) f.ty S.tfences,
          if ys = 0 then m.toNat + 1 else min ((k.s6 ys).extractLsb' 0 8).toNat (m.toNat + 1),
          if ys = 0 then n.toNat + 1 else min ((k.s6 ys).extractLsb' 8 8).toNat (n.toNat + 1))) ∧
    (∀ f ty, NeedsConvergence (.tldv c d ys f m n ty) ∧ ∀ s k, Issues (.tldv c d ys f m n ty) s k →
      let rows := if ys = 0 then m.toNat + 1 else min ((k.s6 ys).extractLsb' 0 8).toNat (m.toNat + 1)
      let cols := if ys = 0 then n.toNat + 1 else min ((k.s6 ys).extractLsb' 8 8).toNat (n.toNat + 1)
      let at_ := fun i j => if ty = .bf16 then decodeTy ty ((k.S.lane (f.toNat + i) (j / 2)).toNat / 2 ^ (16 * (j % 2)) % 2 ^ 16)
        else decodeTy ty ((k.S.lane (f.toNat + (n.toNat + 32) / 32 * i + j / 32) (j % 32)).toNat % 2 ^ tyBits ty)
      RoomFor (s.strand k.g k.t) (some d.toNat) [] → ∃ t T, exec (.tldv c d ys f m n ty) s = .next t ∧
        NodeAdded s t k d.toNat (.tldv (s.strand k.g k.t).nextSeq T) rows cols ∧ T.rows = rows ∧ T.cols = cols ∧ T.fmt = ty ∧
        ∀ i j, i < rows → j < cols → Tbl.getD T.elems (64 * i + j) (Machine.Num.zero false) = at_ i j) ∧
    (∀ f : Mma, NeedsConvergence (.tmma c d f) ∧
      MakesNode (.tmma c d f) d.toNat ([f.ta.toNat] ++ (if f.bw then [] else [f.tb.toNat]) ++ if f.zeroc then [] else [f.tc.toNat]) fun k S =>
        let cnt := fun (lo w cap : Nat) => if f.ys = 0 then cap else min ((k.s6 f.ys).extractLsb' lo w).toNat cap
        (.prod { nega := f.nega, negb := f.negb, tra := f.tra, trb := f.trb, q := f.q.toNat, rnd := f.rnd, bf16 := f.bf16,
                 kv := cnt 16 9 (f.k.toNat + 1), kcap := f.k.toNat + 1 }
            (S.refOf f.ta.toNat) (if f.bw then .slot f.ws.toNat else S.refOf f.tb.toNat) (if f.zeroc then none else some (S.refOf f.tc.toNat)),
          cnt 0 8 (f.m.toNat + 1), cnt 8 8 (f.n.toNat + 1))) ∧
    (∀ ta : BitVec 4, NeedsConvergence (.ttrn c d ta) ∧
      MakesNode (.ttrn c d ta) d.toNat [ta.toNat] fun _ S =>
        (.trn (S.refOf ta.toNat), (S.refShape (S.refOf ta.toNat)).2, (S.refShape (S.refOf ta.toNat)).1)) ∧
    (∀ (ta : BitVec 4) ty rnd, NeedsConvergence (.tcvt c d ta ty rnd) ∧
      MakesNode (.tcvt c d ta ty rnd) d.toNat [ta.toNat] fun k S =>
        (.cvt ty rnd ((k.cr crRMODE).getLsbD 4) (S.refOf ta.toNat), (S.refShape (S.refOf ta.toNat)).1, (S.refShape (S.refOf ta.toNat)).2))) ∧
  (∀ c d ys m n f v ty (g : Mma) (ta : BitVec 4) rnd,
    let room := fun uses (s : State) (k : Ctx) => RoomFor (s.strand k.g k.t) (some (BitVec.toNat (w := 8) d)) uses
    let named := fun (s t : State) (k : Ctx) => ((t.strand k.g k.t).treg d.toNat).st = .pending (s.strand k.g k.t).nextSeq ∧ (t.split k.g k.t k.x).pc = k.next
    Completes (.tld c d ys m n f) (room []) named ∧ Completes (.tldv c d ys v m n ty) (room []) named ∧
    Completes (.tmma c d g) (room ([g.ta.toNat] ++ (if g.bw then [] else [g.tb.toNat]) ++ if g.zeroc then [] else [g.tc.toNat])) named ∧
    Completes (.ttrn c d ta) (room [ta.toNat]) named ∧ Completes (.tcvt c d ta ty rnd) (room [ta.toNat]) named)

/-- Forces and batches (R202, R203, R375, R378). TFORCE of a PENDING register enters a force in the core's queue, which makes it FORCED, or waits while the queue holds 64; of any other register
it only goes on. TBATCH closes a batch and writes its number. TWAIT goes on where its batch is none; otherwise it waits for the forces of it and the batches before it, and reports them.
TDROP makes its register a zero VALUE once its forces are reported. TFENCE counts a fence, performs the stores of its split's program, and from then on evaluations see what memory holds now.
In a converged strand TFORCE of a register that is not PENDING, TBATCH, TWAIT of no batch, TDROP of a register that nothing reads or awaits, and TFENCE complete; so does TFORCE of a PENDING register
while the queue has room. -/
def Obligations.ForcesAndBatches : Prop :=
  (∀ c n d a s k,
    let S := s.strand k.g k.t
    let same := fun (t : State) => (t.strand k.g k.t).v = S.v ∧ (t.split k.g k.t k.x).pc = k.next ∧ SameMemory s t
    let done := fun ids => ∀ i ∈ ids, ∀ r, S.forces.get? i = some r → r.done = true
    let clean := fun ids => ∀ q ∈ S.forces, q.1 ∈ ids → q.2.fault = none
    (S.converged = true → Issues (.tforce c n) s k →
      ((∀ u, (S.treg n.toNat).st ≠ .pending u) → ∃ t, exec (.tforce c n) s = .next t ∧ Goes s t k k.next) ∧
      (∀ u N, (S.treg n.toNat).st = .pending u → S.graph.get? u = some N → N.rows ≤ 64 → N.cols ≤ 64 →
        (64 ≤ (s.core k.G.core).forces.length → exec (.tforce c n) s = .next s) ∧
        ((s.core k.G.core).forces.length < 64 → ∃ t F, exec (.tforce c n) s = .next t ∧ same t ∧
          (t.core k.G.core).forces = (s.core k.G.core).forces ++ [F] ∧ F.gang = k.g ∧ F.strand = k.t ∧ F.tile = n.toNat ∧ F.root = u ∧ F.whole = true ∧
          ((t.strand k.g k.t).treg n.toNat).st = .forced F.id ∧ (t.strand k.g k.t).plan.isSome ∧
          ∀ v, v ≠ n.toNat → (t.strand k.g k.t).treg v = S.treg v))) ∧
    (S.converged = true → Issues (.tbatch c d) s k → ∃ t, exec (.tbatch c d) s = .next t ∧ same t ∧ (t.strand k.g k.t).batchNo = S.batchNo + 1 ∧
      (t.split k.g k.t k.x).view.scalar d.toNat = (if d = 0 then 0 else BitVec.ofNat 64 (S.batchNo % 0xFFFFFFFF + 1)) ∧
      (∀ r, r ≠ d.toNat → (t.split k.g k.t k.x).view.scalar r = (s.split k.g k.t k.x).view.scalar r) ∧
      (t.strand k.g k.t).forces = S.forces.map fun q => (q.1, if q.2.batch = none ∧ q.2.carry = false then { q.2 with batch := some (S.batchNo + 1) } else q.2)) ∧
    (S.converged = true → Issues (.twait c a) s k →
      let closed := latestBatch S.batchNo ((k.s a).toNat % 2 ^ 32)
      (closed = none → ∃ t, exec (.twait c a) s = .next t ∧ Goes s t k k.next) ∧
      (∀ b, closed = some b →
        let ids := (S.forces.filter fun q => match q.2.batch with | some m => decide (m ≤ b) | none => false).map Prod.fst
        (¬done ids → exec (.twait c a) s = .next s) ∧
        (done ids → clean ids → ∃ t, exec (.twait c a) s = .next t ∧ same t ∧ (t.split k.g k.t k.x).view.s = (s.split k.g k.t k.x).view.s ∧
          ∀ q ∈ (t.strand k.g k.t).forces, q ∈ S.forces ∧ ¬(q.1 ∈ ids ∧ q.2.done = true)))) ∧
    (S.converged = true → Issues (.tdrop c n) s k → S.pinned n.toNat = [] → done (S.readIds n.toNat) → clean (S.readIds n.toNat) →
      ∃ t, exec (.tdrop c n) s = .next t ∧ same t ∧ (t.strand k.g k.t).treg n.toNat = TileReg.zero ∧
        ∀ v, v ≠ n.toNat → ((t.strand k.g k.t).treg v).st = (S.treg v).st ∧ ((t.strand k.g k.t).treg v).tile = (S.treg v).tile) ∧
    (S.converged = true → Issues (.tfence c) s k → ∃ t, exec (.tfence c) s = .next t ∧ SameRegisters s t k ∧ (t.split k.g k.t k.x).pc = k.next ∧
      (t.strand k.g k.t).tfences = S.tfences + 1 ∧ OwnPerformed s t k ∧
      ∀ x, (t.strand k.g k.t).fenced.read x = t.mem.read x) ∧
    NeedsConvergence (.tforce c n) ∧ NeedsConvergence (.tbatch c d) ∧ NeedsConvergence (.twait c a) ∧ NeedsConvergence (.tdrop c n) ∧ NeedsConvergence (.tfence c)) ∧
  (∀ c n d a,
    let on := fun (s : State) (k : Ctx) => (s.strand k.g k.t).converged = true
    let goes := fun (_ t : State) (k : Ctx) => (t.split k.g k.t k.x).pc = k.next
    Completes (.tforce c n) (fun s k => on s k ∧ ∀ u, ((s.strand k.g k.t).treg n.toNat).st ≠ .pending u) goes ∧
    Completes (.tforce c n) (fun s k => on s k ∧ (∃ u, ((s.strand k.g k.t).treg n.toNat).st = .pending u) ∧ (s.core k.G.core).forces.length < 64)
      (fun s t k => (t.core k.G.core).forces.length = (s.core k.G.core).forces.length + 1 ∧ goes s t k) ∧
    Completes (.tbatch c d) on (fun s t k => (t.strand k.g k.t).batchNo = (s.strand k.g k.t).batchNo + 1 ∧ goes s t k) ∧
    Completes (.twait c a) (fun s k => on s k ∧ latestBatch (s.strand k.g k.t).batchNo ((k.s a).toNat % 2 ^ 32) = none) goes ∧
    Completes (.tdrop c n) (fun s k => on s k ∧ (s.strand k.g k.t).pinned n.toNat = [] ∧ (s.strand k.g k.t).readIds n.toNat = [])
      (fun s t k => (t.strand k.g k.t).treg n.toNat = TileReg.zero ∧ goes s t k) ∧
    Completes (.tfence c) on (fun s t k => (t.strand k.g k.t).tfences = (s.strand k.g k.t).tfences + 1 ∧ goes s t k))

/-- TST and TRDV (R376, R377) of a POISONED register raise TILEPOISON, and of a PENDING one first force it, TRDV the elements it reads alone, and are held at their PC, or wait while the queue of forces is full (R203, R204). Of a VALUE with no force to report, TST checks its elements in ascending order, traps
on the first that fails, and otherwise stores the tile's elements; TRDV waits for room in the landing buffer (R165) and writes its vector registers with the elements of the region,
zero beyond the valid shape. Both then add the
flags of their conversions to cr.FSTAT and raise ARITH where one is enabled (R188). With no trap enabled in cr.RMODE both complete there. -/
def Obligations.TileReads : Prop :=
  (∀ c ta s k,
    let S := s.strand k.g k.t
    let R := S.treg ta.toNat
    let ready := S.converged = true ∧ R.st = .value ∧ R.src = none ∧ S.carried = []
    let outcome := fun (t u : State) (fl : DWord) =>
      (u.split k.g k.t k.x).view.fstat = (s.split k.g k.t k.x).view.fstat ||| fl ∧
      (enabledOf k fl = 0 → t = u ∧ (t.split k.g k.t k.x).pc = k.next) ∧
      (enabledOf k fl ≠ 0 → ∃ tr, tr.cause = cARITH ∧ t = u.raise k.g k.t k.x k.pc k.next tr)
    let forced := fun (i : Instr) (r0 nr c0 nc : Nat) => ∀ u N, S.converged = true → R.st = .pending u → S.graph.get? u = some N → N.rows ≤ 64 → N.cols ≤ 64 →
      S.carried = [] →
      (64 ≤ (s.core k.G.core).forces.length → exec i s = .next s) ∧
      ((s.core k.G.core).forces.length < 64 → ∃ t F, exec i s = .next t ∧ (t.core k.G.core).forces = (s.core k.G.core).forces ++ [F] ∧
        F.gang = k.g ∧ F.strand = k.t ∧ F.tile = ta.toNat ∧ F.root = u ∧ F.r0 = min r0 N.rows ∧ F.nr = min (r0 + nr) N.rows - min r0 N.rows ∧
        F.c0 = min c0 N.cols ∧ F.nc = min (c0 + nc) N.cols - min c0 N.cols ∧
        (F.nr = N.rows → F.nc = N.cols → ((t.strand k.g k.t).treg ta.toNat).st = .forced F.id) ∧
        t.split k.g k.t k.x = s.split k.g k.t k.x ∧ (t.strand k.g k.t).v = S.v ∧ SameMemory s t)
    (∀ f : TileMem, Issues (.tst c ta f) s k →
      let rr := if f.lr then s.readRec k.g (f.imm.toNat % 4096) else ([], s)
      let els := k.tstEls rr.2 (fun _ => rr.1) f R.tile
      (S.converged = true → R.st = .poisoned → ∃ t, exec (.tst c ta f) s = .next t ∧ Raises s t (.tst c ta f) { cause := cTILEPOISON }) ∧
      (∀ tr, ready → els = .error tr → ∃ t u, exec (.tst c ta f) s = .next t ∧ SameMemory s u ∧ SameRegisters s u k ∧
        t = u.raise k.g k.t k.x k.pc k.next tr) ∧
      forced (.tst c ta f) 0 64 0 64 ∧
      (∀ l, ready → els = .ok l → s.captureHolds k.G.part (l.map TEl.acc) = false →
        ∃ t u, exec (.tst c ta f) s = .next t ∧ StoredBytes s u k (k.tstStores f.ty l).1 ∧
          (AtOnce (l.map TEl.acc) → Stored (k.tstStores f.ty l).1 u.mem.read) ∧
          (anyMtype (fun m => decide (2 ≤ m)) (l.map TEl.acc) = true → (u.strand k.g k.t).committed = true) ∧
          SameRegisters s u k ∧ outcome t u (k.tstStores f.ty l).2)) ∧
    (∀ d r0 nr c0 nc ty, Issues (.trdv c d ta r0 nr c0 nc ty) s k →
      let bf := ty = .bf16
      let at_ := fun r q => if r < R.tile.rows ∧ q < R.tile.cols then Tbl.getD R.tile.elems (64 * r + q) (Machine.Num.zero false) else Machine.Num.zero false
      let code := fun r q => if bf then (convertF .bf16 .ieee (k.mode .cr) (k.draw (64 * r + q)) (at_ r q)).bits else (convertF .f32 .ieee 0 0 (at_ r q)).bits
      let regs := if bf then nr.toNat + 1 else (nr.toNat + 1) * ((nc.toNat + 32) / 32)
      (S.converged = true → R.st = .poisoned →
        ∃ t, exec (.trdv c d ta r0 nr c0 nc ty) s = .next t ∧ Raises s t (.trdv c d ta r0 nr c0 nc ty) { cause := cTILEPOISON }) ∧
      forced (.trdv c d ta r0 nr c0 nc ty) r0.toNat (nr.toNat + 1) c0.toNat (nc.toNat + 1) ∧
      (ready → s.landingRoom k.g regs = false → ∃ t, exec (.trdv c d ta r0 nr c0 nc ty) s = .next t ∧ t.split k.g k.t k.x = s.split k.g k.t k.x ∧ SameMemory s t) ∧
      (ready → s.landingRoom k.g regs = true → ∃ t u fl, exec (.trdv c d ta r0 nr c0 nc ty) s = .next t ∧ SameMemory s u ∧ outcome t u fl ∧ (¬bf → fl = 0) ∧
        (∀ r n, n < 32 → (r < d.toNat ∨ d.toNat + regs ≤ r) → (u.strand k.g k.t).lane r n = S.lane r n) ∧
        (∀ i j, i ≤ nr.toNat → j ≤ nc.toNat →
          (bf → nc.toNat < 64 → (u.strand k.g k.t).lane (d.toNat + i) (j / 2) / 2 ^ (16 * (j % 2)) % 2 ^ 16 =
            BitVec.ofNat 32 (code (r0.toNat + i) (c0.toNat + j))) ∧
          (¬bf → (u.strand k.g k.t).lane (d.toNat + (nc.toNat + 32) / 32 * i + j / 32) (j % 32) = BitVec.ofNat 32 (code (r0.toNat + i) (c0.toNat + j)))))) ∧
    (∀ f, NeedsConvergence (.tst c ta f)) ∧ ∀ d r0 nr c0 nc ty, NeedsConvergence (.trdv c d ta r0 nr c0 nc ty)) ∧
  (∀ c ta f d r0 nr c0 nc ty,
    let ready := fun (s : State) (k : Ctx) => (s.strand k.g k.t).converged = true ∧ ((s.strand k.g k.t).treg (BitVec.toNat (w := 4) ta)).st = .value ∧
      ((s.strand k.g k.t).treg ta.toNat).src = none ∧ (s.strand k.g k.t).carried = [] ∧ enabledOf k 0x1F = 0
    Completes (.tst c ta f)
      (fun s k =>
        let rr := if f.lr then s.readRec k.g (f.imm.toNat % 4096) else ([], s)
        ready s k ∧ ∃ l, k.tstEls rr.2 (fun _ => rr.1) f ((s.strand k.g k.t).treg ta.toNat).tile = .ok l ∧ s.captureHolds k.G.part (l.map TEl.acc) = false)
      (fun s t k => (t.split k.g k.t k.x).pc = k.next ∧ (t.strand k.g k.t).v = (s.strand k.g k.t).v) ∧
    Completes (.trdv c d ta r0 nr c0 nc ty)
      (fun s k => ready s k ∧ s.landingRoom k.g (imageRegs (ty == .bf16) (nr.toNat + 1) (nc.toNat + 1)) = true)
      (fun s t k => (t.split k.g k.t k.x).pc = k.next ∧ SameMemory s t))

/-- Weight slots (R217-R222, R379-R383). WLD waits while its slot's back plane is loading; then it gives the plane its version and counts and starts the load, its node in the strand's buffer, with what it may read of memory: what stood at the last TFENCE, and the writes from here on (R215, R383). WSWAP
waits for the back plane and for every force that reads the slot; it raises GRAPHLEAF where the plane's load failed, and otherwise exchanges the planes. WVER goes on where the front plane has
the expected version, and raises WVERSION where not. TPLAN writes a plan word of the strand's last force. In a converged strand with nothing to report WLD and WSWAP complete where the
back plane is not loading (and is good, for WSWAP, and no force reads the slot), WVER where the versions agree, TPLAN always. -/
def Obligations.WeightSlots : Prop :=
  (∀ c d ws s k,
    let S := s.strand k.g k.t
    let G := s.gang k.g
    let w := BitVec.toNat (w := 2) ws
    (∀ xs ys imm ty sp slot, Issues (.wld c d ws xs ys imm ty sp slot) s k → S.converged = true →
      ((G.back w).loading = true → exec (.wld c d ws xs ys imm ty sp slot) s = .next s) ∧
      ((G.back w).loading = false → RoomFor S none [] → ∃ t, exec (.wld c d ws xs ys imm ty sp slot) s = .next t ∧
        (t.gang k.g).front w = G.front w ∧ ((t.gang k.g).back w).loading = true ∧ ((t.gang k.g).back w).ver = (k.s d).extractLsb' 0 32 ∧
        ((t.gang k.g).back w).fmt = ty ∧ ((t.gang k.g).back w).sp = sp ∧
        ((t.gang k.g).back w).kr = min ((k.s6 ys).extractLsb' 0 9).toNat (if ty = .f32 ∨ ty = .f16 then 64 else 256) ∧
        ((t.gang k.g).back w).nc = min ((k.s6 ys).extractLsb' 16 7).toNat 64 ∧
        (∃ L, (t.gang k.g).wloads = G.wloads ++ [L] ∧ L.slot = w ∧ L.addr = k.s6 xs + imm.signExtend 64 ∧ L.ty = ty ∧ L.node = S.nextSeq ∧
          L.since = t.mem.logged ∧ L.fenced = S.fenced) ∧
        (t.strand k.g k.t).nextSeq = S.nextSeq + 1 ∧
        (t.strand k.g k.t).graph.get? S.nextSeq = some { kind := .wld w, rows := 0, cols := 0, pc := k.pc } ∧
        SameRegisters s t k ∧ (t.split k.g k.t k.x).pc = k.next ∧ SameMemory s t)) ∧
    (Issues (.wswap c ws) s k → S.converged = true →
      let reads := ∃ F ∈ (s.core k.G.core).forces, F.gang = k.g ∧ w ∈ F.slots
      ((G.back w).loading = true → exec (.wswap c ws) s = .next s) ∧
      ((G.back w).loading = false → S.slotReaders w = [] → reads → exec (.wswap c ws) s = .next s) ∧
      ((G.back w).loading = false → S.slotReaders w = [] → ¬reads → S.carried = [] →
        (∀ f, (G.back w).pois = true → (G.back w).fault = some f → ∃ t u, exec (.wswap c ws) s = .next t ∧ SameMemory s u ∧ SameRegisters s u k ∧
          t = u.raise k.g k.t k.x k.pc k.next { cause := cGRAPHLEAF, addr := f.addr, opc := some f.opc,
                                                detail := BitVec.ofNat 64 (f.cause.toNat * 2 ^ 16 + f.sub.toNat) }) ∧
        ((G.back w).pois = false → ∃ t, exec (.wswap c ws) s = .next t ∧ (t.gang k.g).front w = G.back w ∧ (t.gang k.g).back w = G.front w ∧
          (∀ v, v ≠ w → (t.gang k.g).front v = G.front v ∧ (t.gang k.g).back v = G.back v) ∧ SameRegisters s t k ∧
          (t.split k.g k.t k.x).pc = k.next ∧ SameMemory s t))) ∧
    (∀ a, Issues (.wver c a ws) s k → S.converged = true →
      ∃ t, exec (.wver c a ws) s = .next t ∧
        if (G.front w).ver = (k.s a).extractLsb' 0 32 then Goes s t k k.next
        else Raises s t (.wver c a ws) { cause := cWVERSION, detail := (G.front w).ver ++ (k.s a).extractLsb' 0 32 }) ∧
    (∀ r : BitVec 8, Issues (.tplan c r ws) s k → S.converged = true →
      ∃ t, exec (.tplan c r ws) s = .next t ∧ ScalarWritten s t k k.next r ((S.plan.getD []).getD w 0)) ∧
    (∀ xs ys imm ty sp slot, NeedsConvergence (.wld c d ws xs ys imm ty sp slot)) ∧ NeedsConvergence (.wswap c ws) ∧ (∀ a, NeedsConvergence (.wver c a ws)) ∧
    ∀ r : BitVec 8, NeedsConvergence (.tplan c r ws)) ∧
  (∀ c d (ws : BitVec 2) xs ys imm ty sp slot a (r : BitVec 8),
    let on := fun (s : State) (k : Ctx) => (s.strand k.g k.t).converged = true
    let goes := fun (_ t : State) (k : Ctx) => (t.split k.g k.t k.x).pc = k.next
    Completes (.wld c d ws xs ys imm ty sp slot)
      (fun s k => RoomFor (s.strand k.g k.t) none [] ∧ ((s.gang k.g).back ws.toNat).loading = false)
      (fun s t k => ((t.gang k.g).back ws.toNat).loading = true ∧ goes s t k) ∧
    Completes (.wswap c ws)
      (fun s k => on s k ∧ ((s.gang k.g).back ws.toNat).loading = false ∧ ((s.gang k.g).back ws.toNat).pois = false ∧
        (s.strand k.g k.t).slotReaders ws.toNat = [] ∧ (s.strand k.g k.t).carried = [] ∧
        ∀ F ∈ (s.core k.G.core).forces, ¬(F.gang = k.g ∧ ws.toNat ∈ F.slots))
      (fun s t k => (t.gang k.g).front ws.toNat = (s.gang k.g).back ws.toNat ∧ goes s t k) ∧
    Completes (.wver c a ws) (fun s k => on s k ∧ ((s.gang k.g).front ws.toNat).ver = (k.s a).extractLsb' 0 32) goes ∧
    Completes (.tplan c r ws) on goes)

/-! ## Bank commands (R384-R392) -/

/-- BRED, BXADD, BXCLR, BXRD, BAXPY and BEWU: their offsets are checked at issue, and then the command is at its banks, no byte of memory changed yet (R136, R384-R388). BXRD waits for room in
the landing buffer. Each of the six completes wherever its offsets lie aligned in the window (and its counts and ranges are good; and, for BXRD, the landing buffer has room). -/
def Obligations.BankCommandsIssue : Prop :=
  (∀ c d a b x s k,
    let at_ := fun (i : Instr) (w : Nat) (f : Src) (kind : BankKind) (data : Nat → DWord) (dst : Nat) =>
      Issues i s k → BankLanesChecked i s k a f w ∧
        (BankLanesFit s k a f w → ∃ t, exec i s = .next t ∧ CommandAtBanks s t k kind (bankLanesOf s k a f data fun _ => 0) dst k.lanes.length)
    let W := s.window (s.gang k.g)
    (∀ op ty, at_ (.bred c op ty a b x) (tyBytes ty) b (.bred op ty) (fun n => BitVec.ofNat 64 (k.val ty x n)) 0) ∧
    at_ (.bxadd c d a b x) 64 b .bxadd (fun n => (k.v x n).zeroExtend 64) d.toNat ∧
    at_ (.bxclr c d a b) 64 b .bxclr (fun _ => 0) d.toNat ∧
    (∀ f64 acq, Issues (.bxrd c f64 acq d a b) s k → BankLanesChecked (.bxrd c f64 acq d a b) s k a b 64 ∧
      (BankLanesFit s k a b 64 →
        (s.canLoad k.g k.t (if f64 then 2 else 1) = false → exec (.bxrd c f64 acq d a b) s = .next s) ∧
        (s.canLoad k.g k.t (if f64 then 2 else 1) = true → ∃ t, exec (.bxrd c f64 acq d a b) s = .next t ∧
          LoadAtBanks s t k (.bxrd f64 d.toNat) (bankLanesOf s k a b (fun _ => 0) fun n => BitVec.ofInt 64 ((k.s a).toNat + (k.v b n).toInt))
            (if f64 then [d.toNat, d.toNat + 1] else [d.toNat]) acq))) ∧
    (∀ p q r (n : BitVec 6) (cap : BitVec 32),
      let N := cap.toNat
      let v := (k.s6 n).toNat
      let xs := (k.s p).toNat
      let ys := (k.s q).toNat
      let partly := decide (xs ≠ ys ∧ xs < ys + 4 * N ∧ ys < xs + 4 * N)
      let both := [alignCheck 4 (k.s p), alignCheck 4 (k.s q), boundCheck W.2 (4 * N) (k.s p), boundCheck W.2 (4 * N) (k.s q),
                   bankopCheck (decide (N < v)) 6 0, bankopCheck partly 5 0]
      (Issues (.baxpy c d p q r n cap) s k → TrapsOrDoes (.baxpy c d p q r n cap) s both fun t =>
        CommandAtBanks s t k (.baxpy ((k.s r).extractLsb' 0 32) (W.1 + xs) (W.1 + ys)) [] d.toNat v) ∧
      ∀ op (m : BitVec 6), Issues (.bewu c op d p q r n m cap) s k →
        let lo := (k.s r).extractLsb' 0 32
        let hi := (k.s6 m).extractLsb' 0 32
        let chk := match op with
          | .scadd | .mul => both
          | .clamp => [alignCheck 4 (k.s q), boundCheck W.2 (4 * N) (k.s q), bankopCheck (decide (N < v)) 6 0, bankopCheck (clampBad lo.toNat hi.toNat) 6 0]
          | .moment => [alignCheck 16 (k.s q), alignCheck 32 (k.s6 m), boundCheck W.2 (16 * N) (k.s q), boundCheck W.2 32 (k.s6 m),
                        bankopCheck (decide (N < v)) 6 0]
        TrapsOrDoes (.bewu c op d p q r n m cap) s chk fun t =>
          CommandAtBanks s t k (.bewu op lo hi (W.1 + (if op = .moment then (k.s6 m).toNat else xs)) (W.1 + ys)) [] d.toNat v)) ∧
  (∀ c op ty d a b x f64 acq p q r (n m : BitVec 6) (cap : BitVec 32) ew,
    let W := fun (s : State) (k : Ctx) => s.window (s.gang k.g)
    let in_ := fun (s : State) (k : Ctx) w len (o : DWord) => BitVec.toNat o % w = 0 ∧ BitVec.toNat o + len ≤ (W s k).2
    let apart := fun (k : Ctx) => (k.s p).toNat = (k.s q).toNat ∨ (k.s p).toNat + 4 * cap.toNat ≤ (k.s q).toNat ∨
      (k.s q).toNat + 4 * cap.toNat ≤ (k.s p).toNat
    let two := fun (s : State) (k : Ctx) => in_ s k 4 (4 * cap.toNat) (k.s p) ∧ in_ s k 4 (4 * cap.toNat) (k.s q) ∧ apart k ∧ (k.s6 n).toNat ≤ cap.toNat
    Completes (.bred c op ty a b x) (fun s k => BankLanesFit s k a b (tyBytes ty)) (fun s t k => Commanded s t k (.bred op ty)) ∧
    Completes (.bxadd c d a b x) (fun s k => BankLanesFit s k a b 64) (fun s t k => Commanded s t k .bxadd) ∧
    Completes (.bxclr c d a b) (fun s k => BankLanesFit s k a b 64) (fun s t k => Commanded s t k .bxclr) ∧
    Completes (.bxrd c f64 acq d a b) (fun s k => BankLanesFit s k a b 64 ∧ s.canLoad k.g k.t 2 = true)
      (fun s t k => Commanded s t k (.bxrd f64 d.toNat)) ∧
    Completes (.baxpy c d p q r n cap) two (fun s t k => Commanded s t k
      (.baxpy ((k.s r).extractLsb' 0 32) ((W s k).1 + (k.s p).toNat) ((W s k).1 + (k.s q).toNat))) ∧
    Completes (.bewu c ew d p q r n m cap)
      (fun s k => match ew with
        | .scadd | .mul => two s k
        | .clamp => in_ s k 4 (4 * cap.toNat) (k.s q) ∧ (k.s6 n).toNat ≤ cap.toNat ∧
            clampBad ((k.s r).extractLsb' 0 32).toNat ((k.s6 m).extractLsb' 0 32).toNat = false
        | .moment => in_ s k 16 (16 * cap.toNat) (k.s q) ∧ in_ s k 32 32 (k.s6 m) ∧ (k.s6 n).toNat ≤ cap.toNat)
      (fun s t k => Commanded s t k (.bewu ew ((k.s r).extractLsb' 0 32) ((k.s6 m).extractLsb' 0 32)
        ((W s k).1 + (if ew = .moment then (k.s6 m).toNat else (k.s p).toNat)) ((W s k).1 + (k.s q).toNat))))

/-- KSINIT, KSUPD, KSQRY and KSADD (R146, R389-R392): their object's place and shape, or the header that the banks hold, are checked at issue, and then the command is at its banks. KSUPD, KSQRY and
KSADD wait while the core's earlier requests at their header's bank are unfinished (R134). Each of the four completes wherever its object lies in the window, its shape or header is valid, and
nothing holds it. -/
def Obligations.SketchCommandsIssue : Prop :=
  (∀ c d a b s k,
    let W := s.window (s.gang k.g)
    let P := (s.gang k.g).part
    let head := fun o => [alignCheck 64 o, if BitVec.toNat o < W.2 then none else some ({ cause := cBOUNDS, addr := o } : Trap)]
    let busy := fun (o : DWord) => s.bankBusy k.g (banksOf (s.settings P) (W.1 + o.toNat, 64))
    let hdr := fun (o : DWord) => s.bkRead P (W.1 + o.toNat) 64
    let H := fun o => skHdrOf (hdr o)
    let bytes := fun o => 64 + (H o).dep * 2 ^ (H o).w * 8
    let shaped := fun o => [bankopCheck (!(skValid (hdr o))) 2 o, if BitVec.toNat o + bytes o ≤ W.2 then none else bankopCheck true 5 o]
    let keys := fun (data key : Nat → DWord) => k.lanes.map fun n => ({ lane := n, addr := 0, data := data n, key := key n } : BLane)
    (∀ sigma dep w : BitVec 8, Issues (.ksinit c d a b sigma dep w) s k →
      TrapsOrDoes (.ksinit c d a b sigma dep w) s
        (head (k.s a) ++ [bankopCheck (decide (¬((dep = 1 ∨ dep = 3 ∨ dep = 5 ∨ dep = 7) ∧ 3 ≤ w.toNat ∧ w.toNat ≤ 20))) 1 (k.s a),
          if (k.s a).toNat + (64 + dep.toNat * 2 ^ w.toNat * 8) ≤ W.2 then none else bankopCheck true 5 (k.s a)])
        fun t => CommandAtBanks s t k (.ksinit (W.1 + (k.s a).toNat) ((k.s b).toNat % 2 ^ 32) sigma.toNat dep.toNat w.toNat) [] d.toNat
          (dep.toNat * 2 ^ w.toNat)) ∧
    (∀ e f x, Issues (.ksupd c e d a f x) s k →
      let i : Instr := .ksupd c e d a f x
      ((∃ y ∈ head (k.s a), y ≠ none) → TrapsOrDoes i s (head (k.s a)) fun _ => True) ∧
      ((∀ y ∈ head (k.s a), y = none) → busy (k.s a) = true → exec i s = .next s) ∧
      ((∀ y ∈ head (k.s a), y = none) → busy (k.s a) = false → TrapsOrDoes i s (shaped (k.s a)) fun t =>
        CommandAtBanks s t k (.ksupd (W.1 + (k.s a).toNat) (H (k.s a)).seed (H (k.s a)).dep (H (k.s a)).w (H (k.s a)).sigma
            (match e with | some v => v.toInt | none => ((k.cr crLSCALE).extractLsb' 0 8).toInt))
          (keys (fun n => (k.v x n).zeroExtend 64) (k.p f)) d.toNat k.lanes.length)) ∧
    (∀ acq f, Issues (.ksqry c acq d a f) s k →
      let i : Instr := .ksqry c acq d a f
      ((∃ y ∈ head (k.s a), y ≠ none) → TrapsOrDoes i s (head (k.s a)) fun _ => True) ∧
      ((∀ y ∈ head (k.s a), y = none) → busy (k.s a) = true → exec i s = .next s) ∧
      ((∀ y ∈ head (k.s a), y = none) → busy (k.s a) = false → s.canLoad k.g k.t 1 = true → TrapsOrDoes i s (shaped (k.s a)) fun t =>
        LoadAtBanks s t k (.ksqry (W.1 + (k.s a).toNat) (H (k.s a)).seed (H (k.s a)).dep (H (k.s a)).w (H (k.s a)).sigma d.toNat)
          (keys (fun _ => BitVec.ofNat 64 W.1) (k.p f)) [d.toNat] acq)) ∧
    (Issues (.ksadd c d a b) s k →
      let i : Instr := .ksadd c d a b
      let A := k.s a
      let B := k.s b
      let place := [alignCheck 64 A, alignCheck 64 B] ++ (head A).drop 1 ++ (head B).drop 1
      ((∃ y ∈ place, y ≠ none) → TrapsOrDoes i s place fun _ => True) ∧
      ((∀ y ∈ place, y = none) → (busy A = true ∨ busy B = true) → exec i s = .next s) ∧
      ((∀ y ∈ place, y = none) → busy A = false → busy B = false →
        TrapsOrDoes i s
          [bankopCheck (!(skValid (hdr A))) 2 A, bankopCheck (!(skValid (hdr B))) 2 B,
           bankopCheck (decide (¬((H A).seed = (H B).seed ∧ (H A).dep = (H B).dep ∧ (H A).w = (H B).w ∧ (H A).sigma = (H B).sigma))) 3 A,
           bankopCheck (decide (A ≠ B ∧ A.toNat < B.toNat + bytes B ∧ B.toNat < A.toNat + bytes A)) 4 A,
           if A.toNat + bytes A ≤ W.2 then none else bankopCheck true 5 A, if B.toNat + bytes B ≤ W.2 then none else bankopCheck true 5 B]
          fun t => CommandAtBanks s t k (.ksadd (W.1 + A.toNat) (W.1 + B.toNat) (H A).dep (H A).w) [] d.toNat ((H A).dep * 2 ^ (H A).w)))) ∧
  (∀ c e d a b f x acq (sigma dep w : BitVec 8),
    let W := fun (s : State) (k : Ctx) => s.window (s.gang k.g)
    let hdr := fun (s : State) (k : Ctx) o => s.bkRead (s.gang k.g).part ((W s k).1 + BitVec.toNat (w := 64) o) 64
    let object := fun (s : State) (k : Ctx) (o : DWord) => o.toNat % 64 = 0 ∧ o.toNat < (W s k).2 ∧ skValid (hdr s k o) = true ∧
      o.toNat + (64 + (skHdrOf (hdr s k o)).dep * 2 ^ (skHdrOf (hdr s k o)).w * 8) ≤ (W s k).2 ∧
      s.bankBusy k.g (banksOf (s.settings (s.gang k.g).part) ((W s k).1 + o.toNat, 64)) = false
    let handed := fun (s t : State) (k : Ctx) => (∃ v, (t.core k.G.core).bank = (s.core k.G.core).bank ++ [v] ∧ v.gang = k.g ∧ v.strand = k.t ∧ v.cur = 0) ∧
      (t.split k.g k.t k.x).pc = k.next
    Completes (.ksinit c d a b sigma dep w)
      (fun s k => (k.s a).toNat % 64 = 0 ∧ (dep = 1 ∨ dep = 3 ∨ dep = 5 ∨ dep = 7) ∧ 3 ≤ w.toNat ∧ w.toNat ≤ 20 ∧
        (k.s a).toNat + (64 + dep.toNat * 2 ^ w.toNat * 8) ≤ (W s k).2)
      (fun s t k => Commanded s t k (.ksinit ((W s k).1 + (k.s a).toNat) ((k.s b).toNat % 2 ^ 32) sigma.toNat dep.toNat w.toNat)) ∧
    Completes (.ksupd c e d a f x) (fun s k => object s k (k.s a)) handed ∧
    Completes (.ksqry c acq d a f) (fun s k => object s k (k.s a) ∧ s.canLoad k.g k.t 1 = true) handed ∧
    Completes (.ksadd c d a b)
      (fun s k =>
        let A := skHdrOf (hdr s k (k.s a))
        let B := skHdrOf (hdr s k (k.s b))
        let end_ := fun (h : SkHdr) (o : DWord) => o.toNat + (64 + h.dep * 2 ^ h.w * 8)
        object s k (k.s a) ∧ object s k (k.s b) ∧ A.seed = B.seed ∧ A.dep = B.dep ∧ A.w = B.w ∧ A.sigma = B.sigma ∧
          (k.s a = k.s b ∨ end_ A (k.s a) ≤ (k.s b).toNat ∨ end_ B (k.s b) ≤ (k.s a).toNat))
      handed)

/-! ## Lockets (R393-R397) -/

/-- LKSTAT and LKWAIT check their locket and put a status word on its way: LKSTAT at once, LKWAIT when the entry is RESOLVED or TARNISHED, both at once for a null locket (R72, R393, R395). LKREL of a
null locket only commits; of an entry PENDING or MIGRATED it marks it and advances its generation, and of a settled one it frees it (R66, R68, R397). INVK and INVKA (R66-R70, R394). With its region over budget, or the home table full, the invocation's locket is null with that cause. Otherwise the lowest free home entry is allocated and its
locket is on its way: the entry is PENDING, or TARNISHED where its package cannot be reached, or, addressed, where its locket is null or its entry TARNISHED. INVKA checks its locket first and waits while
the forwarding store is full. LKSTAT, LKWAIT, LKREL and INVKA complete for every locket that passes its checks (INVKA while the store has room), and INVK always. -/
def Obligations.LocketsAndInvocations : Prop :=
  (∀ c d a s k,
    let l := k.s a
    let p := (s.gang k.g).part
    let i := lkIdx l
    let e := s.entry p i
    (Issues (.lkstat c d a) s k → TrapsOrDoes (.lkstat c d a) s (locketChecks s k l) fun t => SameMemory s t ∧
      OnItsWay s t k d (some (if lkNull l then nullStatus l else statusWord i e)) (if lkNull l then 0 else i)) ∧
    (Issues (.lkwait c d a) s k → TrapsOrDoes (.lkwait c d a) s (locketChecks s k l) fun t => SameMemory s t ∧
      OnItsWay s t k d (if lkNull l then some (nullStatus l) else if e.st = .resolved ∨ e.st = .tarnished then some (statusWord i e) else none) i) ∧
    (Issues (.lkrel c a) s k → (s.parts.get? p).isSome → TrapsOrDoes (.lkrel c a) s (locketChecks s k l) fun t =>
      (t.strand k.g k.t).committed = true ∧ SameRegisters s t k ∧ (t.split k.g k.t k.x).pc = k.next ∧ SameMemory s t ∧
        (lkNull l = true → t.parts = s.parts) ∧
        (lkNull l = false → (e.st = .pending ∨ e.st = .migrated) → e.proxy = false → t.entry p i = { e with rel := true, gen := nextGen e.gen }) ∧
        (lkNull l = false → ¬(e.st = .pending ∨ e.st = .migrated) →
          (t.entry p i).st = .free ∧ (t.entry p i).gen = if e.rel then e.gen else nextGen e.gen) ∧
        (lkNull l = false → ∀ j, j ≠ i → t.entry p j = s.entry p j))) ∧
  (∀ c d a b fn nb s k,
    let p := (s.gang k.g).part
    let pkg := ((k.s a).extractLsb' 0 12).toNat
    let home := s.pkg.pkgid
    let broke := withinBudgets (s.part p).regions (s.gang k.g).region [0, 0, 0, 0, 0, 1] false = false
    let free := fun i => i < Config.lrtEntries ∧ (s.entry p i).st = .free
    let lowest := fun i => free i ∧ ∀ j, j < i → ¬free j
    let way := fun (t : State) v => OnItsWay s t k d (some v) 0 ∧ (t.strand k.g k.t).committed = true ∧ OwnPerformed s t k
    let full := fun i t => (broke → way t (nullLocket home p tcBUDGET)) ∧ (¬broke → (∀ j, ¬free j) → way t (nullLocket home p tcTABLEFULL)) ∧
      (¬broke → ∀ j, lowest j → way t (mkLocket home p j (s.entry p j).gen i))
    (s.parts.get? p).isSome →
    (Issues (.invk c d a b fn nb) s k → ∃ t, exec (.invk c d a b fn nb) s = .next t ∧ full 0 t ∧
      (¬broke → ∀ j, lowest j →
        let e := t.entry p j
        e.gang = some k.g ∧ e.region = (s.gang k.g).region ∧ e.peer = pkg ∧ e.ppart = ((k.s a).extractLsb' 12 4).toNat ∧ e.upv = false ∧
        (s.pkg.pkgidSet = false → pkg ≠ home → e.st = .tarnished ∧ e.cause = tcREFUSED) ∧
        (s.pkg.pkgidSet = true → pkg ≠ home → (s.peer pkg).unreach = true → e.st = .tarnished ∧ e.cause = tcUNREACHABLE) ∧
        (pkg = home ∨ s.pkg.pkgidSet = true → (s.peer pkg).unreach = false → e.st = .pending ∧ (t.peer pkg).tx = (s.peer pkg).tx + 1))) ∧
    (Issues (.invka c d a b fn nb) s k →
      let l := k.s a
      let u := s.entry p (lkIdx l)
      ((∃ x ∈ locketChecks s k l, x ≠ none) → TrapsOrDoes (.invka c d a b fn nb) s (locketChecks s k l) fun _ => True) ∧
      ((∀ x ∈ locketChecks s k l, x = none) → s.storeUsed p ≥ Config.forwardStore → exec (.invka c d a b fn nb) s = .next s) ∧
      ((∀ x ∈ locketChecks s k l, x = none) → s.storeUsed p < Config.forwardStore → ∃ t, exec (.invka c d a b fn nb) s = .next t ∧ full 0x10 t ∧
        (¬broke → ∀ j, lowest j →
          let e := t.entry p j
          (lkNull l = true → e.st = .tarnished ∧ e.cause = tcUPSTREAM ∧ e.onull = true) ∧
          (lkNull l = false → u.st = .tarnished → e.st = .tarnished ∧ e.cause = tcUPSTREAM ∧ e.root = u.root ∧ e.origin = u.origin) ∧
          (lkNull l = false → u.st ≠ .tarnished → (u.peer = home ∨ s.pkg.pkgidSet = true) → (s.peer u.peer).unreach = false →
            e.st = .pending ∧ e.upv = true ∧ e.upidx = lkIdx l ∧ (t.entry p (lkIdx l)).nextSeq = (u.nextSeq + 1) % 65536 ∧
            (u.st = .pending → ∃ m, (t.entry p (lkIdx l)).fq = u.fq ++ [m]) ∧ (u.st ≠ .pending → (t.peer u.peer).tx = (s.peer u.peer).tx + 1)))))) ∧
  (∀ c d a b fn nb,
    let good := fun (s : State) (k : Ctx) => ∀ y ∈ locketChecks s k (k.s a), y = none
    let sent := fun (_ t : State) (k : Ctx) => (t.split k.g k.t k.x).pc = k.next ∧ (d ≠ 0 → d.toNat ∈ (t.split k.g k.t k.x).view.busy)
    Completes (.lkstat c d a) good sent ∧ Completes (.lkwait c d a) good sent ∧
    Completes (.lkrel c a) good (fun _ t k => (t.split k.g k.t k.x).pc = k.next ∧ (t.strand k.g k.t).committed = true) ∧
    Completes (.invk c d a b fn nb) (fun _ _ => True) sent ∧
    Completes (.invka c d a b fn nb) (fun s k => good s k ∧ s.storeUsed (s.gang k.g).part < Config.forwardStore) sent)

/-! ## Control registers, the fault image and CLASP (R160-R162, R398, R400, R401) -/

/-- SYSRD writes the control register it names, and SYSWR writes a writable one, its reserved bits zero and a field given a reserved code kept (R161, R162, R398); any other number raises SYSREG with
it. FLTRD writes a doubleword of the strand's fault image (R400). CLASP sends a trigger with its TAG on its way, or joins one of its own cycle (R17, R401); the bit of the source mask that stands for a core is
Config.claspSource, the model's choice (log entry 11). -/
def Obligations.SystemRegisters : Prop :=
  ∀ c d a n s k,
    let N := BitVec.toNat (w := 8) n
    let S := s.strand k.g k.t
    let G := s.gang k.g
    let old := fun m => (s.split k.g k.t k.x).view.ctl m
    let x := k.s a
    let known : Option DWord :=
      if N = 0x00 then some (S.gen ++ (0#5 ++ BitVec.ofNat 11 G.core) ++ (0#4 ++ BitVec.ofNat 4 (S.vblk - 1)) ++ (0#14 ++ BitVec.ofNat 2 S.role) ++ BitVec.ofNat 8 (S.slot % 32))
      else if N = 0x0A then some (BitVec.ofNat 64 (G.spUnit * 1024))
      else if N = 0x0B then some (BitVec.ofNat 64 s.cycle)
      else if N = 0x0C then some (BitVec.ofNat 64 (S.olc % 64))
      else if (1 ≤ N ∧ N ≤ 9) ∨ (0x10 ≤ N ∧ N ≤ 0x13) then some (k.cr N)
      else if 0x20 ≤ N ∧ N ≤ 0x2F then some (G.ovd.getD (N - 0x20) 0)
      else none
    let wr : Option DWord :=
      if N = 0x01 then some (if x &&& 3 = 3 then old N &&& 3 else x &&& 3)
      else if N = 0x02 then some (x &&& 0x1F10 ||| (if 5 ≤ (x &&& 7).toNat then old N &&& 7 else x &&& 7))
      else if N = 0x03 then some (x &&& 0x71F)
      else if N = 0x04 then some (x &&& ~~~7)
      else if N = 0x05 then some (x &&& 0xFFFFFFFF)
      else if N = 0x06 then some (x &&& 3)
      else if N = 0x07 then some (x &&& 0xFF)
      else if N = 0x08 ∨ (N = 0x11 ∧ S.eret.isSome) then some (x &&& 0xFFFF)
      else if N = 0x09 then some x
      else none
    let sys := fun t i => Raises s t i { cause := cSYSREG, detail := n.zeroExtend 64 }
    (Issues (.sysrd c d n) s k → ∃ t, exec (.sysrd c d n) s = .next t ∧
      (match known with | some v => ScalarWritten s t k k.next d v | none => sys t (.sysrd c d n))) ∧
    (Issues (.syswr c a n) s k → ∃ t, exec (.syswr c a n) s = .next t ∧
      (match wr with
       | some v => (t.split k.g k.t k.x).view.ctl N = v ∧ (∀ m, m ≠ N → (t.split k.g k.t k.x).view.ctl m = old m) ∧ SameRegisters s t k ∧
          (t.split k.g k.t k.x).pc = k.next ∧ (t.strand k.g k.t).committed = true ∧ SameMemory s t
       | none => sys t (.syswr c a n))) ∧
    (∀ w : BitVec 4, Issues (.fltrd c d w) s k → ∃ t, exec (.fltrd c d w) s = .next t ∧
      ScalarWritten s t k k.next d (BitVec.ofNat 64 (ofLe ((List.range 8).map fun j => S.image.getD (8 * w.toNat + j) 0)))) ∧
    (∀ tag, Issues (.clasp c tag) s k → ∃ t, exec (.clasp c tag) s = .next t ∧ SameRegisters s t k ∧ (t.split k.g k.t k.x).pc = k.next ∧
      (t.strand k.g k.t).committed = true ∧ SameMemory s t ∧
      t.pkg.missed = s.pkg.missed ∧ t.pkg.armed = s.pkg.armed ∧
      (∀ q, s.pkg.trig.getLast? = some q → q.at_ = s.cycle →
        ∃ r, t.pkg.trig = s.pkg.trig.dropLast ++ [r] ∧ r.at_ = s.cycle ∧ r.n = q.n + 1 ∧ r.src = q.src ||| Config.claspSource k.G.core) ∧
      ((∀ q, s.pkg.trig.getLast? = some q → q.at_ ≠ s.cycle) →
        ∃ r, t.pkg.trig = s.pkg.trig ++ [r] ∧ r.at_ = s.cycle ∧ r.n = 1 ∧ r.src = Config.claspSource k.G.core ∧ r.tag = tag))

/-- What a bank does with a request (R134, R139-R151): BRED combines the element with the lane's value; BXADD adds the term t × 2^149 to the cell's 320-bit VALUE exactly, modulo 2^320, and counts it; BXRD gives a special cell its
special value and any other its VALUE rounded to nearest, and marks a poisoned one; BXCLR zeroes the line and cures it; BAXPY and BEWU update each element of the line by R141's formula; KSINIT writes the header and the zero
counters and cures their lines; KSUPD adds the signed contribution to the counter that SketchHash names, modulo 2^48; KSQRY takes each signed counter, and after the last row the median, rounded; KSADD adds eight counters of a line to
those that a visit at the operand's bank has brought (R132), and joins SFLAGS. A poisoned target keeps its bytes, and bit 58 is set where the command has a completion word; a poisoned operand leaves the target poisoned. No other byte
changes. A visit at an operand's bank changes no byte, and keeps the line that it reads; that such a visit may stand anywhere before the request that needs it, and come first where both may go, is the model's choice (log entry 11). -/
def Obligations.BankRequests : Prop :=
  (∀ (s : State) w, s.bankWork s.cur.g s.cur.t = some w → s.mayFetch s.cur.g w = true →
    (s.mayApply s.cur.g w = false ∨ Config.freeBit (s.choice w.id) = true) →
    ∃ t e, exec .bankRequest s = .next t ∧ t.mem = s.mem ∧ e ∈ (t.core s.cur.g).bank ∧ e.id = w.id ∧ e.cur = w.cur ∧ e.fetched = w.fetched + 1 ∧
      ∀ r, w.range = some r →
        let q := lineRange r w.fetched
        e.carry.get? w.fetched = some (if s.bkPoisoned w.part q.1 q.2 then none else some (s.bkRead w.part q.1 q.2))) ∧
  (∀ (s : State) w,
    let p := w.part
    let size := (s.settings p).length * 2 ^ 25
    let rd := fun (u : State) b => u.mem.read (bankAddr (s.settings p) b)
    let num := fun (u : State) b n => ofLe ((List.range n).map fun i => rd u (b + i))
    let same := fun (t : State) b n => ∀ x, x < size → ¬(b ≤ x ∧ x < b + n) → rd t x = rd s x
    let L := laneAt w w.cur
    let v := L.data.toNat % 2 ^ 32
    let sg := fun (n x : Nat) => if 2 ^ (n - 1) ≤ x then (x : Int) - 2 ^ n else (x : Int)
    let key32 := fun (x : Nat) => if 2 ^ 31 ≤ x then -1 - ((x - 2 ^ 31 : Nat) : Int) else (x : Int)
    let nan32 := fun (x : Nat) => 0x7F800000 < x % 2 ^ 31
    let ranged := fun (t : State) (e : BankWork) (x y : Nat) (f : Nat → Nat → Nat) =>
      let q := lineElems y w.count 4 w.cur
      x % 4 = 0 → y % 4 = 0 → y + 4 * w.count ≤ size →
      same t (y + 4 * q.1) (4 * q.2) ∧
      (s.bkPoisoned p (y + 4 * q.1) (4 * q.2) = true → t.mem.cells = s.mem.cells ∧ e.bits = w.bits ||| 4) ∧
      (s.bkPoisoned p (y + 4 * q.1) (4 * q.2) = false → (∀ i, q.1 ≤ i → i < q.1 + q.2 → ∃ l, operandAt s w (x + 4 * i) 4 = some l ∧ num t (y + 4 * i) 4 = f (ofLe l) (num s (y + 4 * i) 4)) ∨
        ∃ i, q.1 ≤ i ∧ i < q.1 + q.2 ∧ operandAt s w (x + 4 * i) 4 = none ∧ t.bkPoisoned p (y + 4 * i) 4 = true ∧ e.bits &&& 4 = 4)
    s.bankWork s.cur.g s.cur.t = some w → s.mayApply s.cur.g w = true →
    (s.mayFetch s.cur.g w = false ∨ Config.freeBit (s.choice w.id) = false) → ∃ t e, exec .bankRequest s = .next t ∧
      e ∈ (t.core s.cur.g).bank ∧ e.id = w.id ∧ e.cur = w.cur + 1 ∧ e.token = w.token ∧
      (∀ a, ¬(bankBase ≤ a ∧ a < spBase) → t.mem.read a = s.mem.read a) ∧
      (∀ op, w.kind = .bred op .f32 → (op = .min ∨ op = .max) → L.addr + 4 ≤ size → same t L.addr 4 ∧
        let old := num s L.addr 4
        let le := fun a b => key32 a ≤ key32 b
        (s.bkPoisoned p L.addr 4 = true → t.mem.cells = s.mem.cells) ∧
        (s.bkPoisoned p L.addr 4 = false → num t L.addr 4 =
          if nan32 old then (if nan32 v then 0x7FC00000 else v) else if nan32 v then old
          else if (op = .min) = le old v then old else v)) ∧
      (∀ op ty, w.kind = .bred op ty → ty.isT = true → L.addr + tyBytes ty ≤ size → same t L.addr (tyBytes ty) ∧
        let n := tyBytes ty
        let old := num s L.addr n
        let x := L.data.toNat % 2 ^ (8 * n)
        let less := if ty = .i32 ∨ ty = .i64 then sg (8 * n) old < sg (8 * n) x else old < x
        (s.bkPoisoned p L.addr n = true → t.mem.cells = s.mem.cells) ∧
        (s.bkPoisoned p L.addr n = false → num t L.addr n = match op with
          | .add => (old + x) % 2 ^ (8 * n)
          | .min => if less then old else x
          | .max => if less then x else old
          | .and => old &&& x
          | .or => old ||| x
          | .xor => old ^^^ x
          | .xchg => x)) ∧
      (w.kind = .bxadd → L.addr + 64 ≤ size → same t L.addr 64 ∧
        let val := fun u => sg 320 (num u L.addr 40)
        let fl := fun u b => (rd u (L.addr + 40)).getLsbD b
        let ex : Nat := v / 2 ^ 23 % 256
        let frac : Nat := v % 2 ^ 23
        let mag : Nat := if ex = 0 then frac else (2 ^ 23 + frac) * 2 ^ (ex - 1)
        let term : Int := if 2 ^ 31 ≤ v then -(mag : Int) else mag
        (s.bkPoisoned p L.addr 64 = true → t.mem.cells = s.mem.cells ∧ e.bits = w.bits ||| 4) ∧
        (s.bkPoisoned p L.addr 64 = false →
          (ex ≠ 255 → (val t - (val s + term)) % 2 ^ 320 = 0 ∧ (fl t 4 = true ↔ fl s 4 = true ∨ val s + term < -2 ^ 319 ∨ 2 ^ 319 ≤ val s + term)) ∧
          (ex = 255 → val t = val s ∧ (frac ≠ 0 → fl t 3 = true) ∧ (frac = 0 → v < 2 ^ 31 → fl t 2 = true) ∧ (frac = 0 → 2 ^ 31 ≤ v → fl t 1 = true)) ∧
          (fl t 5 = true ↔ fl s 5 = true ∨ v ≠ 2 ^ 31) ∧ num t (L.addr + 41) 3 = min (num s (L.addr + 41) 3 + 1) 0xFFFFFF)) ∧
      (∀ wide dst, w.kind = .bxrd wide dst → t.mem = s.mem ∧
        let fl := fun b => (rd s (L.addr + 40)).getLsbD b
        let out := e.out.getD L.lane 0
        ((fl 3 = true ∨ (fl 2 = true ∧ fl 1 = true) ∨ fl 4 = true) → out = if wide then 0x7FF8000000000000 else 0x7FC00000) ∧
        (fl 3 = false → fl 4 = false → fl 2 = true → fl 1 = false → out = if wide then 0x7FF0000000000000 else 0x7F800000) ∧
        (fl 3 = false → fl 4 = false → fl 2 = false → fl 1 = true → out = if wide then 0xFFF0000000000000 else 0xFF800000) ∧
        (fl 3 = false → fl 4 = false → fl 2 = false → fl 1 = false → num s L.addr 40 = 0 →
          out = if num s (L.addr + 41) 3 ≠ 0 ∧ fl 5 = false then (if wide then 0x8000000000000000 else 0x80000000) else 0) ∧
        (fl 3 = false → fl 4 = false → fl 2 = false → fl 1 = false → num s L.addr 40 ≠ 0 →
          out = BitVec.ofNat 64 (roundTo (if wide then .f64 else .f32) 0 0 (Num.ofInt (sg 320 (num s L.addr 40)) (-149))).bits) ∧
        (s.bkPoisoned p L.addr 64 = true → e.outMark.get? L.lane = some { addr := L.key, detail := w.pc.zeroExtend 64 }) ∧
        (s.bkPoisoned p L.addr 64 = false → e.outMark = w.outMark)) ∧
      (w.kind = .bxclr → L.addr % 64 = 0 → L.addr + 64 ≤ size → same t L.addr 64 ∧ (∀ i, i < 64 → rd t (L.addr + i) = 0) ∧ t.bkPoisoned p L.addr 64 = false) ∧
      (∀ a x y, w.kind = .baxpy a x y → ranged t e x y fun X Y => (fFma .f32 w.mode 0 false false (dec32 a.toNat) (dec32 X) (dec32 Y)).bits) ∧
      (∀ a b x y, w.kind = .bewu .scadd a b x y → ranged t e x y fun X Y =>
        (fFma .f32 w.mode 0 false false (dec32 a.toNat) (dec32 X) (dec32 (fMul .f32 w.mode 0 (dec32 b.toNat) (dec32 Y)).bits)).bits) ∧
      (∀ a b x y, w.kind = .bewu .mul a b x y → ranged t e x y fun X Y => (fMul .f32 w.mode 0 (dec32 X) (dec32 Y)).bits) ∧
      (∀ a b x y, w.kind = .bewu .clamp a b x y → ¬nan32 a.toNat → ¬nan32 b.toNat → key32 a.toNat ≤ key32 b.toNat → ranged t e y y fun _ Y =>
        if nan32 Y then 0x7FC00000 else if key32 Y < key32 a.toNat then a.toNat else if key32 b.toNat < key32 Y then b.toNat else Y) ∧
      (∀ a b x y, w.kind = .bewu .moment a b x y → x % 32 = 0 → y % 16 = 0 → y + 16 * w.count ≤ size →
        let q := lineElems y w.count 16 w.cur
        same t (y + 16 * q.1) (16 * q.2) ∧
        (s.bkPoisoned p (y + 16 * q.1) (16 * q.2) = true → t.mem.cells = s.mem.cells ∧ e.bits = w.bits ||| 4) ∧
        (0 < q.2 → operandAt s w x 32 = none → t.mem.cells = s.mem.cells ∧ e.bits = w.bits ||| 4 ∧ t.bkPoisoned p (y + 16 * q.1) (16 * q.2) = true) ∧
        (s.bkPoisoned p (y + 16 * q.1) (16 * q.2) = false → ∀ l, operandAt s w x 32 = some l → ∀ i, q.1 ≤ i → i < q.1 + q.2 →
          let P := fun j => dec32 (leAt l (4 * j) 4)
          let at_ := fun (u : State) j => num u (y + 16 * i + 4 * j) 4
          let mul := fun a b => dec32 (fMul .f32 w.mode 0 a b).bits
          let G := dec32 (at_ s 0)
          let m1 := (fFma .f32 w.mode 0 false false (P 0) (dec32 (at_ s 1)) (mul (P 1) G)).bits
          let m2 := (fFma .f32 w.mode 0 false false (P 2) (dec32 (at_ s 2)) (mul (P 3) (mul G G))).bits
          let den := fAdd .f32 w.mode 0 (dec32 (fSqrt .f32 w.mode 0 (mul (dec32 m2) (P 6))).bits) (P 4)
          at_ t 0 = at_ s 0 ∧ at_ t 1 = m1 ∧ at_ t 2 = m2 ∧ at_ t 3 = (fDiv .f32 w.mode 0 (mul (dec32 m1) (P 5)) (dec32 den.bits)).bits)) ∧
      (∀ o seed sigma d wd, w.kind = .ksinit o seed sigma d wd → o % 64 = 0 → o + 64 * w.cur + 64 ≤ size →
        let a := o + 64 * w.cur
        same t a 64 ∧ t.bkPoisoned p a 64 = false ∧ (∀ i, 8 ≤ i → i < 64 → rd t (a + i) = 0) ∧
        num t a 8 = if w.cur = 0 then seed % 2 ^ 32 + d % 256 * 2 ^ 32 + wd % 256 * 2 ^ 40 + sigma % 256 * 2 ^ 48 else 0) ∧
      (∀ o seed d wd sigma dst, w.kind = .ksqry o seed d wd sigma dst → 0 < d → d ≤ 7 →
        let K := laneAt w (w.cur / d)
        let r := w.cur % d
        let h := sketchHash seed r wd K.key
        let a := counterAt o wd r h.1
        let c := sg 48 (num s a 8 % 2 ^ 48)
        let row := fun j => (e.out.getD (64 + K.lane * 8 + j) 0).toInt
        let rows := (List.range d).map row
        t.mem = s.mem ∧ row r = (if h.2 then -c else c) ∧ (∀ j, j ≠ r → j < 8 → row j = (w.out.getD (64 + K.lane * 8 + j) 0).toInt) ∧
        (s.bkPoisoned p a 8 = true → (e.outMark.get? K.lane).isSome = true) ∧ (s.bkPoisoned p a 8 = false → e.outMark = w.outMark) ∧
        (r + 1 < d → e.ksat = w.ksat) ∧
        (K.lane < 32 → r + 1 = d → ∀ m ∈ rows, (rows.filter fun x => decide (x < m)).length ≤ (d - 1) / 2 → (d - 1) / 2 < (rows.filter fun x => decide (x ≤ m)).length →
          e.out.getD K.lane 0 = BitVec.ofNat 64 (roundTo .f32 0 0 (Num.ofInt m sigma)).bits ∧ (e.ksat = true ↔ w.ksat = true ∨ 2 ^ 47 ≤ m.natAbs))) ∧
      (∀ o seed d wd sigma ex, w.kind = .ksupd o seed d wd sigma ex → w.cur % (d + 1) ≠ d →
        let K := laneAt w (w.cur / (d + 1))
        let h := sketchHash seed (w.cur % (d + 1)) wd K.key
        let a := counterAt o wd (w.cur % (d + 1)) h.1
        let c := (contribution (K.data.toNat % 2 ^ 32) ex sigma).1
        a + 8 ≤ size → same t a 8 ∧ (s.bkPoisoned p a 8 = true → t.mem.cells = s.mem.cells ∧ e.bits = w.bits ||| 4) ∧ (s.bkPoisoned p a 8 = false →
          (num t a 8 : Int) = (sg 48 (num s a 8 % 2 ^ 48) + if h.2 then -c else c) % 2 ^ 48)) ∧
      (∀ o src d wd, w.kind = .ksadd o src d wd →
        let a := o + 64 * w.cur
        a + 64 ≤ size → same t a 64 ∧
        (s.bkPoisoned p a 64 = true → t.mem.cells = s.mem.cells ∧ e.bits = w.bits ||| 4) ∧
        (operandAt s w (src + 64 * w.cur) 64 = none → t.mem.cells = s.mem.cells ∧ e.bits = w.bits ||| 4 ∧ t.bkPoisoned p a 64 = true) ∧
        (w.cur = 0 → s.bkPoisoned p a 64 = false → ∀ l, operandAt s w src 64 = some l →
          num t (a + 7) 1 = num s (a + 7) 1 ||| leAt l 7 1 ∧ ∀ i, i < 64 → i ≠ 7 → rd t (a + i) = rd s (a + i)) ∧
        (0 < w.cur → s.bkPoisoned p a 64 = false → ∀ l, operandAt s w (src + 64 * w.cur) 64 = some l → ∀ j, j < 8 →
          num t (a + 8 * j) 8 = (num s (a + 8 * j) 8 + leAt l (8 * j) 8) % 2 ^ 48)))

/-! ## Events of the package -/

/-- Cold reset returns everything but the fuses and the free-running memory to its reset value, and the fused lifecycle state applies (R54, R58); fuses move the
lifecycle on, a part in DEBUG staying there (R58); the watchdog stops Limran, and its next start reports or aborts an open layout request (R46); a
UCIe module is lost (R11); the clock follows power and temperature, and at 115 °C nothing moves (R9, R16; when a hold ends and what a trip stops beside the partitions
is the model's choice, log entry 36, and so is that a cold reset leaves the bytes of memory as they were, log entry 6). A trigger is on its way for no less than 24 cycles, with those of its own cycle; the registers that are armed when it arrives latch everything
at once and hold it until they are armed again, and where they are not it is counted as missed (R17, R401). -/
def Obligations.PackageEvents : Prop :=
  (∀ s : State,
    (∃ t, exec .coldReset s = .next t ∧
      t = { State.reset with stepNo := s.stepNo, nextId := s.nextId, stim := s.stim, mem := s.mem, ctxs := s.ctxs, sec := t.sec } ∧
      t.sec.fused = s.sec.fused ∧ t.sec.lcs = s.sec.fused ∧ t.sec.seed = s.sec.seed ∧ t.sec.dbgHash = s.sec.dbgHash ∧ t.sec.challenge = none ∧
      t.sec.rcount = 0 ∧ (t.sec.portOpen = true ↔ s.sec.fused = .manufacture)) ∧
    (∀ retired seed hash, ∃ t, exec (.lifecycleFuse retired seed hash) s = .next t ∧
      (t.sec.lcs ≠ .retired ∨ s.sec.lcs = .retired → t = { s with sec := t.sec }) ∧
      (t.sec.lcs = .retired → s.sec.lcs ≠ .retired → layParts t.layout = []) ∧
      (s.sec.lcs = .debug → t.sec.lcs = .debug) ∧ (s.sec.lcs ≠ .debug → t.sec.lcs = t.sec.fused) ∧
      (retired = false → s.sec.fused = .manufacture → t.sec.fused = .provisioned ∧ t.sec.seed = some (sliceB seed 0 57) ∧ t.sec.dbgHash = hash) ∧
      (retired = false → s.sec.fused = .provisioned → t.sec.fused = .deployed) ∧ (retired = true → s.sec.fused = .deployed → t.sec.fused = .retired) ∧
      (s.sec.fused = .retired → t.sec.fused = .retired) ∧ (s.sec.fused ≠ .manufacture → t.sec.seed = s.sec.seed ∧ t.sec.dbgHash = s.sec.dbgHash)) ∧
    (∃ t, exec .mpWatchdogReset s = .next t ∧ t = { s with pkg := { s.pkg with mpUp := false } }) ∧
    (s.sec.unlock = none → ∃ t, exec .limranStart s = .next t ∧ t = { s with pkg := t.pkg, sec := { s.sec with meas := t.sec.meas } } ∧ t.pkg.mpUp = true ∧
      t.layout = s.layout ∧ t.pkg.layGo = false ∧
      (s.pkg.layGo = true → t.pkg.layStat = (if s.pkg.layFlipped then 0x0 else 0x7) ∧
        (s.pkg.layFlipped = false → (if s.pkg.layActB then t.pkg.layA else t.pkg.layB) = [])) ∧
      (s.pkg.layGo = false → t.pkg.layStat = s.pkg.layStat ∧ t.pkg.layA = s.pkg.layA ∧ t.pkg.layB = s.pkg.layB)) ∧
    (∀ m, ∃ t, exec (.ucieModuleTrainingFailure m) s = .next t ∧
      t = { s with pkg := { s.pkg with ucie0 := t.pkg.ucie0, ucie1 := t.pkg.ucie1, log := t.pkg.log } } ∧
      (m % 2 = 0 → t.pkg.ucie0 = false ∧ t.pkg.ucie1 = s.pkg.ucie1) ∧ (m % 2 = 1 → t.pkg.ucie1 = false ∧ t.pkg.ucie0 = s.pkg.ucie0) ∧
      (t.pkg.ucie0 = false → t.pkg.ucie1 = false → ∀ f, t.presented f = false)) ∧
    (∀ mw, ∃ t, exec (.powerSample mw) s = .next t ∧ t = { s with pkg := { s.pkg with power := t.pkg.power, clock := t.pkg.clock } } ∧
      (∃ old, s.pkg.power ++ [mw] = old ++ t.pkg.power) ∧ (9 ≤ s.pkg.power.length → t.pkg.power.length = 10) ∧
      (s.pkg.hot = true → t.pkg.clock = .ghz12) ∧
      (s.pkg.hot = false → t.pkg.power.length = 10 →
        (32000000 < t.pkg.power.sum → t.pkg.clock = if s.pkg.clock = .ghz17 then .ghz15 else .ghz12) ∧
        (t.pkg.power.sum < 30000000 → t.pkg.clock = if s.pkg.clock = .ghz12 then .ghz15 else .ghz17) ∧
        (30000000 ≤ t.pkg.power.sum → t.pkg.power.sum ≤ 32000000 → t.pkg.clock = s.pkg.clock))) ∧
    (∀ above, ∃ t, exec (.junctionTemperature105 above) s = .next t ∧ t = { s with pkg := { s.pkg with hot := above, clock := t.pkg.clock } } ∧
      t.pkg.clock = if above then .ghz12 else s.pkg.clock) ∧
    (∃ t, exec .thermalTrip s = .next t ∧ t = { s with pkg := { s.pkg with trip := true, log := s.pkg.log ++ [.thermalTrip] } } ∧ t.acts = [])) ∧
  (∀ s : State,
    (∀ src tag, ∃ t, exec (.claspTrigger src tag) s = .next t ∧ t = { s with pkg := { s.pkg with trig := t.pkg.trig } } ∧
      (∀ q, s.pkg.trig.getLast? = some q → q.at_ = s.cycle →
        ∃ r, t.pkg.trig = s.pkg.trig.dropLast ++ [r] ∧ r.at_ = s.cycle ∧ r.n = q.n + 1 ∧ r.src = q.src ||| src) ∧
      ((∀ q, s.pkg.trig.getLast? = some q → q.at_ ≠ s.cycle) →
        ∃ r, t.pkg.trig = s.pkg.trig ++ [r] ∧ r.at_ = s.cycle ∧ r.n = 1 ∧ r.src = src ∧ r.tag = tag)) ∧
    (∃ t, exec .snapshotLatch s = .next t ∧
      (∀ q r, s.pkg.trig = q :: r → q.at_ + 24 ≤ s.cycle →
        (s.pkg.armed = true → t = { s with pkg := { s.pkg with trig := r, armed := false, snap := t.pkg.snap } } ∧
          ∃ n, t.pkg.snap = some n ∧ n.src = q.src ∧ n.tag = q.tag ∧ n.gangs = s.gangs ∧ n.cores = s.cores ∧ n.queues = s.queues ∧ n.parts = s.parts ∧
            n.groups = s.groups ∧ n.ckpts = s.ckpts ∧ n.fns = s.fns ∧ n.peers = s.peers ∧ n.lkres = s.lkres ∧ n.trans = s.trans ∧
            n.banks = (s.mem.cells.filter fun c => decide (bankBase ≤ c.1)) ∧ n.poison = s.mem.poison.filter fun a => decide (bankBase ≤ a)) ∧
        (s.pkg.armed = false → t = { s with pkg := { s.pkg with trig := r, missed := t.pkg.missed } } ∧
          t.pkg.missed.toNat = min (s.pkg.missed.toNat + q.n) 0xFFFF)) ∧
      ((∀ q r, s.pkg.trig = q :: r → s.cycle < q.at_ + 24) → t = s)) ∧
    (∃ t, exec .snapshotRearm s = .next t ∧ t = { s with pkg := { s.pkg with armed := true } }))

/-- An uncorrectable error of a core kills every gang resident there and quarantines the core (R110); a poisoned unit stays poisoned and no byte changes (R10, R110; that an error anywhere but in HBM and the banks poisons nothing is the model's reading, log entry 34);
correctable errors are counted, and the sixteenth of a weight slot within 2^24 cycles fences it (R111, R223); a core or slot that passes its test
returns to service, the core scrubbed, and a core that fails its test is tested no more (R111, R223). -/
def Obligations.HardwareErrors : Prop :=
  ∀ s : State,
    (∀ core, core < Config.cores → ∃ t, exec (.uncorrectableCoreError core) s = .next t ∧ (t.core core).quarantined = true ∧
      (∀ g G, s.gangs.get? g = some G → G.resident = true → G.core = core → (t.gang g).killed = true ∧ (t.gang g).phase = .dead) ∧
      ∀ c, c ≠ core → (t.core c).quarantined = (s.core c).quarantined) ∧
    (∀ a, (a < hbmBytes ∨ bankBase ≤ a ∧ a < bankBase + 2 ^ 29) → ∃ t, exec (.poisonError a) s = .next t ∧
      t = { s with mem := { s.mem with poison := t.mem.poison } } ∧ poisonUnit a ∈ t.mem.poison ∧
      (∀ b, b ∈ t.mem.poison ↔ b = poisonUnit a ∨ b ∈ s.mem.poison) ∧ SameMemory s t) ∧
    (∀ a, ¬(a < hbmBytes ∨ bankBase ≤ a ∧ a < bankBase + 2 ^ 29) → exec (.poisonError a) s = .next s) ∧
    (∀ k, exec (.correctableError k none) s = .next { s with pkg := { s.pkg with cecnt := s.pkg.cecnt.set k (s.pkg.cecnt.getD k 0 + 1) } }) ∧
    (∀ k c w, w < 4 → ∃ t, exec (.correctableError k (some (c, w))) s = .next t ∧
      t.pkg.cecnt = s.pkg.cecnt.set k (s.pkg.cecnt.getD k 0 + 1) ∧ t = { s with pkg := t.pkg, cores := t.cores } ∧
      let recent := ((s.core c).slotErr.getD w []).filter fun at_ => decide (s.cycle < at_ + 2 ^ 24)
      ((t.core c).fenced.getLsbD w = true ↔ (s.core c).fenced.getLsbD w = true ∨ 15 ≤ recent.length) ∧
        ∀ v, v < 4 → v ≠ w → (t.core c).fenced.getLsbD v = (s.core c).fenced.getLsbD v) ∧
    (∀ core pass, ∃ t, exec (.quarantinedCoreTest core pass) s = .next t ∧
      let tested := (s.core core).quarantined = true ∧ (s.core core).failed = false
      (tested → pass = false → t = s.setCore core fun C => { C with failed := true }) ∧ (¬tested → t = s) ∧
      (tested → pass = true → (t.core core).quarantined = false ∧ t = { s with cores := t.cores, mem := t.mem } ∧
        ∀ o, o < 2 ^ 18 → t.mem.read (spBase + core * 2 ^ 18 + o) = 0)) ∧
    (∀ core w pass, w < 4 → ∃ t, exec (.fencedSlotTest core w pass) s = .next t ∧ (pass = false → t = s) ∧
      (pass = true → t = { s with cores := t.cores } ∧ (t.core core).fenced.getLsbD w = false ∧
        ∀ v, v < 4 → v ≠ w → (t.core core).fenced.getLsbD v = (s.core core).fenced.getLsbD v))

/-! ## Queues and commands -/

/-- QASSIGN, QCTL and the notify register act as R20, R22 and R24 say: an assignment takes effect only on a disabled queue outside ERROR, and drops what is left of the queue's commands (the model's choice, log entry 23); enabling reads and
checks the descriptor, QRESET of the same write acting first; clearing EN frees the slot; QRESET is ignored while EN is 1, and forgets a command that failed after it had started, with the SIGNALs behind it (the model's choice, log entry 21); a notify write records PIDX, and one that is not an aligned write of 8 bytes
is counted; a waiting count above the ring's size is an error (R21). While a slot is free, the mapper binds a READY queue of the highest PRIO, at equal PRIO the first after the one last bound there, wrapping (R26 step 1); a slot idle
for 4,096 cycles is freed (step 2), and so is one bound for 65,536 while a queue of no lower PRIO is READY (step 3). -/
def Obligations.QueueRegisters : Prop :=
  (∀ (s : State) f q,
    (∀ v, ∃ t, exec (.qassignWrite q v) s = .next t ∧
      (s.pf0Open = true → q < 4096 → (s.queue q).en = false → (s.queue q).err = false →
        t = { s with queues := t.queues } ∧ (t.queue q).valid = v.getLsbD 7 ∧ (t.queue q).func = (v.extractLsb' 0 6).toNat ∧ (t.queue q).en = false ∧
          (t.queue q).err = false ∧ (t.queue q).pidx = 0 ∧ (t.queue q).cidx = 0 ∧ (t.queue q).bound = none ∧ (t.queue q).cmds = [] ∧
          ∀ r, r ≠ q → t.queue r = s.queue r) ∧
      (((s.queue q).en = true ∨ (s.queue q).err = true ∨ 4096 ≤ q ∨ s.pf0Open = false) → t = s)) ∧
    (s.barOpen f = true → s.owns f q = true →
      (∀ v, q < 4096 → v.getLsbD 0 = false → exec (.registerWrite f (0x10000 + 8 * q) v) s = exec (.queueDisable f q (v.getLsbD 1)) s) ∧
      (∀ z : Bool, ∃ t, (z = false → exec (.queueEnable f q) s = .next t) ∧
        (∀ v, q < 4096 → v.getLsbD 0 = true → v.getLsbD 1 = z → exec (.registerWrite f (0x10000 + 8 * q) v) s = .next t) ∧
        ((s.queue q).en = true → t = s) ∧
        ((s.queue q).en = false → ∀ p, s.fnPart f = some p →
          let u := if z then s.setQueue q fun Q => { Q with pidx := 0, cidx := 0, err := false, cmds := dropFailed false Q.cmds } else s
          (∀ e, s.readVa p ((s.fn f).qtbase.toNat + 64 * q) 64 = .error e → (t.queue q).en = true ∧ (t.queue q).err = true ∧ SameMemory s t) ∧
          (∀ l, s.readVa p ((s.fn f).qtbase.toNat + 64 * q) 64 = .ok l →
            let good := leAt l 14 2 = 0 ∧ leAt l 32 32 = 0 ∧ leAt l 0 8 % 4096 = 0 ∧ leAt l 16 8 % 8 = 0 ∧ leAt l 24 8 % 8 = 0 ∧ 4 ≤ leAt l 8 1 ∧
              leAt l 8 1 ≤ 16 ∧ leAt l 9 1 ≤ 15 ∧ leAt l 12 2 ≤ 255
            let fits := ((u.queue q).pidx - (u.queue q).cidx).toNat ≤ 2 ^ leAt l 8 1
            (t.queue q).en = true ∧ (t.queue q).desc = qdescOf l ∧ ((u.queue q).err = false → ((t.queue q).err = true ↔ ¬(good ∧ fits))) ∧
              (good → fits → t = u.setQueue q fun Q => { Q with en := true, desc := qdescOf l })))) ∧
      (∀ z, ∃ t, exec (.queueDisable f q z) s = .next t ∧ t = { s with queues := t.queues } ∧ (t.queue q).en = false ∧
        (∀ r, r ≠ q → t.queue r = s.queue r) ∧
        ((s.queue q).en = true → (t.queue q).bound = none ∧ (t.queue q).err = (s.queue q).err ∧ (t.queue q).pidx = (s.queue q).pidx ∧
          (t.queue q).cidx = (s.queue q).cidx) ∧
        ((s.queue q).en = false → z = true → (t.queue q).pidx = 0 ∧ (t.queue q).cidx = 0 ∧ (t.queue q).err = false) ∧
        ((s.queue q).en = false → z = false → t = s)) ∧
      (∃ t, exec (.qreset f q) s = .next t ∧ ((s.queue q).en = true → t = s) ∧
        ((s.queue q).en = false → t = s.setQueue q fun Q => { Q with pidx := 0, cidx := 0, err := false, cmds := dropFailed false Q.cmds })) ∧
      (∀ v, ∃ t, exec (.notifyWrite f q v 8 0) s = .next t ∧ (t.queue q).pidx = v.extractLsb' 0 32 ∧ (t.queue q).cidx = (s.queue q).cidx ∧
        let late := (s.queue q).en = true ∧ 2 ^ (s.queue q).desc.log2n < (v.extractLsb' 0 32 - (s.queue q).cidx).toNat
        ((s.queue q).err = false → ((t.queue q).err = true ↔ late)) ∧
          (¬late ∨ (s.queue q).err = true → t = { s with queues := t.queues } ∧ ∀ r, r ≠ q → t.queue r = s.queue r))) ∧
    (∀ v size off, (s.barOpen f = false ∨ 8 ≤ off) → exec (.notifyWrite f q v size off) s = .next s) ∧
    (s.barOpen f = true → ∀ v size off, off < 8 → (off ≠ 0 ∨ size ≠ 8 ∨ s.owns f q = false) →
      exec (.notifyWrite f q v size off) s =
        .next (s.setFn f fun F => { F with dncnt := if F.dncnt = 0xFFFFFFFF then 0xFFFFFFFF else F.dncnt + 1 }))) ∧
  (∀ s : State,
    (∃ t, exec .mapperBind s = .next t ∧
      ((Config.activeSlots ≤ s.boundCount ∨ ∀ q, s.queueReady q = false) → t = s) ∧
      (s.boundCount < Config.activeSlots → (∃ q, s.queueReady q = true) → (s.queues.map Prod.fst).Pairwise (· < ·) →
        ∃ q, s.queueReady q = true ∧ (t.queue q).bound = some s.cycle ∧ t = { s with queues := t.queues, rr := t.rr } ∧
          (∀ r, r ≠ q → t.queue r = s.queue r) ∧ t.rr.get? (s.queue q).desc.prio = some q ∧
          ∀ r, s.queueReady r = true → (s.queue r).desc.prio ≤ (s.queue q).desc.prio ∧
            ((s.queue r).desc.prio = (s.queue q).desc.prio → match s.rr.get? (s.queue q).desc.prio with
              | none => q ≤ r
              | some last => if last < q then last < r → q ≤ r else r ≤ last ∧ q ≤ r))) ∧
    (∃ t, exec .slotIdleFree s = .next t ∧
      let Q := s.queue s.cur.g
      let free := Q.bound.isSome = true ∧ ∃ n, Q.idle = some n ∧ n + 4096 ≤ s.cycle
      (free → t = s.setQueue s.cur.g fun Q => { Q with bound := none, idle := none }) ∧ (¬free → t = s)) ∧
    (∃ t, exec .slotBindLimit s = .next t ∧
      let Q := s.queue s.cur.g
      let free := (∃ n, Q.bound = some n ∧ n + 65536 ≤ s.cycle) ∧ ∃ r, s.queueReady r = true ∧ Q.desc.prio ≤ (s.queue r).desc.prio
      (free → t = s.setQueue s.cur.g fun Q => { Q with bound := none, idle := none }) ∧ (¬free → t = s)))

/-- LAUNCH comes to the region walk with its first gang (R28, R31, R32); region commands define, set and destroy regions (R34-R39); INVOKE writes the locket of R394 to its writeback VA (R29, R75); CAPTURE asks
for a generation, which opens at once where none is open and stops its queue where its area is no good (R130); SIGNAL and FENCE are entered (R28); an OP that is not listed, a slot that fails R27 (a reserved field, an alignment, a range), or an operand that cannot be read stops the queue (R30). In which order these
and a command's own checks are made is the model's choice, and so is what a CREATE under, and a DESTROY of, a region whose destruction has begun does (log entry 21). -/
def Obligations.CommandsStart : Prop :=
  ∀ (s : State) p l,
    let q := s.cur.g
    let Q := s.queue q
    let rs := (s.part p).regions
    let va := leAt l 8 8
    (s.parts.get? p).isSome →
    (Taken s 1 p l →
      let n := leAt l 16 4
      let first := leAt l 20 4
      (∀ R, s.readLaunch p va (s.regionCause p q) = .ok R → first + n ≤ 2 ^ 32 → ∃ t u, exec .launch s = .next t ∧
        CmdEntered s s u l (.launch R (first + 1) (n - 1) n false) ∧ t = { u with nextId := s.nextId + 1, gangs := s.gangs.set s.nextId (t.gang s.nextId) } ∧
        let G := t.gang s.nextId
        G.phase = .walk ∧ G.part = p ∧ G.fn = Q.func ∧ G.queue = some q ∧ G.cmd = Q.nextCmd ∧ G.index = first ∧ G.count = n ∧ G.lrec = R ∧ G.region = R.region) ∧
      (∀ c, s.readLaunch p va (s.regionCause p q) = .error c → ∃ t, exec .launch s = .next t ∧ StoppedAt s t l c) ∧
      (∀ R, s.readLaunch p va (s.regionCause p q) = .ok R → 2 ^ 32 < first + n → ∃ t, exec .launch s = .next t ∧ StoppedAt s t l 0x05)) ∧
    (Taken s 2 p l → s.regionCause p q (leAt l 16 2) = none →
      let r := leAt l 18 2
      let depth := ((rs.get? (leAt l 16 2)).map Region.depth).getD 0 + 1
      (∀ e, s.readVa p va 512 = .error e → ∃ t, exec .regionCreate s = .next t ∧ StoppedAt s t l 0x04) ∧
      ∀ b, s.readVa p va 512 = .ok b →
        let new := rs.set r (Region.make (leAt l 16 2) depth (rcbOf b) (some (BitVec.ofNat 64 va)))
        ((rs.get? r).isSome → ∃ t, exec .regionCreate s = .next t ∧ StoppedAt s t l 0x09) ∧
        (rs.get? r = none → 7 < depth → ∃ t, exec .regionCreate s = .next t ∧ StoppedAt s t l 0x08) ∧
        (rs.get? r = none → depth ≤ 7 → masksOk new = false → ∃ t, exec .regionCreate s = .next t ∧ StoppedAt s t l 0x0B) ∧
        (rs.get? r = none → depth ≤ 7 → masksOk new = true → ∃ t u, exec .regionCreate s = .next t ∧ CmdPassed s u p ∧
          t = u.setPart p fun P => { P with regions := new })) ∧
    (Taken s 3 p l → s.regionCause p q (leAt l 16 2) = none → ∀ b, s.readVa p va 512 = .ok b →
      let r := leAt l 16 2
      let c := if r = 0 then { rcbOf b with ovr := BitVec.allOnes 64 } else rcbOf b
      let new := rs.modify r fun R => { R with rcb := c, image := some (BitVec.ofNat 64 va) }
      let ok := (r = 0 → c.setmask = setmaskOf (s.settings p)) ∧ masksOk new = true
      (ok → ∃ t u, exec .regionSet s = .next t ∧ CmdPassed s u p ∧ t = u.setPart p fun P => { P with regions := new }) ∧
      (¬ok → ∃ t, exec .regionSet s = .next t ∧ StoppedAt s t l 0x0B)) ∧
    (Taken s 4 p l → s.regionCause p q (leAt l 16 2) = none →
      let r := leAt l 16 2
      let children := ∃ c ∈ rs, c.1 ≠ 0 ∧ c.2.parent = r
      let begun := (rs.get? r).map Region.destroying = some true
      (children → ¬begun → ∃ t, exec .regionDestroy s = .next t ∧ StoppedAt s t l 0x0A) ∧
      ((¬children ∨ begun) → ∃ t, exec .regionDestroy s = .next t ∧ (t.queue q).cidx = Q.cidx + 1 ∧
        (s.regionGangs p r = [] → (∀ c ∈ (t.queue q).cmds, c.kind ≠ .destroy r) ∧ (¬children → (t.part p).regions.get? r = none) ∧
          (children → ((t.part p).regions.get? r).map Region.destroying = some true)) ∧
        (s.regionGangs p r ≠ [] → ((t.part p).regions.get? r).map Region.destroying = some true ∧ ∃ c ∈ (t.queue q).cmds, c.kind = .destroy r))) ∧
    (Taken s 5 p l → (∀ c ∈ Q.cmds, ∀ a st e g, c.kind = .invoke a st e g → st = 0) →
      let wait := leAt l 1 1 % 2 = 1
      let addr := leAt l 1 1 / 2 % 2 = 1
      let lk := BitVec.ofNat 64 (leAt l 40 8)
      let args := s.readVa p (leAt l 24 8) (leAt l 20 1)
      let backs := (∃ x, s.writeLeaves p va 8 = .ok x) ∧ (wait → ∃ x, s.writeLeaves p (leAt l 32 8) 8 = .ok x) ∧ ∃ x, args = .ok x
      let region := Q.desc.region
      let broke := withinBudgets rs region [0, 0, 0, 0, 0, 1] false = false
      let free := fun i => i < Config.lrtEntries ∧ (s.entry p i).st = .free
      (rs.get? region = none → ∃ t, exec .invoke s = .next t ∧ StoppedAt s t l 0x06) ∧
      ((rs.get? region).isSome → ¬backs → ∃ t, exec .invoke s = .next t ∧ StoppedAt s t l 0x04) ∧
      ((rs.get? region).isSome → backs → addr → s.badTarget p lk = true → ∃ t, exec .invoke s = .next t ∧ StoppedAt s t l 0x10) ∧
      ((rs.get? region).isSome → backs → addr → s.badTarget p lk = false → s.storeUsed p ≥ Config.forwardStore → exec .invoke s = .next s) ∧
      ((rs.get? region).isSome → backs → (addr → s.badTarget p lk = false ∧ s.storeUsed p < Config.forwardStore) → ∃ t u, exec .invoke s = .next t ∧
        CmdPassed s u p ∧ (t.queue q).cidx = Q.cidx + 1 ∧ (t.queue q).err = false ∧
        let told := fun (v : DWord) => t.mem = (u.tryWriteVa p va (leBytes 8 v.toNat)).mem
        (broke → told (nullLocket s.pkg.pkgid p tcBUDGET)) ∧ (¬broke → (∀ j, ¬free j) → told (nullLocket s.pkg.pkgid p tcTABLEFULL)) ∧
        (¬broke → ∀ j, free j → (∀ i, i < j → ¬free i) →
          told (mkLocket s.pkg.pkgid p j (s.entry p j).gen (if addr then 0x30 else 0x20)) ∧ (t.entry p j).queue = some (q, Q.nextCmd) ∧
            (t.entry p j).gang = none ∧ (t.entry p j).region = region))) ∧
    (Taken s 6 p l →
      let c : CapGen := { area := BitVec.ofNat 64 va, bytes := leAt l 16 8, used := 64, pages := 0, queue := q, cmd := Q.nextCmd, first := none }
      let free := (s.part p).cap = none ∧ (s.part p).capWait = []
      (free → s.areaOk p c = false → ∃ t, exec .capture s = .next t ∧ StoppedAt (s.badArea p c) t l 0x0F) ∧
      ((free → s.areaOk p c = true) → ∃ t u v, exec .capture s = .next t ∧ CmdPassed s u p ∧ CmdEntered s u v l .capture ∧
        (free → t = v.openCapture p c) ∧ (¬free → t = v.setPart p fun P => { P with capWait := P.capWait ++ [c] }))) ∧
    (Taken s 7 p l → ∃ t u, exec .signal s = .next t ∧ CmdPassed s u p ∧
      CmdEntered s u t l (.signal (BitVec.ofNat 64 va) (BitVec.ofNat 64 (leAt l 16 8)) (leAt l 1 1 % 2 == 1) (leAt l 24 2))) ∧
    (Taken s 8 p l → (∀ c ∈ Q.cmds.head?, ∀ m a v d, c.kind ≠ .fence m a v d) → ∃ t, exec .queueFence s = .next t ∧
      CmdEntered s s t l (.fence (leAt l 1 1 % 2 == 1) (BitVec.ofNat 64 va) (BitVec.ofNat 64 (leAt l 16 8)) s.cycle)) ∧
    (s.mayTake q = true → s.fnPart Q.func = some p →
      (s.slotAt p q = none → ∃ t, exec .opNotDefined s = .next t ∧ t = s.queueError q 0 Q.cidx.toNat 0x04 0 ∧ (t.queue q).err = true) ∧
      (s.slotAt p q = some l → (leAt l 0 1 < 1 ∨ 8 < leAt l 0 1) → ∃ t, exec .opNotDefined s = .next t ∧ StoppedAt s t l 0x01)) ∧
    (s.mayTake q = true → s.fnPart Q.func = some p → s.slotAt p q = some l →
      (∀ c ∈ Q.cmds, ∀ a st e g, c.kind = .invoke a st e g → st = 0) → (∀ c ∈ Q.cmds.head?, ∀ m a v d, c.kind ≠ .fence m a v d) →
      let fl := leAt l 1 1
      let on := fl % 2 = 1
      ∀ ev reserved aligned inRange,
        (ev, reserved, aligned, inRange) ∈
          [(Instr.launch, fl = 0 ∧ leAt l 24 40 = 0, leAt l 8 8 % 256 = 0, 1 ≤ leAt l 16 4 ∧ leAt l 16 4 ≤ 2 ^ 24),
           (.regionCreate, fl = 0 ∧ leAt l 20 44 = 0, leAt l 8 8 % 512 = 0, 1 ≤ leAt l 18 2 ∧ leAt l 18 2 ≤ 4095),
           (.regionSet, fl = 0 ∧ leAt l 18 46 = 0, leAt l 8 8 % 512 = 0, True),
           (.regionDestroy, fl = 0 ∧ leAt l 8 8 = 0 ∧ leAt l 18 46 = 0, True, 1 ≤ leAt l 16 2 ∧ leAt l 16 2 ≤ 4095),
           (.invoke, fl < 4 ∧ leAt l 21 3 = 0 ∧ leAt l 48 16 = 0, leAt l 8 8 % 8 = 0 ∧ leAt l 24 8 % 8 = 0 ∧ (on → leAt l 32 8 % 8 = 0), leAt l 20 1 ≤ 64),
           (.capture, fl = 0 ∧ leAt l 24 40 = 0, leAt l 8 8 % 4096 = 0, True),
           (.signal, fl < 2 ∧ leAt l 26 38 = 0, leAt l 8 8 % 8 = 0, on → leAt l 24 2 ≤ 255),
           (.queueFence, fl < 2 ∧ leAt l 24 40 = 0, on → leAt l 8 8 % 8 = 0, True)] →
        opEvent (leAt l 0 1) = ev → ev ≠ .opNotDefined →
          (¬(reserved ∧ leAt l 2 2 = 0) → ∃ t, exec ev s = .next t ∧ StoppedAt s t l 0x02) ∧
          ((reserved ∧ leAt l 2 2 = 0) → ¬aligned → ∃ t, exec ev s = .next t ∧ StoppedAt s t l 0x03) ∧
          ((reserved ∧ leAt l 2 2 = 0) → aligned → ¬inRange → ∃ t, exec ev s = .next t ∧ StoppedAt s t l 0x0E))

/-- A SIGNAL's value is written when every earlier command has completed, its vector raised after it; a FENCE is released when they have, and its word, polled every 1,024 cycles, is at least
its value; USAGE is written back no more often than once in 1,024 cycles; a settled INVOKE writes its status word (R28, R29, R38; that a word of either that cannot be written is dropped is the
model's choice, log entries 21 and 23). A generation opens with G inverted, or its CAPTURE stops with cause 0x0F; each page is copied, with its record, behind the last, and the generation closes when none is left or one does not fit (R130,
R131); that a page that the capture engine cannot read counts as captured, and that it reads as the copy engine does, is the model's choice (log entries 21 and 23). -/
def Obligations.CommandsComplete : Prop :=
  ∀ (s : State) p,
    let q := s.cur.g
    let Q := s.queue q
    let P := s.part s.cur.g
    (s.fnPart Q.func = some p → ∀ c r va value irq vec, Q.cmds = c :: r → c.kind = .signal va value irq vec → ∃ t, exec .signalWrite s = .next t ∧
      (∀ e, s.writeLeaves p va.toNat 8 = .error e → (t.queue q).err = true ∧ t.gangs = s.gangs ∧ ∃ d ∈ (t.queue q).cmds, d.id = c.id ∧ d.kind = .failed) ∧
      (∀ ls, s.writeLeaves p va.toNat 8 = .ok ls → (∀ x ∈ ls, s.uncaptured p x.1 = false) →
        t.mem = (s.tryWriteVa p va.toNat (leBytes 8 value.toNat)).mem ∧ (t.queue q).cmds = Q.cmds.filter (fun d => d.id != c.id) ∧
          (irq = false → t.pkg = s.pkg ∧ t.fns = s.fns) ∧ (irq = true → (Q.func, vec) ∈ t.pkg.msixOut ∨ vec ∈ (t.fn Q.func).pba))) ∧
    (∀ c r, Q.cmds = c :: r → c.kind = .failed → exec .signalWrite s = .next s) ∧
    (s.fnPart Q.func = some p → Q.bound.isSome → Q.stop = false → ∀ c r m va value due, Q.cmds = c :: r → c.kind = .fence m va value due →
      let free := fun t => (∃ u, CmdPassed s u p ∧ t = u.setQueue q fun Q => { Q with cmds := Q.cmds.filter fun d => d.id != c.id }) ∨
        ((∃ e, s.writeLeaves p Q.desc.ciwb.toNat 8 = .error e) ∧ (t.queue q).err = true)
      (m = false → ∃ t, exec .queueFence s = .next t ∧ free t) ∧
      (m = true → s.cycle < due → exec .fencePoll s = .next s) ∧
      (m = true → due ≤ s.cycle → ∃ t, exec .fencePoll s = .next t ∧
        (∀ e, s.readVa p va.toNat 8 = .error e → (t.queue q).err = true ∧ (t.queue q).cidx = Q.cidx) ∧
        ∀ b, s.readVa p va.toNat 8 = .ok b → (value.toNat ≤ ofLe b → free t) ∧
          (ofLe b < value.toNat → t = s.setQueue q fun Q =>
            { Q with cmds := Q.cmds.map fun d => if d.id = c.id then { d with kind := .fence true va value (s.cycle + 1024) } else d }))) ∧
    (s.fnPart Q.func = some p → ∀ c va st e g, Q.cmds.find? (fun d => match d.kind with | .invoke _ x _ _ => x != 0 | _ => false) = some c →
      c.kind = .invoke va st e g → ∃ t, exec .invoke s = .next t ∧ t.mem = (s.tryWriteVa p va.toNat (leBytes 8 st.toNat)).mem ∧
        (t.queue q).cmds = Q.cmds.filter (fun d => d.id != c.id) ∧ t.parts = s.parts) ∧
    (∀ R a, P.regions.get? s.cur.t = some R → R.image = some a → ∃ t, exec .usageWriteback s = .next t ∧
      ((R.dirty = false ∨ s.cycle < R.wbAt) → t = s) ∧
      (R.dirty = true → R.wbAt ≤ s.cycle → t.mem = (s.tryWriteVa s.cur.g (a.toNat + 256) ((R.usage.flatMap fun n => leBytes 4 (min n 0xFFFFFFFF)) ++
          leBytes 4 R.dropped.toNat)).mem ∧
        (t.part s.cur.g).regions.get? s.cur.t = some { R with dirty := false, wbAt := s.cycle + 1024 })) ∧
    ((s.parts.get? s.cur.g).isSome → P.cap = none → ∀ c rest, P.capWait = c :: rest → ∃ t, exec .captureStart s = .next t ∧
      (t.part s.cur.g).capWait = rest ∧
      (s.areaOk s.cur.g c = false → (t.part s.cur.g).capG = P.capG ∧ (t.part s.cur.g).cap = none ∧
        ((∃ d ∈ (s.queue c.queue).cmds, d.id = c.cmd) → (t.queue c.queue).err = true ∧ ∃ d ∈ (t.queue c.queue).cmds, d.id = c.cmd ∧ d.kind = .failed) ∧
        let u := (s.setPart s.cur.g fun P => { P with capWait := rest }).tryWriteVa s.cur.g c.area.toNat
          (leBytes 4 4 ++ [if P.capG then 1 else 0, 0, 0, 0] ++ leBytes 8 0 ++ leBytes 8 64 ++ leBytes 40 0)
        ∀ d x, (s.queue c.queue).cmds.find? (fun d => d.id == c.cmd) = some d → s.fnPart (s.queue c.queue).func = some x →
          t.mem = (u.tryWriteVa x (s.queue c.queue).desc.errw.toNat
            (leBytes 8 (d.tag.toNat * 2 ^ 32 + d.idx % 65536 * 2 ^ 16 + 0x0F * 2 ^ 8 + d.op.toNat))).mem) ∧
      (s.areaOk s.cur.g c = true → (t.part s.cur.g).capG = !P.capG ∧
        ((t.part s.cur.g).cap = some c ∨ ((t.part s.cur.g).cap = none ∧ ∀ d ∈ (t.queue c.queue).cmds, d.id ≠ c.cmd)))) ∧
    ((s.parts.get? s.cur.g).isSome → ∀ c, P.cap = some c → c.first = none → ∃ t, exec .capturePageCopy s = .next t ∧
      let closed := (t.part s.cur.g).cap = none ∧ ∀ d ∈ (t.queue c.queue).cmds, d.id ≠ c.cmd
      (s.nextUncaptured s.cur.g = none → closed) ∧
      ∀ x, s.nextUncaptured s.cur.g = some x →
        let read := s.mayCapture s.cur.g x = true
        (¬read → (t.part s.cur.g).cap = some c ∨ closed) ∧
        (read → c.bytes < c.used + 16 + x.pageBytes → closed) ∧
        (read → c.used + 16 + x.pageBytes ≤ c.bytes →
          let c' := { c with used := c.used + 16 + x.pageBytes, pages := c.pages + 1, first := none }
          let size : Byte := if x.bits = 30 then 2 else if x.bits = 21 then 1 else 0
          let page := leBytes 8 x.va ++ [size] ++ leBytes 7 0 ++ s.bytesAt s.cur.g { x with va := x.va - x.off } x.pageBytes
          let head := fun n => leBytes 4 n ++ [if P.capG then 1 else 0, 0, 0, 0] ++ leBytes 8 c'.pages ++ leBytes 8 c'.used ++ leBytes 40 0
          let u := ((s.tryWriteVa s.cur.g (c.area.toNat + c.used) page).markCaptured s.cur.g x).setPart s.cur.g fun P => { P with cap := some c' }
          let v := u.tryWriteVa s.cur.g c.area.toNat (head 1)
          (v.nextUncaptured s.cur.g ≠ none → t = v ∧ (t.part s.cur.g).cap = some c') ∧
          (v.nextUncaptured s.cur.g = none → closed ∧ t.mem = (v.tryWriteVa s.cur.g c.area.toNat (head 2)).mem)))

/-! ## Layout, contexts, function-level reset -/

/-- An accepted request becomes the layout with SEQ one more, its new or changed partitions formed anew and its moved settings scrub-pending; a rejected one changes nothing but the status (R44, R45); while Limran is
down it stays open (R46). A scrub zeroes the setting's banks and scratchpads (R45). -/
def Obligations.LayoutRequests : Prop :=
  ∀ s : State,
    ((s.pf0Open = false ∨ s.pkg.layGo = true) → exec .layctlGo s = .next s) ∧
    (s.pf0Open = true → s.pkg.layGo = false → s.pkg.mpUp = false → exec .layctlGo s = .next { s with pkg := { s.pkg with layGo := true } }) ∧
    (s.pf0Open = true → s.pkg.layGo = false → s.pkg.mpUp = true → s.watchdogDue = false → ∃ t, exec .layctlGo s = .next t ∧
      let n := s.pkg.layReq
      let st := s.layStatus n
      t.pkg.layGo = false ∧ t.pkg.layStat = st ∧
      (st ≠ 0 → t = { s with pkg := { s.pkg with layStat := st, layFlipped := false, log := s.pkg.log ++ [.layout st] } }) ∧
      (st = 0 →
        (∀ p, p < 16 → laySettings n p ≠ [] → connected (laySettings n p) = true) ∧
        (∀ f p, f < 64 → layFn n f = some p → laySettings n p ≠ []) ∧
        (((List.range 16).map (layShare n)).sum ≤ 64) ∧
        (∀ p, p < 16 → layChanges s.layout n p = true → s.quiescent p (layFns s.layout p ++ layFns n p) = true) ∧
        t.layout = withSeq n (laySeq s.layout + 1) ∧ t.queues = s.queues ∧
        (∀ p, p < 16 → t.parts.get? p = if laySettings n p = laySettings s.layout p then s.parts.get? p
          else if laySettings n p = [] then none else some (Part.formed (setmaskOf (laySettings n p)))) ∧
        ∀ k, k < 16 → (t.pkg.scrub.getLsbD k = true ↔ s.pkg.scrub.getLsbD k = true ∨ laySetting s.layout k ≠ laySetting n k))) ∧
    (∃ t, exec .scrubComplete s = .next t ∧
      let k := s.cur.g
      (s.pkg.scrub.getLsbD k = false → t = s) ∧
      (s.pkg.scrub.getLsbD k = true → t = { s with pkg := { s.pkg with scrub := t.pkg.scrub }, mem := t.mem, cores := t.cores } ∧
        (∀ j, j < 16 → t.pkg.scrub.getLsbD j = (s.pkg.scrub.getLsbD j && j != k)) ∧
        (∀ o, o < 2 ^ 25 → t.mem.read (bankBase + k * 2 ^ 25 + o) = 0) ∧
        (∀ o, o < 128 * 2 ^ 18 → t.mem.read (spBase + 128 * k * 2 ^ 18 + o) = 0) ∧
        ∀ a, a < hbmBytes → t.mem.read a = s.mem.read a))

/-- A context save stops the function's queues and takes its gangs off the device with their commands; a restore brings back the queues and gangs of a valid image, wherever its bytes stand, and fails where the state is not valid
(R51; a save whose image cannot be written ends with CTX 3 and nothing leaves, an image that cannot be read fails its restore, bytes that no save wrote re-create nothing, and an INVOKE of the image completes with its locket's outcome: the model's choices, log entry 28). A function-level reset stops the function's queues and kills its gangs; drained, or after its time, it scrubs: the bank window reads zero, the function's registers and queues are at reset, its gangs gone
(R52). Clearing VF Enable resets every VF. A second reset merges into the first (R53). That a reset clears the report window too is the model's choice (log entry 20). -/
def Obligations.ContextsAndResets : Prop :=
  (∀ (s : State) f,
    ((s.barOpen f = false ∨ (s.fn f).ctx = 1) → exec (.contextSave f) s = .next s ∧ exec (.contextRestore f) s = .next s) ∧
    (s.barOpen f = true → (s.fn f).ctx ≠ 1 →
      (∃ t, exec (.contextSave f) s = .next t ∧
        (s.markImage f 1 = none → t = s.setFn f fun F => { F with ctx := 3, ctxOp := 1 }) ∧
        (∀ u, s.markImage f 1 = some u → (t.fn f).ctx = 1 ∧ (t.fn f).ctxOp = 1 ∧ (∀ q, s.owns f q = true → (t.queue q).stop = true) ∧
          ∀ q, s.owns f q = false → t.queue q = s.queue q)) ∧
      (∃ t, exec (.contextRestore f) s = .next t ∧
        let valid := ∃ l, s.readVa ((s.fnPart f).getD 0) (s.fn f).ctxva.toNat 4 = .ok l ∧ ofLe l = 2
        (valid → t = s.setFn f fun F => { F with ctx := 1, ctxOp := 2 }) ∧ (¬valid → t = s.setFn f fun F => { F with ctx := 3, ctxOp := 2 }))) ∧
    (let F := s.fn s.cur.g
     (∃ t, exec .contextSaveComplete s = .next t ∧
      let ready := F.ctx = 1 ∧ F.ctxOp = 1 ∧ F.flr = .off ∧ (∀ g ∈ s.launchedBy s.cur.g, s.setAside g = true) ∧
        ∀ g ∈ s.gangs, g.2.queue = none → g.2.fn ≠ s.cur.g
      (¬ready → t = s) ∧
      let write := ({ s with nextId := s.nextId + 1 } : State).writeVa ((s.fnPart s.cur.g).getD 0) F.ctxva.toNat (imageOf s.nextId)
      (ready → match write with
        | .ok _ => (t.fn s.cur.g).ctx = 2 ∧ (∀ g ∈ s.launchedBy s.cur.g, t.gangs.get? g = none) ∧
          (∀ q, s.owns s.cur.g q = true → (t.queue q).cmds = []) ∧
          ∃ m ∈ t.ctxs, m.id = s.nextId ∧ m.queues = s.queues.filter (fun q => s.owns s.cur.g q.1) ∧ m.gangs.map Prod.fst = s.launchedBy s.cur.g
        | .error _ => t = (s.setFn s.cur.g fun F => { F with ctx := 3, ctxOp := 1 }).stopQueues s.cur.g false)) ∧
     (∃ t, exec .contextRestoreComplete s = .next t ∧
      let ready := F.ctx = 1 ∧ F.ctxOp = 2 ∧ F.flr = .off
      (¬ready → t = s) ∧
      (ready → (t.fn s.cur.g).ctx = 2 ∧
        match s.imageAtVa s.cur.g with
        | none => t = s.setFn s.cur.g fun F => { F with ctx := 2, ctxOp := 2 }
        | some m => (m.queues.map Prod.fst).Nodup → (m.gangs.map Prod.fst).Nodup →
          (∀ q Q, (q, Q) ∈ m.queues → s.owns s.cur.g q = true → t.queue q = { Q with bound := none, idle := none, stop := false, cmds := (t.queue q).cmds } ∧
            List.Forall₂ (fun (c d : Cmd) => d = { c with kind := d.kind } ∧ match c.kind with
              | .invoke va st en ge =>
                let e := s.entry ((s.fnPart s.cur.g).getD 0) en
                let same := (s.fnPart s.cur.g).getD 0 = m.part ∧ e.st ≠ .free ∧ e.proxy = false ∧ e.genA = ge
                if st ≠ 0 ∨ (same ∧ (e.st = .pending ∨ e.st = .migrated)) then d.kind = c.kind
                else ∃ w, d.kind = .invoke va w en ge ∧ (same → w = statusWord en e) ∧ (¬same → w ≠ 0)
              | _ => d.kind = c.kind) Q.cmds (t.queue q).cmds) ∧
          ∀ g G, (g, G) ∈ m.gangs → ∃ H, t.gangs.get? (g + s.nextId) = some H ∧ H.lrec = G.lrec ∧ H.phase = G.phase ∧ H.strands = G.strands ∧
            H.queue = G.queue ∧ H.fn = s.cur.g)))) ∧
  (∀ (s : State) f,
    let stopped := fun (t : State) => (t.fn f).flr = .drain s.cycle ∧ (t.fn f).ctx = 0 ∧ (t.fn f).attStatus = 0 ∧
      (∀ q, s.owns f q = true → (t.queue q).bound = none ∧ (t.queue q).cmds = []) ∧
      ∀ g ∈ s.gangsOfFn f, t.gangs.get? g = none ∨ (t.gang g).killed = true
    (∃ t, exec (.flr f) s = .next t ∧ ((s.presented f = false ∨ (s.fn f).flr ≠ .off) → t = s) ∧
      (s.presented f = true → (s.fn f).flr = .off → stopped t ∧ ∀ h, h ≠ f → t.fn h = s.fn h)) ∧
    (∃ t, exec .vfEnableClear s = .next t ∧ (s.presented 0 = false → t = s) ∧ (s.presented 0 = true → t.fn 0 = s.fn 0 ∧
      ∀ h, 1 ≤ h → h ≤ 63 → (t.fn h).vfOn = false ∧ ((s.fn h).vfOn = true → (t.fn h).flr ≠ .off))) ∧
    (f = s.cur.g → ∃ t, exec .flrDrainEnd s = .next t ∧
      (∀ since, (s.fn f).flr = .drain since →
        let late := since + 1700000 ≤ s.cycle ∨ ((∀ g ∈ s.gangsOfFn f, s.gangDone g = true) ∧ ∀ c ∈ s.cores, ∀ w ∈ c.2.bank, w.fn ≠ f)
        (late → t = s.setFn f fun F => { F with flr := .scrub }) ∧ (¬late → t = s)) ∧
      ((∀ since, (s.fn f).flr ≠ .drain since) → t = s)) ∧
    (f = s.cur.g → ∃ t, exec .flrComplete s = .next t ∧ ((s.fn f).flr ≠ .scrub → t = s) ∧
      ((s.fn f).flr = .scrub → t.fn f = Fn.reset (s.fn f).vfOn ∧
        (∀ q, s.owns f q = true → t.owns f q = true ∧ (t.queue q).en = false ∧ (t.queue q).err = false ∧ (t.queue q).pidx = 0 ∧ (t.queue q).cidx = 0 ∧
          (t.queue q).cmds = []) ∧
        (∀ g ∈ s.gangsOfFn f, t.gangs.get? g = none) ∧ ((∀ g ∈ s.gangsOfFn f, (s.gang g).killed = true) →
        (∀ p o, s.fnPart f = some p → (layWindow s.layout f).1 ≤ o → o < (layWindow s.layout f).1 + (layWindow s.layout f).2 →
          o < (s.settings p).length * 2 ^ 25 → t.mem.read (bankAddr (s.settings p) o) = 0) ∧
        (∀ a, a < hbmBytes → t.mem.read a = s.mem.read a)))))

/-! ## Security and the registers -/

/-- GO captures nonce and evidence, or reports no identity; the report's bytes are those of R57, signature and all, and it counts (R56, R57; that RCOUNT counts the report itself, and that a token is not taken while Limran is down, is the
model's reading, log entry 30). A challenge is the latest, and every verification consumes it (R59). A token that does not
verify leaves the port closed; one that does waits while a layout request is open, and then leaves the part in DEBUG with the port open, no partition, and every setting scrub-pending
(R60). -/
def Obligations.AttestationAndUnlock : Prop :=
  ∀ (s : State) f,
    (s.attOpen f = true → (s.fn f).attStatus ≠ 1 → ∃ t, exec (.attestationGo f) s = .next t ∧
      ((s.sec.lcs = .manufacture ∨ s.sec.seed = none) → t = s.setFn f fun F => { F with attStatus := 3 }) ∧
      (s.sec.lcs ≠ .manufacture → s.sec.seed ≠ none → t = s.setFn f fun F =>
        { F with attStatus := 1, attCap := some (tblBytes F.nonce 0 64, s.evidence f), window := [] })) ∧
    ((s.attOpen f = false ∨ (s.fn f).attStatus = 1) → exec (.attestationGo f) s = .next s) ∧
    (f = s.cur.g → ∀ nonce ev seed, (s.fn f).attCap = some (nonce, ev) → s.sec.seed = some seed → (s.fn f).attStatus = 1 → ∃ t,
      exec .attestationReportDone s = .next t ∧ (t.fn f).attStatus = 2 ∧ t.sec = { s.sec with rcount := s.sec.rcount + 1 } ∧ t.queues = s.queues ∧
      (nonce.length = 64 → ev.length = 322 → tblBytes (t.fn f).window 480 114 =
          sliceB (ed448Sign (privateKey seed) (tblBytes (t.fn f).window 0 480) (ascii "GS-FX1 attest")) 0 114 ∧ tblBytes (t.fn f).window 0 480 =
        [1, 0, ev.getD 0 0, BitVec.ofNat 8 f, ev.getD 1 0, 0, 0, 0] ++ leBytes 8 (s.sec.rcount + 1).toNat ++ sliceB (deviceId seed) 0 16 ++
          sliceB (publicKey seed) 0 57 ++ [0, 0, 0, 0, 0, 0, 0] ++ nonce ++ ev.drop 2)) ∧
    (∀ fresh, ∃ t, exec (.challengeRead fresh) s = .next t ∧ t = { s with sec := { s.sec with challenge := t.sec.challenge } } ∧
      (fresh.length = 16 → t.sec.challenge = some fresh)) ∧
    (∀ token, ∃ t, exec (.debugUnlock token) s = .next t ∧
      (s.pkg.mpUp = false → t = s) ∧
      (s.pkg.mpUp = true → s.sec.lcs ≠ .provisioned → s.sec.lcs ≠ .deployed → t = { s with sec := { s.sec with mbox := 0x1 } }) ∧
      (s.pkg.mpUp = true → (s.sec.lcs = .provisioned ∨ s.sec.lcs = .deployed) → s.sec.tokenGood token = false →
        t = { s with sec := { s.sec with challenge := none, mbox := 0x2 } }) ∧
      (s.pkg.mpUp = true → (s.sec.lcs = .provisioned ∨ s.sec.lcs = .deployed) → s.sec.tokenGood token = true → s.pkg.layGo = true →
        t = { s with sec := { s.sec with challenge := none, unlock := some token } }) ∧
      (s.pkg.mpUp = true → (s.sec.lcs = .provisioned ∨ s.sec.lcs = .deployed) → s.sec.tokenGood token = true → s.pkg.layGo = false →
        t.sec.lcs = .debug ∧ t.sec.fused = s.sec.fused ∧ t.sec.portOpen = true ∧ t.sec.mbox = 0x0 ∧ t.sec.challenge = none ∧
          (∀ k, k < 16 → laySetting t.layout k = none ∧ t.pkg.scrub.getLsbD k = true) ∧ ∀ h, h < 64 → layFn t.layout h = none))

/-- PKGID is written once (R61); RTBASE reads the route table (R61); TLBINV drops the cached translations that it names, once what was stored through them is performed and remote requests through them are answered, and a write while it is busy
is ignored (R120); a write of a function's or an exporter's register keeps its writable bits (R50, R62, R116, R128; that bits below a register's alignment are dropped, and a write that is not aligned to the register with them, is the
model's choice, log entry 20); BAR4 reaches the partition's memory through its tables (R49); GANGCTL acts on the suspended gang that it names (R108), PFQREPLAY on the
parked copies (R129). -/
def Obligations.RegisterWrites : Prop :=
  ∀ (s : State) f v,
    (∃ t, exec (.pkgidWrite v) s = .next t ∧
      (s.pf0Open = true → s.pkg.pkgidSet = false → t = { s with pkg := { s.pkg with pkgidSet := true, pkgid := v.toNat % 4096 } }) ∧
      ((s.pf0Open = false ∨ s.pkg.pkgidSet = true) → t = s)) ∧
    (s.pf0Open = true → ∃ t, exec (.rtbaseWrite v) s = .next t ∧ t = { s with pkg := { s.pkg with rtbase := v &&& ~~~0xFFF, routes := t.pkg.routes } } ∧
      ∀ d, d < 4096 →
        let a := ((v &&& ~~~0xFFF).toNat + 2 * d) % 2 ^ 55
        t.pkg.routes.getD d 0 = if Config.completerAnswers a then BitVec.ofNat 16 (s.leNat (2 ^ 55 + a) 2) else 0) ∧
    (∀ p, s.exports f = some p → (s.parts.get? p).isSome →
      (∀ op ev, (op = 1 ∧ ev = Instr.tlbinvRange f v) ∨ (op = 2 ∧ ev = .tlbinvAll f v) → ∃ t, exec ev s = .next t ∧
        ((s.part p).tlbBusy = true → t = s) ∧
        ((s.part p).tlbBusy = false → t = s.setPart p fun P => { P with tlbBusy := true, tlbva := (v &&& ~~~0x3FF) ||| BitVec.ofNat 64 (op * 256) })) ∧
      (∀ o, (o = 0xC00 ∨ o = 0xC08 ∨ o = 0xC28 ∨ o = 0xC50 ∨ o = 0xC58) → ∃ t, exec (.registerWrite f o v) s = .next t ∧
        t = s.setPart p fun P =>
          if o = 0xC00 then { P with eftbase := v &&& ~~~0x3F } else if o = 0xC08 then { P with eftctl := v &&& 0x1FFFF }
          else if o = 0xC28 then { P with ptbase := v &&& 0x1FFFFFFFFC00001 } else if o = 0xC50 then { P with pfqbase := v &&& ~~~0xFFF }
          else { P with pfqctl := v &&& 0xF01 }) ∧
      (∃ t, exec (.pfqreplayRetry f v) s = .next t ∧ ∀ K C, s.cores.get? K = some C → (s.cores.map Prod.fst).Nodup → (C.copies.map Copy.id).Nodup →
        ∀ c ∈ C.copies, ∀ seq, c.st = .parked seq → s.partOf c.gang = p → (v.getLsbD 63 = true ∨ seq = (v.extractLsb' 0 32).toNat) →
          { c with st := .active } ∈ (t.core K).copies) ∧
      (∃ t, exec (.pfqreplayCancel f v) s = .next t ∧ ∀ K C, s.cores.get? K = some C →
        ∀ c ∈ C.copies, ∀ seq, c.st = .parked seq → s.partOf c.gang = p → (v.getLsbD 63 = true ∨ seq = (v.extractLsb' 0 32).toNat) →
          ∀ d ∈ (t.core K).copies, d.id ≠ c.id)) ∧
    (∃ t, exec .tlbinvComplete s = .next t ∧
      let P := s.part s.cur.g
      let named := fun (e : TlbEnt) => P.tlbva.extractLsb' 8 2 = 2 ∨ e.inRange P.tlbva.toNat = true
      let waits := ∃ C ∈ s.cores, ∃ c ∈ C.2.copies, s.partOf c.gang = s.cur.g ∧ ∃ r ∈ c.rem, r.got < r.bytes ∧ r.status = 0 ∧
        ∃ page bits, r.via = some (page, bits) ∧ named { vpage := page, bits := bits, pte := 0, slot := 0 }
      let through := fun (m : Posted) => (P.tlb.filter fun e => decide (named e)).any fun e => e.reaches m.addr
      let stored := fun (u : State) h k S => ∃ H, u.gangs.get? h = some H ∧ H.part = s.cur.g ∧ H.strands.get? k = some S
      ((P.tlbBusy = false ∨ waits) → t = s) ∧
      ((s.parts.get? s.cur.g).isSome → P.tlbBusy = true → ¬waits →
        (∃ u : State, u = { s with mem := u.mem, gangs := u.gangs } ∧ t = u.setPart s.cur.g fun P => { P with
            tlbBusy := false, tlbva := P.tlbva &&& ~~~0x3FF, tlb := (t.part s.cur.g).tlb, walkc := (t.part s.cur.g).walkc }) ∧
        (∀ e, e ∈ (t.part s.cur.g).tlb ↔ e ∈ P.tlb ∧ ¬named e) ∧
        (∀ e, e ∈ (t.part s.cur.g).walkc ↔ e ∈ P.walkc ∧ ¬(P.tlbva.extractLsb' 8 2 = 2 ∨ e.inRange P.tlbva.toNat = true)) ∧
        (∀ h k S, stored t h k S → ∀ m ∈ S.posted, through m = false) ∧
        ((s.gangs.map Prod.fst).Nodup → (∀ g ∈ s.gangs, (g.2.strands.map Prod.fst).Nodup) →
          ((∀ h k S, stored s h k S → ∀ m ∈ S.posted, through m = false) → t.mem = s.mem) ∧
          ∀ h k S, stored s h k S → (∀ h' k' S', stored s h' k' S' → (∃ m ∈ S'.posted, through m = true) → h' = h ∧ k' = k) →
            PerformedStores s t (dueStores through S.posted).1))) ∧
    (s.barOpen f = true →
      exec (.registerWrite f 0x8 v) s = .next (s.setFn f fun F => { F with qtbase := v &&& ~~~0xFFF }) ∧
      exec (.registerWrite f 0x28 v) s = .next (s.setFn f fun F => { F with ctxva := v &&& ~~~0xFFF }) ∧
      (∀ n, n < 8 → ∃ t, exec (.registerWrite f (0x400 + 8 * n) v) s = .next t ∧ t = s.setFn f (fun F => { F with nonce := (t.fn f).nonce }) ∧
        ∀ i, (t.fn f).nonce.getD i 0 = if 8 * n ≤ i ∧ i < 8 * n + 8 then BitVec.ofNat 8 (v.toNat >>> (8 * (i - 8 * n))) else (s.fn f).nonce.getD i 0) ∧
      (∀ o, o % 8 ≠ 0 → exec (.registerWrite f o v) s = .next s) ∧
      (∃ t u, exec (.gangctlResume f v) s = .next t ∧ exec (.gangctlKill f v) s = .next u ∧
        (∀ w, (w = t ∨ w = u) → (w.fn f).gcStrand = (v.extractLsb' 16 5).toNat ∧ (w.fn f).gcCore = (v.extractLsb' 0 11).toNat ∧
          (w.fn f).gcStatus = if (s.gangNamed f v).isSome then 1 else 2) ∧
        (s.gangNamed f v = none → t.gangs = s.gangs ∧ u.gangs = s.gangs) ∧
        ∀ g, s.gangNamed f v = some g → (∃ G, (g, G) ∈ s.gangs ∧ G.phase = .suspended ∧ G.core = (v.extractLsb' 0 11).toNat) ∧
          ((s.gang g).fresh = false → (s.gang g).savedSp = none → (∀ x ∈ (s.gang g).strands, x.2.atFlash = true → x.2.exited = true) → (s.gang g).pmode ≠ 1 →
            t.gang g = { s.gang g with phase := .running }) ∧
          (u.gang g).killed = true ∧ (u.gang g).phase = .dead)) ∧
    (∀ p va l, s.fnPart f = some p → s.barOpen f = true → va.toNat + l.length ≤ 2 ^ 36 → 0 < l.length → va.toNat % 65536 + l.length ≤ 65536 →
      (∃ t, exec (.hostBar4Access f va false l) s = .next t ∧ SameMemory s t ∧ t.gangs = s.gangs ∧ t.queues = s.queues) ∧
      (∃ t, exec (.hostBar4Access f va true l) s = .next t ∧ t.gangs = s.gangs ∧ t.queues = s.queues ∧
        (∀ lf, s.resolve p .device true false va.toNat = .ok lf → targetAnswers lf = true → s.uncaptured p lf = false → t.mem = (s.putKey p lf.pa l).mem) ∧
        (∀ e, s.resolve p .device true false va.toNat = .error e → SameMemory s t)))

/-! ## Links and messages -/

/-- A flit with a bad CRC is asked for again, and at the eighth failed replay the link is down (R14; that this is the ninth failure in a row, and that a link that comes up keeps its sequence numbers, is log entry 29's); a flit of a type that its channel does not give is counted (R15); a flit lifts the declaration against its package, an
acknowledgement covers everything up to its MSEQ, a message unacknowledged for 65,536 cycles goes again, keep-alives go after 2^20 silent cycles, and a package without a route or silent for 2^22 is unreachable (R73). -/
def Obligations.LinksAndPeers : Prop :=
  ∀ (s : State) l src,
    let L := fun (s : State) n => s.pkg.links.getD n Link.reset
    (∃ t, exec (.flitCrcFailure l) s = .next t ∧ ((L s l).up = false → t = s) ∧
      ((L s l).up = true → (L s l).replays < 8 → t = { s with pkg := { s.pkg with links := t.pkg.links } } ∧
        L t l = { L s l with replays := (L s l).replays + 1, asks := (L s l).asks ++ [(L s l).rxSeq] } ∧ ∀ n, n ≠ l → L t n = L s n) ∧
      ((L s l).up = true → 8 ≤ (L s l).replays → (L t l).up = false)) ∧
    (∃ t, exec (.linkDown l) s = .next t ∧ (L t l).up = false ∧ ∀ n, n ≠ l → (L t n).up = (L s n).up) ∧
    (∃ t, exec (.linkUp l) s = .next t ∧ t = { s with pkg := { s.pkg with links := t.pkg.links } } ∧ L t l = { L s l with up := true, replays := 0 } ∧
      ∀ n, n ≠ l → L t n = L s n) ∧
    (∃ t, exec (.idleFlit l src) s = .next t ∧ t.pkg = s.pkg ∧ (src ≠ s.pkg.pkgid → (t.peer src).unreach = false ∧ (t.peer src).heard = s.cycle) ∧
      t.parts = s.parts ∧ SameMemory s t) ∧
    (∀ vc ty, vc < 4 → ty < 16 → ∃ t, exec (.reservedFlitType l vc ty) s = .next t ∧
      let given := ty = 0 ∨ (ty = 1 ∧ vc = 0) ∨ (2 ≤ ty ∧ ty ≤ 6 ∧ vc = 1) ∨ (ty = 7 ∧ vc ≤ 1) ∨ (8 ≤ ty ∧ ty ≤ 11 ∧ vc = 2) ∨ ((ty = 12 ∨ ty = 13) ∧ vc = 3)
      (given → t = s) ∧ (¬given → t = { s with pkg := { s.pkg with links := t.pkg.links, log := s.pkg.log ++ [.protocolError l] } } ∧
        (L t l).perr = if (L s l).perr = 0xFFFFFFFF then 0xFFFFFFFF else (L s l).perr + 1)) ∧
    (∀ x, ∃ t, exec (.managementFlit src x) s = .next t ∧ t = { s with pkg := t.pkg, peers := t.peers } ∧ t.pkg.log = s.pkg.log ++ [.management src x] ∧
      t.pkg.out = s.pkg.out) ∧
    (∀ m, ∃ t, exec (.acknowledgement src m) s = .next t ∧ t = { s with pkg := { s.pkg with links := t.pkg.links }, peers := t.peers } ∧
      ∀ u, u ∈ (t.peer src).unacked ↔ u ∈ (s.peer src).unacked ∧ 2 ^ 31 ≤ (m - u.1).toNat) ∧
    (∃ t, exec (.keepAlive src) s = .next t ∧ t = { s with pkg := { s.pkg with links := t.pkg.links }, peers := t.peers } ∧
      (src ≠ s.pkg.pkgid → (t.peer src).unreach = false ∧ (t.peer src).heard = s.cycle ∧ (t.peer src).unacked = (s.peer src).unacked)) ∧
    (let d := s.cur.g
     (∃ t, exec .messageRetransmit s = .next t ∧ t.parts = s.parts ∧ SameMemory s t ∧
      ∀ u, (s.peer d).unacked.find? (fun u => u.1.toNat == s.cur.t) = some u →
        ((s.peer d).unreach = true ∨ d = s.pkg.pkgid ∨ s.cycle < u.2.2 + 65536 → t = s) ∧
        ((s.peer d).unreach = false → d ≠ s.pkg.pkgid → u.2.2 + 65536 ≤ s.cycle → (u.1, u.2.1, s.cycle) ∈ (t.peer d).unacked ∧
          ∀ k, u.2.1.dst = d → s.route d = some k → t.pkg.out = s.pkg.out ++ [.msg k u.2.1])) ∧
     (∃ t, exec .keepAliveSend s = .next t ∧
      let due := d ≠ s.pkg.pkgid ∧ (s.peer d).sent + 2 ^ 20 ≤ s.cycle ∧ (s.knows d = true ∨ (s.peer d).unreach = true)
      (∀ k, due → s.route d = some k → t.pkg.out = s.pkg.out ++ [.keepAlive k d] ∧ (t.peer d).sent = s.cycle) ∧ ((¬due ∨ s.route d = none) → t = s)) ∧
     (∃ t, exec .unreachableDeclaration s = .next t ∧
      let due := d ≠ s.pkg.pkgid ∧ (s.peer d).unreach = false ∧ s.knows d = true ∧ ((s.peer d).heard + 2 ^ 22 ≤ s.cycle ∨ s.route d = none)
      (¬due → t = s) ∧ (due → (t.peer d).unreach = true ∧
        ∀ p P i e, s.parts.get? p = some P → P.lrt.get? i = some e → (e.st = .pending ∨ e.st = .migrated) → e.proxy = false → e.peer = d → e.upv = false →
          e.rel = false → (t.entry p i).st = .tarnished ∧ (t.entry p i).cause = tcUNREACHABLE)))

/-- A message that is next in order is delivered and acknowledged, one that comes early waits, and one that was delivered already changes no table (R73). A request is refused with TARNISH, or gets a PENDING proxy entry and
ACCEPT, and its gang comes to the walk (R63, R64, R68); ACCEPT, RESOLVE and TARNISH settle the home entry that they name, and RELEASE frees its proxy (R68, R69); an addressed invocation starts in its turn (R70). -/
def Obligations.Messages : Prop :=
  ∀ (s : State) m,
    let d := m.src
    let p := m.dpart
    let i := m.hidx
    let e := s.entry p i
    let next := m.mseq = (s.peer d).rx ∧ (s.peer d).early = []
    let home := e.st ≠ .free ∧ e.proxy = false ∧ e.genA = m.hgen
    d ≠ s.pkg.pkgid →
    (∀ ev, ev ∈ [Instr.invocationRequest m, .forwardedInvocation m, .accept m, .resolve m, .tarnish m, .release m] → ∃ t, exec ev s = .next t ∧
      (2 ^ 31 ≤ (m.mseq - (s.peer d).rx).toNat → t.parts = s.parts ∧ t.gangs = s.gangs ∧ (t.peer d).rx = (s.peer d).rx) ∧
      (0 < (m.mseq - (s.peer d).rx).toNat → (m.mseq - (s.peer d).rx).toNat < 2 ^ 31 → t.parts = s.parts ∧ t.gangs = s.gangs ∧ (t.peer d).rx = (s.peer d).rx ∧
        ((s.peer d).early.length < 256 → ∃ q ∈ (t.peer d).early, q.h.mseq = m.mseq)) ∧
      (next → (t.peer d).rx = (s.peer d).rx + 1 ∧ ∀ k, s.route d = some k → ∃ vc, t.pkg.out.getLast? = some (.ack k d vc m.spart m.dpart m.mseq) ∧
        vc = if ev = .invocationRequest m then 0 else 1)) ∧
    (next → (s.parts.get? p).isSome → ∀ ev, ev ∈ [Instr.invocationRequest m, .forwardedInvocation m] → ∃ t, exec ev s = .next t ∧
      (s.admitInv m = none → (m.addressed = false → t.parts = s.parts) ∧ t.gangs = s.gangs ∧ (t.peer d).tx = (s.peer d).tx + 1 ∧
        ∃ q ∈ (t.peer d).unacked, q.2.1.ty = 5 ∧ q.2.1.h.hidx = i ∧ q.2.1.h.cause = tcREFUSED) ∧
      (let up := s.entry p m.pidx
       m.addressed = true → up.st ≠ .free → up.proxy = true → up.gen = m.pgen → (t.entry p m.pidx).nextSeq = (m.aseq + 1) % 65536 ∧
        ∀ x R j, s.admitInv m = some (x, R, j) → t.gangs = s.gangs ∧
          (up.st = .tarnished → (t.peer d).tx = (s.peer d).tx ∧ (t.entry p j).st = .free ∧ (t.entry p j).gen = nextGen (s.entry p j).gen) ∧
          (up.st ≠ .tarnished → (t.peer d).tx = (s.peer d).tx + 1 ∧ (∃ q ∈ (t.peer d).unacked, q.2.1.ty = 3 ∧ q.2.1.h.hidx = i ∧ q.2.1.h.pidx = j) ∧
            (t.entry p j).st = .pending ∧ (t.entry p j).waits = true ∧ (t.entry p j).upProxy = some m.pidx ∧ (t.entry p j).aseq = m.aseq)) ∧
      (∀ x R j, s.admitInv m = some (x, R, j) → m.addressed = false → (t.peer d).tx = (s.peer d).tx + 1 ∧
        (∃ q ∈ (t.peer d).unacked, q.2.1.ty = 3 ∧ q.2.1.h.hidx = i ∧ q.2.1.h.pidx = j) ∧
        (t.entry p j).st = .pending ∧ (t.entry p j).proxy = true ∧ (t.entry p j).peer = d ∧ (t.entry p j).peerIdx = i ∧ (t.entry p j).peerGen = m.hgen ∧
        (t.entry p j).gang = some s.nextId ∧ (t.gang s.nextId).phase = .walk ∧ (t.gang s.nextId).part = p ∧ (t.gang s.nextId).proxy = some j)) ∧
    (next → (s.parts.get? p).isSome → ∃ t, exec (.accept m) s = .next t ∧
      (home → e.st = .pending → (t.entry p i).st = .migrated ∧ (t.entry p i).peerIdx = m.pidx ∧ (t.entry p i).peerGen = m.pgen ∧ (t.entry p i).fq = [] ∧
        (t.peer d).tx = (s.peer d).tx + BitVec.ofNat 32 e.fq.length) ∧
      (¬home → t.parts = s.parts ∧ (t.peer d).tx = if m.pgen = 0 then (s.peer d).tx else (s.peer d).tx + 1)) ∧
    (next → (s.parts.get? p).isSome → ∃ t, exec (.resolve m) s = .next t ∧
      (home → (e.st = .pending ∨ e.st = .migrated) → e.rel = false →
        (t.entry p i).st = .resolved ∧ (t.entry p i).rva = m.rva ∧ (t.entry p i).rlen = m.rlen) ∧
      (home → (e.st = .pending ∨ e.st = .migrated) → e.rel = true → (t.entry p i).st = .free) ∧
      (home → (e.st = .resolved ∨ e.st = .tarnished) → t.parts = s.parts)) ∧
    (next → (s.parts.get? p).isSome → ∃ t, exec (.tarnish m) s = .next t ∧
      (home → (e.st = .pending ∨ e.st = .migrated) → e.upidx ≠ i → e.rel = false →
        (t.entry p i).st = .tarnished ∧ (t.entry p i).cause = m.cause ∧ (t.entry p i).root = m.cause ∧ (t.entry p i).origin = i)) ∧
    (next → (s.parts.get? p).isSome → ∃ t, exec (.release m) s = .next t ∧
      let x := s.entry p m.pidx
      (x.st ≠ .free → x.proxy = true → x.gen = m.pgen → (t.entry p m.pidx).rel = true ∨ ((t.entry p m.pidx).st = .free ∧ (t.entry p m.pidx).gen = nextGen x.gen)) ∧
      (¬(x.st ≠ .free ∧ x.proxy = true ∧ x.gen = m.pgen) → t.parts = s.parts)) ∧
    (∃ t, exec .addressedInvocationStart s = .next t ∧ (s.mayStartInv s.cur.g s.cur.t = false → t = s) ∧
      (s.mayStartInv s.cur.g s.cur.t = true → (s.parts.get? s.cur.g).isSome → ∀ R, (s.entry s.cur.g s.cur.t).lrec = some R →
        (t.gang s.nextId).phase = .walk ∧ (t.gang s.nextId).proxy = some s.cur.t ∧ (t.entry s.cur.g s.cur.t).gang = some s.nextId ∧
          (t.entry s.cur.g s.cur.t).waits = false))

/-- A read request is answered with the page's bytes, or a status (R74, R119); a write's bytes are stored, or its status says why not; answers reach the request of the copy that they name (R74). -/
def Obligations.RemoteCopies : Prop :=
  ∀ (s : State) f,
    let va := f.va.toNat
    let small := 0 < f.bytes ∧ f.bytes ≤ 224 ∧ va % 65536 + f.bytes ≤ 65536
    (∀ k, small → s.route f.src = some k → ∃ t a, exec (.copyReadRequest f) s = .next t ∧ SameMemory s t ∧ t.parts = s.parts ∧
      t.pkg.out = s.pkg.out ++ [.copy k f.src 9 a] ∧ a.tag = f.tag ∧ a.core = f.core ∧
      (∀ lf, s.remoteLeaf f va false = .ok lf → s.mem.poisoned lf.pa f.bytes = false →
        a.status = 0 ∧ a.bytes = f.bytes ∧ a.data = s.getKey f.dpart lf.pa f.bytes) ∧
      (∀ lf, s.remoteLeaf f va false = .ok lf → s.mem.poisoned lf.pa f.bytes = true → a.status = 4) ∧
      (∀ st, s.remoteLeaf f va false = .error st → st ≠ 0 → a.status = st)) ∧
    (∀ k, small → s.route f.src = some k → ∃ t, exec (.copyWriteData f) s = .next t ∧
      (∀ lf, s.remoteLeaf f va true = .ok lf → s.uncaptured f.dpart lf = false → f.data.length = f.bytes → t.mem = (s.putKey f.dpart lf.pa f.data).mem ∧
        ∃ a, t.pkg.out = s.pkg.out ++ [.copy k f.src 0xB a] ∧ a.status = 0 ∧ a.bytes = f.bytes ∧ a.tag = f.tag) ∧
      (∀ st, s.remoteLeaf f va true = .error st → st ≠ 0 → t.mem = s.mem ∧ ∃ a, t.pkg.out = s.pkg.out ++ [.copy k f.src 0xB a] ∧ a.status = st ∧ a.bytes = 0)) ∧
    (∀ wr : Bool, ∃ t, exec (if wr then .copyCompletion f else .copyReadData f) s = .next t ∧
      t = { s with pkg := { s.pkg with links := t.pkg.links }, peers := t.peers, cores := t.cores } ∧
      (t.core f.core).copies = (s.core f.core).copies.map fun c => { c with rem := c.rem.map fun r =>
        if r.tag = f.tag ∧ r.write = wr ∧ r.pkg = f.src then
          (if wr then { r with status := f.status, got := f.bytes }
           else if r.bytes ≤ r.got ∨ r.status ≠ 0 then r
           else if f.status ≠ 0 then { r with status := f.status } else { r with data := r.data ++ sliceB f.data 0 f.bytes, got := r.got + f.bytes })
        else r })

/-! ## Admission, placement, leaving -/

/-- A gang whose demand is within every budget passes the walk to the placer with what its region gives it, and its LAUNCH starts or goes on to its next gang; one that cannot pass stops an unstarted LAUNCH, or drops the rest of a started one
(R28, R38, R39, R76). That CIDX passes a LAUNCH when its first gang does, and that a PMODE other than 1 acts as FLASHBACK, is the model's (log entries 21 and 22). -/
def Obligations.GangAdmission : Prop :=
  ∀ (s : State) q c R next left total started,
    let g := s.cur.g
    let G := s.gang g
    let rs := (s.part G.part).regions
    let E := effRcb rs G.region
    let gone := rs.get? G.region = none ∨ (rs.get? G.region).map Region.destroying = some true
    let outright := withinBudgets rs G.region G.lrec.demand true = false ∨ s.neverFits g G.count (E.flags.getLsbD 1) = true
    (s.gangs.get? g).isSome → G.phase = .walk → G.queue = some q → (s.queue q).cmds.find? (fun d => d.id == G.cmd) = some c →
    c.launchOf = some (R, next, left, total, started) → (s.queue q).stop = false → (started = true ∨ (s.queue q).bound.isSome) → g < s.nextId →
    ∃ t, exec .gangAdmission s = .next t ∧
      (let after := fun h => ∃ H, (h, H) ∈ s.gangs ∧ H.queue = some q ∧ H.cmd = G.cmd ∧ H.fresh = true ∧ (H.phase = .walk ∨ H.phase = .placer) ∧
        G.index ≤ H.index
       let let_go := fun (u : State) => (u.parts.map Prod.fst) = s.parts.map Prod.fst ∧ ∀ x,
        u.part x = { s.part x with regions := (u.part x).regions, lrt := (u.part x).lrt } ∧
          ∀ r, ((s.part x).regions.get? r).map Region.destroying ≠ some true → (u.part x).regions.get? r = (s.part x).regions.get? r
       let dropped := fun (cause : Byte) => (∀ h, after h → t.gangs.get? h = none) ∧ (∀ h, ¬after h → t.gangs.get? h = s.gangs.get? h) ∧ let_go t ∧
        (started = false → (t.queue q).err = true ∧ (t.queue q).cidx = (s.queue q).cidx) ∧
        (started = true → (t.queue q).err = (s.queue q).err ∧ ∃ u : State, let_go u ∧
          u = { s with gangs := u.gangs, groups := u.groups, cores := u.cores, parts := u.parts, queues := u.queues } ∧ t.mem = (match s.fnPart (s.queue q).func with
            | some p => u.tryWriteVa p (s.queue q).desc.errw.toNat (leBytes 8 (errorWord c.tag c.idx cause c.op).toNat)
            | none => s).mem)
       (gone → dropped 0x0D) ∧ (¬gone → outright → dropped 0x07)) ∧
      (¬gone → ¬outright → withinBudgets rs G.region G.lrec.demand false = false → t = s) ∧
      (¬gone → ¬outright → withinBudgets rs G.region G.lrec.demand false = true →
        (started = true ∨ ∃ p ls, s.fnPart (s.queue q).func = some p ∧ s.writeLeaves p (s.queue q).desc.ciwb.toNat 8 = .ok ls) →
        (t.gang g).phase = .placer ∧ (t.gang g).waitFrom = s.cycle ∧ (t.gang g).flags = E.flags ∧ (t.gang g).handler = E.handler ∧ (t.gang g).hlen = E.hlen ∧
        (t.gang g).pmode = (if E.pmode = 1 then 1 else 0) ∧ (t.gang g).lrec = G.lrec ∧ (t.gang g).group.isSome ∧
        (t.queue q).cidx = (if started then (s.queue q).cidx else (s.queue q).cidx + 1) ∧
        (left ≠ 0 → ∃ h H, t.gangs.get? h = some H ∧ s.nextId ≤ h ∧ H.phase = .walk ∧ H.index = next ∧ H.lrec = R ∧ H.cmd = G.cmd))

/-- In its turn a unit gets a place that fits it, and a waiting gang that can no longer be admitted goes (R76-R81, R101; that it is dropped, or killed if it has run, is the model's, log entry 25); with its code in place a gang starts, or faults before its first instruction (R33, R80); a translation serves its partition from then on (R176); a gang that
has waited 4,096 cycles marks a core (R79), and its slice ends after TSLICE (R82). -/
def Obligations.PlacementAndStart : Prop :=
  ∀ s : State,
    let g := s.cur.g
    let G := s.gang g
    ((s.gangs.get? g).isSome → G.waiting = true →
      let barred := s.neverFits g G.count (G.flags.getLsbD 1) = true ∨
        (G.fresh = true ∧ withinBudgets (s.part G.part).regions G.region G.lrec.demand true = false)
      ∃ t, exec .gangPlacement s = .next t ∧ (barred → (G.queue.isSome ∨ G.proxy.isSome) →
        (G.fresh = true → G.phase = .placer → t.gangs.get? g = none ∧ ∀ c, (s.core c).drain = some g → (t.core c).drain = none) ∧
        (G.fresh = false → (t.gang g).killed = true ∧ (t.gang g).phase = .dead)) ∧ (¬barred →
        ((s.turn g = false ∨ s.plan g = none) → t = s) ∧
        (∀ l, s.turn g = true → s.plan g = some l → (l.map Prod.fst).Nodup → ∀ h c f, (h, c, f) ∈ l → (s.gangs.get? h).isSome →
          let H := t.gang h
          H.phase = .loading ∧ H.core = c ∧ H.charged = true ∧ H.spUnit = f.unit ∧ H.wslots = f.wslots ∧ H.bars0 = f.bars ∧ H.tiles = f.tiles ∧
            H.half = f.part ∧ H.slice = s.cycle ∧ H.expired = false ∧ H.lrec = (s.gang h).lrec))) ∧
    ((s.gangs.get? g).isSome → G.phase = .loading → G.fresh = true → ∃ t, exec .overlayLoadComplete s = .next t ∧
      (∀ u code ovd, s.loadGang g = .code u code ovd → G.lrec.sched = [] → G.suspendAt = false → (t.gang g).phase = .running ∧ (t.gang g).fresh = false ∧ (t.gang g).code = code ∧
        (t.gang g).ovd = ovd ∧ (t.gang g).strands = G.strands ∧ SameMemory s t) ∧
      (∀ tr pc, s.loadGang g = .fault tr pc → (t.gang g).phase = .suspended ∨ ((t.gang g).phase = .dead ∧ (t.gang g).killed = true)) ∧
      (∀ u, s.loadGang g = .busy u → t = u)) ∧
    (∃ t, exec .translationComplete s = .next t ∧
      let done := s.trans.map fun e => if e.id = s.cur.t ∧ g ∈ e.busy then
        { e with native := volendImage e.image, vis := e.vis ||| (1#16 <<< (g % 16)), busy := e.busy.filter (· != g), used := s.stepNo } else e
      t = { s with trans := t.trans } ∧ (∀ e ∈ t.trans, e ∈ done) ∧ (∀ e ∈ done, e.busy ≠ [] → e ∈ t.trans) ∧
        ((done.map fun e => match e.native with | .image l => l.length | .failed _ => 0).sum ≤ 2 ^ 24 → t.trans = done)) ∧
    (∃ t, exec .drainToFitMark s = .next t ∧
      ((G.waiting = false ∨ s.cycle < G.waitFrom + 4096 ∨ s.marked g = true ∨ s.plan g ≠ none) → t = s) ∧
      (t ≠ s → ∃ c, t = s.setCore c (fun C => { C with drain := some g }) ∧ (s.core c).drain = none ∧ (s.core c).quarantined = false) ∧
      (G.waiting = true → G.waitFrom + 4096 ≤ s.cycle → s.marked g = false → s.plan g = none → G.flags.getLsbD 1 = false →
        ∀ c, s.markCore g ((s.gangSettings g).flatMap fun k => spanOf (128 * k) 128) = some c → (t.core c).drain = some g)) ∧
    (∃ t, exec .sliceExpiry s = .next t ∧
      let n := (effRcb (s.part G.part).regions G.region).tslice
      let late := G.resident = true ∧ G.expired = false ∧ n ≠ 0 ∧ G.slice + n * 1024 ≤ s.cycle
      (late → t = s.setGang g fun G => { G with expired := true }) ∧ (¬late → t = s)) ∧
    (∃ t, exec .granuleRefill s = .next t ∧ (s.cur.t ∉ G.evicted → t = s) ∧ SameMemory s t ∧
      (s.cur.t ∈ G.evicted → (s.gangs.get? g).isSome → G.charged = true → (t.gang g).code = G.code ∧ (s.cur.t ∈ G.livePcs → s.cur.t ∉ (t.gang g).evicted)))

/-- A strand that has exited gives its slot and blocks back once its loads, tokens and locket registers are written, and a gang leaves when nothing of it is left (R85). Due spawn bins become strands, their threads in lanes 0 up; one that
stays full for 65,536 cycles is a fault (R84). -/
def Obligations.LeavingAndSpawning : Prop :=
  ∀ s : State,
    let g := s.cur.g
    let G := s.gang g
    (∃ t, exec .strandRelease s = .next t ∧
      let S := s.strand g s.cur.t
      let done := G.charged = true ∧ S.exited = true ∧ S.freed = false ∧ S.olc = 0 ∧
        (∀ c ∈ (s.core G.core).copies, ¬(c.gang = g ∧ c.strand = s.cur.t ∧ c.token ≠ 0)) ∧ ∀ r ∈ s.lkres, ¬(r.gang = g ∧ r.strand = s.cur.t)
      (¬done → t = s) ∧ (done → (t.strand g s.cur.t).freed = true ∧ (∀ n, n ≠ s.cur.t → t.strand g n = s.strand g n) ∧ SameMemory s t)) ∧
    (∃ t, exec .gangExit s = .next t ∧
      let done := (s.gangs.get? g).isSome ∧ (G.charged = true ∨ G.killed = true) ∧ (s.fn G.fn).flr = .off ∧ s.gangDone g = true
      (¬done → t = s) ∧ (done → t.gangs.get? g = none ∧ (∀ h, h ≠ g → t.gangs.get? h = s.gangs.get? h) ∧ SameMemory s t)) ∧
    (∃ t, exec .spawnBinTimer s = .next t ∧ (s.bin = none → t = s) ∧
      ∀ b, s.bin = some b → (b.due = false → b.spwt ≠ 0 → b.first + b.spwt ≤ s.cycle → (t.core s.cur.g).bins.get? s.cur.t = some { b with due := true }) ∧
        ((b.due = true ∨ b.spwt = 0 ∨ s.cycle < b.first + b.spwt) → t = s)) ∧
    (∃ t, exec .spawnBinLaunch s = .next t ∧ ∀ b, s.bin = some b →
      let H := s.gang b.gang
      let e := s.binEntry b
      let open_ := H.phase = .running ∨ H.phase = .suspended ∨ H.phase = .checkpointing
      ((b.due = false ∨ ¬open_) → t = s) ∧
      let lo := fun n => if H.half = 2 then n / 2 else 0
      let hi := fun n => if H.half = 1 then n / 2 else n
      (b.due = true → open_ → (s.gangs.get? b.gang).isSome → ∀ n base,
        takeFree (s.occ s.cur.g []).slots (lo 32) (hi 32) 1 = some [n] → firstRun (s.occ s.cur.g []).blocks (lo 128) (hi 128) e.vblk = some base →
        (t.core s.cur.g).bins.get? s.cur.t = none ∧
        let S := t.strand b.gang n
        S.role = 3 ∧ S.entry = some b.entry ∧ S.slot = n ∧ S.vbase = base ∧ S.vblk = e.vblk ∧
        (∀ i, i < 32 → bit S.vacant i = decide (b.threads.length ≤ i)) ∧
        (∀ r i, r < 4 → i < b.threads.length → i < 32 → S.lane r i = (b.threads.getD i []).getD r 0) ∧
        (S.splits.getD 0 Split.none).pc = e.target ∧ (S.splits.getD 0 Split.none).st = .run)) ∧
    (∃ t, exec .spawnStarvation s = .next t ∧ ∀ b, s.bin = some b →
      ((b.fullAt = none ∨ (s.gang b.gang).phase ≠ .running) → t = s) ∧
      ∀ n, b.fullAt = some n → (s.cycle < n + 65536 → t = s) ∧
        (n + 65536 ≤ s.cycle → (s.gang b.gang).phase = .running → (s.gangs.get? b.gang).isSome →
          (t.gang b.gang).phase = .suspended ∨ ((t.gang b.gang).phase = .dead ∧ (t.gang b.gang).killed = true)))

/-! ## Pre-emption -/

/-- The gangs chosen are stopped, or rolled back to their last checkpoint, and nothing before 1,024 cycles of waiting (R83, R103); a stop that lasts 2^20 cycles is abandoned, for a group as a whole (R81, R96); a gang wholly rewound is saved, with its group, leaves its core, and comes back to run from its
flash points (R96-R98); a checkpoint keeps the gang's state and lets it run on (R102). -/
def Obligations.Preemption : Prop :=
  ∀ s : State,
    let g := s.cur.g
    let G := s.gang g
    (∃ t, exec .preemptionTrigger s = .next t ∧ ((G.waiting = false ∨ s.cycle < G.waitFrom + 1024 ∨ s.preemptSet g = none) → t = s) ∧
      (G.waiting = true → G.waitFrom + 1024 ≤ s.cycle → s.mayServe g = true → ∀ v, s.preemptSet g = some v → v.Nodup → ∀ h ∈ v, (s.gangs.get? h).isSome →
        ((s.gang h).pmode ≠ 1 → (s.gang h).phase = .loading → (s.gang h).fresh = true → (t.gang h).charged = false ∧ (t.gang h).phase = .placer) ∧
        ((s.gang h).pmode ≠ 1 → (s.gang h).phase = .loading → (s.gang h).fresh = false → (s.gang h).savedSp.isSome →
          (t.gang h).charged = false ∧ (t.gang h).phase = .saved) ∧
        ((s.gang h).pmode ≠ 1 → ((s.gang h).phase = .loading → (s.gang h).fresh = false ∧ (s.gang h).savedSp = none) → ∃ b, (t.gang h).phase = .stopping s.cycle b) ∧
        ((s.gang h).pmode = 1 → (t.gang h).charged = false ∧ (t.gang h).phase = if (s.ckpts.get? h).isSome then .saved else .placer))) ∧
    (∃ t, exec .runToFlashTimeout s = .next t ∧
      let late := ∃ n, G.phase = .stopping n true ∧ n + 2 ^ 20 ≤ s.cycle ∧ ∃ x ∈ G.strands, x.2.exited = false ∧ x.2.committed = true ∧ x.2.atFlash = false
      (late → t = { s with gangs := t.gangs } ∧ ∀ h, (s.gangs.get? h).isSome →
        (h ∉ s.unitOf g → t.gang h = s.gang h) ∧
        (h ∈ s.unitOf g → (∀ n b, (s.gang h).phase = .stopping n b → t.gang h = { s.gang h with phase := .loading, savedSp := none }) ∧
          ((∀ n b, (s.gang h).phase ≠ .stopping n b) → t.gang h = s.gang h))) ∧ (¬late → t = s)) ∧
    (∃ t, exec .gangSave s = .next t ∧ ((s.gangs.get? g).isSome →
      (∀ n, G.phase = .stopping n true →
        let whole := ∀ h ∈ s.unitOf g, ∀ n b, (s.gang h).phase = .stopping n b → b = true ∧ s.savable h = true
        (¬whole → (t.gang g).phase = G.phase ∧ (t.gang g).strands = G.strands ∧ SameMemory s t) ∧
        (whole → (t.gang g).phase = .saving ∧ (t.gang g).savedSp = some (s.spadOf g) ∧ (t.gang g).savedBins = s.binsOf g ∧ (t.gang g).strands = G.strands ∧
          SameMemory s t)) ∧
      (∀ n, G.phase = .stopping n false → (s.arriving g = true → t = s) ∧ (s.arriving g = false → (t.gang g).phase = .stopping n true)) ∧
      ((∀ n b, G.phase ≠ .stopping n b) → t = s))) ∧
    (∃ t, exec .gangSaveComplete s = .next t ∧ (G.phase ≠ .saving → t = s) ∧
      (G.phase = .saving → (t.gang g).phase = .saved ∧ (t.gang g).charged = false ∧ (t.gang g).wslots = [] ∧ (t.gang g).tiles = [] ∧ (t.gang g).planes = [] ∧
        (t.gang g).savedSp = G.savedSp ∧ SameMemory s t)) ∧
    (∃ t, exec .gangResume s = .next t ∧ ((G.phase ≠ .loading ∨ G.fresh = true) → t = s) ∧
      (G.phase = .loading → G.fresh = false → G.rewound = [] → G.savedBins = [] → (s.gangs.get? g).isSome →
        (G.suspendAt = true → (t.gang g).phase = .suspended) ∧
        (G.suspendAt = false → (G.strands.map Prod.fst).Nodup →
          (∀ x ∈ G.strands, x.2.atFlash = true → x.2.exited = false → x.2.flash = none ∨ (G.savedSp = none ∧ (s.startPoint G x.2).isSome)) →
          (t.gang g).phase = .running ∧ ∀ n S, (n, S) ∈ G.strands → S.atFlash = true → S.exited = false → ∀ q, s.startPoint G S = some q →
            (t.strand g n).atFlash = false ∧ (t.strand g n).recipe = q.2 ∧ ((S.splits.get? 0).isSome → (t.split g n 0).pc = q.1)))) ∧
    (∃ t, exec .checkpoint s = .next t ∧ ((G.phase ≠ .checkpointing ∨ s.drained g = false) → t = s) ∧
      (G.phase = .checkpointing → s.drained g = true → (t.gang g).phase = .running ∧ (t.gang g).lapAt = [] ∧ SameMemory s t ∧
        (∃ K, t.ckpts.get? g = some K ∧ K.savedSp.isSome ∧ K.strands = ((t.gang g).strands.map fun x => (x.1, { x.2 with posted := [] })) ∧ K.savedCl = (s.group (G.group.getD 0)).bars) ∧
        ∀ n x, (s.split g n x).st = .wait → (s.split g n x).wait = some .ckpt → (t.split g n x).st = .run))

/-! ## Engines of a core -/

/-- A copy's descriptor starts in its turn (R229, R230); a copy of scratchpad bytes that do not overlap moves exactly those, and completes with its count in its token (R232, R359); one stopped by a pool page is parked and told in the fault queue (R127, R128);
bank requests are performed one by one, and a command's token or values follow the last (R133-R137); the engine takes forces in order, and each leaves it with its outcome (R203, R226); weight loads end (R218); a locket's word reaches its
register (R393). -/
def Obligations.CoreEvents : Prop :=
  ∀ s : State,
    let c := s.cur.g
    let C := s.core c
    (∃ t, exec .copyDescriptorStart s = .next t ∧ ∀ k, s.copyOf c s.cur.t = some k → (C.mayStart k = false → t = s) ∧
      (C.mayStart k = true → ∃ d ∈ (t.core c).copies, d.id = k.id ∧ d.st ≠ .queued)) ∧
    (∃ t, exec .copyComplete s = .next t ∧ ∀ k, s.copyOf c s.cur.t = some k → (k.st ≠ .active → t = s) ∧
      (∀ st, k.st = .active → k.bad = some st → (∀ a b x y, k.kind ≠ .ovld a b x y) → k.sched = none → k.nb = none →
        (∀ d ∈ (t.core c).copies, d.id ≠ k.id) ∧ SameMemory s t) ∧
      (let G := s.gang k.gang
       let at_ := fun (a : DWord) i => spBase + G.core * 2 ^ 18 + (G.spUnit * 1024 + a.toNat + i)
       let n := k.valid * k.unit
       k.st = .active → k.bad = none → k.kind = .cpy → k.dsp = .sp → k.ssp = .sp → k.moved = 0 → k.sched = none → k.nb = none →
       G.spUnit * 1024 + G.lrec.spad ≤ 2 ^ 18 → k.src.toNat + n ≤ G.lrec.spad → k.dst.toNat + n ≤ G.lrec.spad →
       (k.src.toNat + n ≤ k.dst.toNat ∨ k.dst.toNat + n ≤ k.src.toNat) → (∀ i, i < n → s.mem.poisoned (at_ k.src i) 1 = false) →
       (∀ i, i < n → t.mem.read (at_ k.dst i) = s.mem.read (at_ k.src i)) ∧ (∀ a, (∀ i, i < n → a ≠ at_ k.dst i) → t.mem.read a = s.mem.read a) ∧
       (∀ d ∈ (t.core c).copies, d.id ≠ k.id) ∧
       (k.token ≠ 0 → (s.strand k.gang k.strand).gen = k.gen → (s.strand k.gang k.strand).freed = false → ((s.strand k.gang k.strand).splits.get? k.split).isSome →
         (t.split k.gang k.strand k.split).view.scalar k.token = BitVec.ofNat 64 (2 ^ 63 + n % 2 ^ 56)))) ∧
    (∃ t, exec .poolPageNotPresent s = .next t ∧ ∀ k, s.copyOf c s.cur.t = some k → (k.st ≠ .active → t = s) ∧
      ∀ va wr k' u, k.st = .active → s.runCopy c k = (.park va wr, k', u) →
        let p := (s.gang k.gang).part
        (s.parts.get? p).isSome → (∃ d ∈ (t.core c).copies, d.id = k.id ∧ d.st = .parked (s.part p).pfSeq) ∧
          ∃ f, (t.part p).pfWait = (s.part p).pfWait ++ [f] ∧ f.va = BitVec.ofNat 64 va ∧ f.seq = (s.part p).pfSeq ∧ f.core = c ∧ f.write = wr ∧
            f.region = (s.gang k.gang).region) ∧
    (∃ t, exec .faultQueueEntry s = .next t ∧ ((s.part c).pfWait = [] → t = s) ∧
      ∀ f rest h, (s.part c).pfWait = f :: rest → s.readVa c ((s.part c).pfqbase &&& ~~~0xFFF).toNat 64 = .ok h →
        ((leAt h 0 4 + 2 ^ 32 - leAt h 4 4) % 2 ^ 32 ≥ 2 ^ ((s.part c).pfqctl.extractLsb' 8 4).toNat → t = s) ∧
        (t ≠ s → (s.parts.get? c).isSome → (t.part c).pfWait = rest ∧ ∀ e, s.exporter c = some e → (e, 1) ∈ t.pkg.msixOut ∨ 1 ∈ (t.fn e).pba)) ∧
    (∃ t, exec .bankRequest s = .next t ∧ ∀ w, s.bankWork c s.cur.t = some w → (s.mayRequest c w = false → t = s) ∧
      (s.mayRequest c w = true → ∃ e ∈ (t.core c).bank, e.cur = w.cur + 1 ∨ (e.cur = w.cur ∧ e.fetched = w.fetched + 1)) ∧
      (s.mayApply c w = true → s.mayFetch c w = false → ∃ e ∈ (t.core c).bank, e.cur = w.cur + 1)) ∧
    (∃ t, exec .bankCommandComplete s = .next t ∧ ∀ w, s.bankWork c s.cur.t = some w → (w.cur < w.total → t = s) ∧
      (w.total ≤ w.cur → (∀ e ∈ (t.core c).bank, e.id ≠ w.id) ∧ (∀ L ∈ (t.core c).landing, L.wait ≠ some w.id) ∧ SameMemory s t ∧
        (w.token ≠ 0 → (s.strand w.gang w.strand).gen = w.gen → (s.strand w.gang w.strand).freed = false →
          ((s.strand w.gang w.strand).splits.get? w.split).isSome → (t.split w.gang w.strand w.split).view.scalar w.token = w.word))) ∧
    (∃ t, exec .evaluationStart s = .next t ∧ (∀ F r, C.engine = none → C.forces = F :: r → t = s.setCore c fun C => { C with engine := some F.id }) ∧
      ((C.engine.isSome ∨ C.forces = []) → t = s)) ∧
    (∃ t, exec .evaluationComplete s = .next t ∧ (C.engine = none → t = s) ∧
      ∀ id F, C.engine = some id → C.forces.find? (fun F => F.id == id) = some F →
        (t.core c).engine = none ∧ (∀ f ∈ (t.core c).forces, f.id ≠ id) ∧ SameMemory s t ∧
        (∀ q, (s.strand F.gang F.strand).gen = F.gen → (s.strand F.gang F.strand).freed = false → (s.strand F.gang F.strand).forces.get? id = some q →
          ∃ r, (t.strand F.gang F.strand).forces.get? id = some r ∧ r.done = true ∧ r.tile = q.tile ∧
            (F.whole = true → r.fault = none → (s.gangs.get? F.gang).isSome → ((s.strand F.gang F.strand).treg F.tile).st = .forced id →
              ((t.strand F.gang F.strand).treg F.tile).st = .value))) ∧
    (∃ t, exec .weightLoadComplete s = .next t ∧ ∀ L, (s.gang s.cur.t).wloads.find? (fun L => L.slot == s.cur.x) = some L → (s.gangs.get? s.cur.t).isSome →
      ((t.gang s.cur.t).back L.slot).loading = false ∧ (∀ M ∈ (t.gang s.cur.t).wloads, M.slot ≠ L.slot) ∧ SameMemory s t ∧
        (t.gang s.cur.t).front L.slot = (s.gang s.cur.t).front L.slot) ∧
    (∃ t, exec .locketResultWrite s = .next t ∧ ∀ r, s.lkres.find? (fun r => r.id == c) = some r →
      ((s.cycle < r.due ∨ r.val = none) → t = s) ∧
      (∀ v, r.due ≤ s.cycle → r.val = some v → r.lstat = false → (∀ q ∈ t.lkres, q.id ≠ r.id) ∧ SameMemory s t ∧
        (r.reg ≠ 0 → (s.strand r.gang r.strand).gen = r.gen → (s.strand r.gang r.strand).freed = false → ((s.strand r.gang r.strand).splits.get? r.split).isSome →
          (t.split r.gang r.strand r.split).view.scalar r.reg = v)))

/-! ## The step -/

/-- A step that comes to a split takes the instruction at its PC: one that decodes has its own meaning, at the state in which a strand at the end of its recipe code has left it (R98) and the split's port has
issued (R90), and a word that does not decode traps as R266 says; then time passes. A due outside event has its meaning in the same way; the arbiter has taken the splits that may issue into its order meanwhile (R90). Of several things that may happen one does, which the model leaves open (log entry 1).
Where two strands of a gang stand ready to fault and issue in one cycle, each writes its record, in ascending slot order, and the gang stops (R107); whether they issue in one cycle is a free bit of the model's (log entry 26). -/
def Obligations.AStepRunsTheDecodedInstruction : Prop :=
  ∀ (s : State),
    (∀ c,
      let u := s.issuing c
      let pc := (s.split c.g c.t c.x).pc
      let bytes := (s.gang c.g).fetch pc
      (∀ i, decode (pc.toNat % 32) bytes = .ok i → s.perform (.split c) = exec i u) ∧
      (∀ e, decode (pc.toNat % 32) bytes = .error e → (∀ k, Issues nopAt0 u k → ∃ t, s.perform (.split c) = .next t ∧ Raises u t nopAt0 (decodeTrap e)) ∧
        ((decodeTrap e).cause = cILLEGAL ∨ (decodeTrap e).cause = cOPERAND)) ∧
      (s.dueStim = none → s.acts = [.split c] → step s = tickOf s (if s.portFree c then s.perform (.split c) else .next s.enrolled))) ∧
    (s.dueStim = none → (∀ a, s.acts = [a] → (∀ c, a ≠ .split c) → step s = tickOf s (s.perform a)) ∧
      ∀ a b r, s.acts = a :: b :: r →
        let u := s.arbitrate s.acts
        (u.2 = [] → step s = tickOf s (.next u.1)) ∧ (u.2 ≠ [] → ∃ x ∈ u.2, step s = tickOf s (u.1.together u.2 x))) ∧
    (∀ (as : List Act) x, (∀ c d, x = .split c → .split d ∈ as → d.t ≠ c.t → s.wouldFault c = false ∨ s.wouldFault d = false) →
      s.together as x = s.perform x) ∧
    (∀ (c d x : Cur), c.g = d.g → c.t < d.t → s.wouldFault c = true → s.wouldFault d = true → x = c ∨ x = d →
      s.together [.split c, .split d] (.split x) =
        if Config.freeBit (s.choice (2 ^ 71 + c.g)) then (s.recordOnly c).perform (.split d) else s.perform (.split x)) ∧
    (∀ ev u, s.dueStim = some (ev, u) → step s = tickOf s (exec ev u.enrolled)) ∧
    (∀ t, ∃ n, s.tick t = { t with stepNo := s.stepNo + 1, cycle := t.cycle + n })

/-- Whatever happens, memory keeps its one canonical form: from every state whose memory has it, a step gives a state whose memory has it. -/
def Obligations.EveryStepKeepsMemoryCanonical : Prop :=
  ∀ s t, s.mem.wf = true → step s = .next t → t.mem.wf = true

/-- After cold reset of an unfused part: memory in its canonical form and empty, no partition, no queue, nothing resident, the clasp armed, every register of PF0 zero but those the spec gives another value
(R17, R20, R22, R50, R54, R58). Of the registers the spec gives no reset value the values are the model's (DESIGN CHOICE, log entries 3 to 5). -/
def Obligations.ResetValues : Prop :=
  State.reset.mem.wf = true ∧ State.reset.mem.cells = [] ∧ State.reset.parts = [] ∧ State.reset.queues = [] ∧ State.reset.gangs = [] ∧
    (∀ k, k < 16 → laySetting State.reset.layout k = none) ∧ (∀ f, f < 64 → State.reset.fnPart f = none) ∧ State.reset.pkg.armed = true ∧
    State.reset.pkg.missed = 0 ∧ State.reset.pkg.pkgidSet = false ∧ State.reset.pkg.layStat = 0 ∧ State.reset.sec.lcs = .manufacture ∧
    State.reset.sec.portOpen = true ∧ State.reset.sec.rcount = 0 ∧ State.reset.sec.slot 0 = List.replicate 64 0 ∧
    State.reset.sec.slot 3 = shake256 (List.replicate 64 0 ++ [0x1]) 64 ∧
    (∀ q, (State.reset.queue q).valid = false ∧ (State.reset.queue q).en = false ∧ (State.reset.queue q).pidx = 0 ∧ (State.reset.queue q).cidx = 0) ∧
    State.reset.pkg.rtbase = 0 ∧ State.reset.pkg.half = 0 ∧ State.reset.fn 0 = { State.reset.fn 0 with
      qtbase := 0, dncnt := 0, ctxva := 0, ctx := 0, ctxOp := 0, gcCore := 0, gcStrand := 0, gcStatus := 0, flr := .off, attStatus := 0, attCap := none,
      nonce := [], window := [], msix := [], pba := [] }

/-- Words written out bit by bit from the encoding tables (R259-R277), one or more for every family, as the spec's own examples give them, decode to the instructions that they stand for. -/
def Obligations.EncodedWords : Prop :=
  decodeTableWord 64 0 = some (.ill ⟨.f64a, 0, false⟩) ∧
  decodeTableWord 64 0xFFF6_0007_0000_0040 = some (.vendl ⟨.f64i, 0, false⟩ false ⟨.same, 7⟩ 0xFFF6) ∧
  decodeTableWord 64 0x0010_0003_0000_0020 = some (.vbr ⟨.f64i, 0, false⟩ ⟨.same, 3⟩ 0x10) ∧
  decodeTableWord 64 0xFFF8_0704_0005_00C0 = some (.saddi ⟨.f64i, 0, false⟩ 5 4 0xFFFF_FFF8) ∧
  decodeTableWord 96 0x0001_2345_0000_0704_0005_00C1 = some (.saddi ⟨.f96i, 0, false⟩ 5 4 0x0001_2345) ∧
  decodeTableWord 64 0x1C0C_190C_0214_0D00 = some (.vadd ⟨.f64a, 3, false⟩ .i32 false 20 ⟨.rot 3, 12⟩ ⟨.mir 2, 12⟩) ∧
  decodeTableWord 64 0x0002_0001_4205_014C = some (.vcmp ⟨.f64a, 0, false⟩ .lt .i32 5 ⟨.same, 1⟩ ⟨.same, 2⟩) ∧
  decodeTableWord 96 0x0022_0003_0202_0001_090A_018D =
    some (.vffma ⟨.f96a, 0, false⟩ .rz false true 10 ⟨.same, 1⟩ ⟨.bc 0, 2⟩ ⟨.same, 3⟩) ∧
  decodeTableWord 128 0x0000_0040_0000_0000_0000_0704_0908_020A = some (.vld ⟨.f128m, 0, false⟩ .f32 ⟨.g, .gang, .plain⟩ 8 4 0x40) ∧
  decodeTableWord 96 0x0073_0000_0000_0704_0305_0201 = some (.sld ⟨.f96a, 0, false⟩ .i64 ⟨.bk, .ms, .acq⟩ 5 4 0) ∧
  decodeTableWord 64 0x0003_0000_0000_02A0 = some (.bart ⟨.f64i, 0, false⟩ 3) ∧
  decodeTableWord 128 0x0000_1000_2601_0716_0715_0714_0009_02C2 = some (.cpy ⟨.f128m, 0, false⟩ ⟨.sp, .g, .gang, 3, true⟩ 9 20 21 22 0x1000) ∧
  decodeTableWord 128 0x0000_0000_0084_0002_0000_0800_0000_004A =
    some (.flash ⟨.f128m, 0, false⟩ ⟨⟨8, 0⟩, ⟨0, 0⟩, ⟨2, 4⟩, ⟨0, 0⟩, 2⟩) ∧
  decodeTableWord 128 0x0000_0000_000F_FFFF_9000_1280_0002_030A =
    some (.tmma ⟨.f128t, 0, false⟩ 2 ⟨true, false, false, true, false, false, 0, 0, 0, 1, 0x0A, 0x3F, 0x3F, 0xFF, 0, .rne, false⟩) ∧
  decodeTableWord 64 0x0000_0000_0005_0338 = some (.tplan ⟨.f64i, 0, false⟩ 5 0) ∧
  decodeTableWord 96 0x0000_000A_0008_0704_0909_0345 = some (.bxadd ⟨.f96a, 0, false⟩ 9 4 ⟨.same, 8⟩ ⟨.same, 10⟩) ∧
  decodeTableWord 96 0x01FE_0006_0004_070C_0009_035D = some (.ksupd ⟨.f96a, 0, false⟩ (some 0xFE) 9 12 ⟨.same, 4⟩ ⟨.same, 6⟩) ∧
  decodeTableWord 128 0x0010_0003_0000_0000_0008_0715_0014_0372 = some (.invk ⟨.f128m, 0, false⟩ 20 21 ⟨.same, 8⟩ 3 16) ∧
  decodeTableWord 64 0x0000_0715_0014_0378 = some (.lkwait ⟨.f64a, 0, false⟩ 20 21) ∧
  decodeTableWord 64 0x0001_0000_0005_038C = some (.fltrd ⟨.f64i, 0, false⟩ 5 1)
end

