-- ==== Sys2Proof/Laws/Table.lean ====
section
/-! SUPPORT. Laws/Table.lean: reading a table after each of its operations. -/

namespace Sys2Proof.Tbl

variable {α : Type}

@[simp] theorem get?_nil (k : Nat) : Tbl.get? ([] : Tbl α) k = none := rfl
@[simp] theorem getD_nil (k : Nat) (d : α) : Tbl.getD ([] : Tbl α) k d = d := rfl

@[simp] theorem get?_set_self (t : Tbl α) (k : Nat) (v : α) : Tbl.get? (Tbl.set t k v) k = some v := by
  induction t with
  | nil => simp [Tbl.set, Tbl.get?]
  | cons p r ih =>
    obtain ⟨j, w⟩ := p
    by_cases h : k = j
    · simp [Tbl.set, Tbl.get?, h]
    · by_cases h2 : k < j <;> simp [Tbl.set, Tbl.get?, h, h2, ih]

theorem get?_set_ne (t : Tbl α) {k n : Nat} (v : α) (h : n ≠ k) : Tbl.get? (Tbl.set t k v) n = Tbl.get? t n := by
  induction t with
  | nil => simp [Tbl.set, Tbl.get?, h]
  | cons p r ih =>
    obtain ⟨j, w⟩ := p
    by_cases h1 : k = j
    · subst h1; simp [Tbl.set, Tbl.get?, h]
    · by_cases h2 : k < j
      · simp [Tbl.set, Tbl.get?, h1, h2, h]
      · by_cases h3 : n = j <;> simp [Tbl.set, Tbl.get?, h1, h2, h3, ih]

@[simp] theorem getD_set_self (t : Tbl α) (k : Nat) (v d : α) : Tbl.getD (Tbl.set t k v) k d = v := by simp [Tbl.getD]

theorem getD_set_ne (t : Tbl α) {k n : Nat} (v d : α) (h : n ≠ k) : Tbl.getD (Tbl.set t k v) n d = Tbl.getD t n d := by
  simp [Tbl.getD, get?_set_ne t v h]

@[simp] theorem get?_modify_self (t : Tbl α) (k : Nat) (f : α → α) : Tbl.get? (Tbl.modify t k f) k = (Tbl.get? t k).map f := by
  induction t with
  | nil => simp [Tbl.modify, Tbl.get?]
  | cons p r ih =>
    obtain ⟨j, w⟩ := p
    by_cases h : k = j <;> simp [Tbl.modify, Tbl.get?, h, ih]

theorem get?_modify_ne (t : Tbl α) {k n : Nat} (f : α → α) (h : n ≠ k) : Tbl.get? (Tbl.modify t k f) n = Tbl.get? t n := by
  induction t with
  | nil => simp [Tbl.modify]
  | cons p r ih =>
    obtain ⟨j, w⟩ := p
    by_cases h1 : k = j
    · subst h1; simp [Tbl.modify, Tbl.get?, h]
    · by_cases h3 : n = j <;> simp [Tbl.modify, Tbl.get?, h1, h3, ih]

theorem getD_modify_ne (t : Tbl α) {k n : Nat} (f : α → α) (d : α) (h : n ≠ k) :
    Tbl.getD (Tbl.modify t k f) n d = Tbl.getD t n d := by
  simp [Tbl.getD, get?_modify_ne t f h]

/-- Reading the entry that was changed, where one is listed. -/
theorem getD_modify_self (t : Tbl α) (k : Nat) (f : α → α) (d : α) (h : (Tbl.get? t k).isSome) :
    Tbl.getD (Tbl.modify t k f) k d = f (Tbl.getD t k d) := by
  obtain ⟨v, hv⟩ := Option.isSome_iff_exists.mp h
  simp [Tbl.getD, hv]

@[simp] theorem modify_modify (t : Tbl α) (k : Nat) (f g : α → α) :
    Tbl.modify (Tbl.modify t k f) k g = Tbl.modify t k fun x => g (f x) := by
  induction t with
  | nil => rfl
  | cons p r ih =>
    obtain ⟨j, w⟩ := p
    by_cases h : k = j <;> simp [Tbl.modify, h, ih]

/-- Changing an entry is putting the changed one there. -/
theorem modify_const (t : Tbl α) (k : Nat) (f : α → α) (d : α) :
    Tbl.modify t k f = Tbl.modify t k fun _ => f (Tbl.getD t k d) := by
  induction t with
  | nil => rfl
  | cons p r ih =>
    obtain ⟨j, w⟩ := p
    by_cases h : k = j
    · simp [Tbl.modify, Tbl.getD, Tbl.get?, h]
    · simp [Tbl.modify, h, Tbl.getD, Tbl.get?]; exact ih

theorem modify_id (t : Tbl α) (k : Nat) : Tbl.modify t k (fun x => x) = t := by
  induction t with
  | nil => rfl
  | cons p r ih =>
    obtain ⟨j, w⟩ := p
    by_cases h : k = j <;> simp [Tbl.modify, h, ih]

theorem get?_erase_self (t : Tbl α) (k : Nat) : Tbl.get? (Tbl.erase t k) k = none := by
  induction t with
  | nil => rfl
  | cons p r ih =>
    obtain ⟨j, w⟩ := p
    by_cases h : k = j
    · subst h; simpa [Tbl.erase, Tbl.get?] using ih
    · have hj : (j != k) = true := by simp [Ne.symm h]
      simpa [Tbl.erase, List.filter_cons, hj, Tbl.get?, h] using ih

theorem get?_erase_ne (t : Tbl α) {k n : Nat} (h : n ≠ k) : Tbl.get? (Tbl.erase t k) n = Tbl.get? t n := by
  induction t with
  | nil => rfl
  | cons p r ih =>
    obtain ⟨j, w⟩ := p
    by_cases h1 : j = k
    · subst h1; simpa [Tbl.erase, Tbl.get?, h] using ih
    · have hj : (j != k) = true := by simp [h1]
      by_cases h3 : n = j
      · simp [Tbl.erase, hj, Tbl.get?, h3]
      · simpa [Tbl.erase, List.filter_cons, hj, Tbl.get?, h3] using ih

theorem getD_erase_ne (t : Tbl α) {k n : Nat} (d : α) (h : n ≠ k) : Tbl.getD (Tbl.erase t k) n d = Tbl.getD t n d := by
  simp [Tbl.getD, get?_erase_ne t h]

/-- The value at a number is either listed or the default. -/
theorem get?_isSome_of_getD_ne (t : Tbl α) (k : Nat) (d : α) (h : Tbl.getD t k d ≠ d) : (Tbl.get? t k).isSome := by
  cases hv : Tbl.get? t k with
  | none => exact absurd (by simp [Tbl.getD, hv]) h
  | some v => rfl

/-! ## Order -/

/-- Which pairs a table holds after an entry is set. -/
theorem mem_set (t : Tbl α) (k : Nat) (v : α) (p : Nat × α) (h : p ∈ Tbl.set t k v) : p = (k, v) ∨ p ∈ t := by
  induction t with
  | nil => exact .inl (by simpa [Tbl.set] using h)
  | cons q r ih =>
    obtain ⟨j, w⟩ := q
    unfold Tbl.set at h
    split at h
    · rcases List.mem_cons.mp h with h | h
      · exact .inl h
      · exact .inr (List.mem_cons_of_mem _ h)
    · split at h
      · rcases List.mem_cons.mp h with h | h
        · exact .inl h
        · exact .inr h
      · rcases List.mem_cons.mp h with h | h
        · exact .inr (h ▸ List.mem_cons_self)
        · exact (ih h).imp_right (List.mem_cons_of_mem _)

/-- A table in ascending order stays so. -/
theorem sorted_set (t : Tbl α) (k : Nat) (v : α) (h : (t.map Prod.fst).Pairwise (· < ·)) :
    ((Tbl.set t k v).map Prod.fst).Pairwise (· < ·) := by
  induction t with
  | nil => simp [Tbl.set]
  | cons q r ih =>
    obtain ⟨j, w⟩ := q
    rw [List.map_cons, List.pairwise_cons] at h
    unfold Tbl.set
    split
    · rename_i e; subst e; rw [List.map_cons, List.pairwise_cons]; exact h
    · split
      · rename_i e lt
        rw [List.map_cons, List.pairwise_cons, List.map_cons, List.pairwise_cons]
        refine ⟨fun x hx => ?_, h⟩
        rcases List.mem_cons.mp hx with rfl | hx
        · exact lt
        · exact lt.trans (h.1 x hx)
      · rename_i e lt
        rw [List.map_cons, List.pairwise_cons]
        refine ⟨fun x hx => ?_, ih h.2⟩
        obtain ⟨p, hp, rfl⟩ := List.mem_map.mp hx
        rcases mem_set _ _ _ _ hp with rfl | hp
        · change j < k; omega
        · exact h.1 _ (List.mem_map_of_mem hp)

theorem sorted_filter (t : Tbl α) (p : Nat × α → Bool) (h : (t.map Prod.fst).Pairwise (· < ·)) :
    ((t.filter p).map Prod.fst).Pairwise (· < ·) :=
  h.sublist ((List.filter_sublist).map _)

theorem get?_filter (t : Tbl α) (p : Nat → Bool) (k : Nat) :
    Tbl.get? (t.filter fun c => p c.1) k = if p k then Tbl.get? t k else none := by
  induction t with
  | nil => simp
  | cons q r ih =>
    obtain ⟨j, w⟩ := q
    by_cases hj : k = j
    · subst hj; by_cases hp : p k <;> simp [hp, Tbl.get?, ih]
    · by_cases hp : p j <;> simp [hp, Tbl.get?, hj, ih]

end Sys2Proof.Tbl
end

