-- ==== Sys2Proof/Laws/State.lean ====
section
/-! SUPPORT. Laws/State.lean: what each update of a part of the state leaves as it was, and what it reads as afterwards. -/

namespace Sys2Proof.Machine

open Sys2Proof

/-! ## Every field an update does not write -/

@[simp] theorem State.setGang_cycle (s : State) (g : Nat) (f : Gang → Gang) : (s.setGang g f).cycle = s.cycle := rfl
@[simp] theorem State.setGang_stepNo (s : State) (g : Nat) (f : Gang → Gang) : (s.setGang g f).stepNo = s.stepNo := rfl
@[simp] theorem State.setGang_nextId (s : State) (g : Nat) (f : Gang → Gang) : (s.setGang g f).nextId = s.nextId := rfl
@[simp] theorem State.setGang_cur (s : State) (g : Nat) (f : Gang → Gang) : (s.setGang g f).cur = s.cur := rfl
@[simp] theorem State.setGang_stim (s : State) (g : Nat) (f : Gang → Gang) : (s.setGang g f).stim = s.stim := rfl
@[simp] theorem State.setGang_pkg (s : State) (g : Nat) (f : Gang → Gang) : (s.setGang g f).pkg = s.pkg := rfl
@[simp] theorem State.setGang_sec (s : State) (g : Nat) (f : Gang → Gang) : (s.setGang g f).sec = s.sec := rfl
@[simp] theorem State.setGang_fns (s : State) (g : Nat) (f : Gang → Gang) : (s.setGang g f).fns = s.fns := rfl
@[simp] theorem State.setGang_queues (s : State) (g : Nat) (f : Gang → Gang) : (s.setGang g f).queues = s.queues := rfl
@[simp] theorem State.setGang_rr (s : State) (g : Nat) (f : Gang → Gang) : (s.setGang g f).rr = s.rr := rfl
@[simp] theorem State.setGang_parts (s : State) (g : Nat) (f : Gang → Gang) : (s.setGang g f).parts = s.parts := rfl
@[simp] theorem State.setGang_peers (s : State) (g : Nat) (f : Gang → Gang) : (s.setGang g f).peers = s.peers := rfl
@[simp] theorem State.setGang_mail (s : State) (g : Nat) (f : Gang → Gang) : (s.setGang g f).mail = s.mail := rfl
@[simp] theorem State.setGang_cores (s : State) (g : Nat) (f : Gang → Gang) : (s.setGang g f).cores = s.cores := rfl
@[simp] theorem State.setGang_ckpts (s : State) (g : Nat) (f : Gang → Gang) : (s.setGang g f).ckpts = s.ckpts := rfl
@[simp] theorem State.setGang_groups (s : State) (g : Nat) (f : Gang → Gang) : (s.setGang g f).groups = s.groups := rfl
@[simp] theorem State.setGang_lkres (s : State) (g : Nat) (f : Gang → Gang) : (s.setGang g f).lkres = s.lkres := rfl
@[simp] theorem State.setGang_trans (s : State) (g : Nat) (f : Gang → Gang) : (s.setGang g f).trans = s.trans := rfl
@[simp] theorem State.setGang_ctxs (s : State) (g : Nat) (f : Gang → Gang) : (s.setGang g f).ctxs = s.ctxs := rfl
@[simp] theorem State.setGang_mem (s : State) (g : Nat) (f : Gang → Gang) : (s.setGang g f).mem = s.mem := rfl

@[simp] theorem State.setStrand_cycle (s : State) (g t : Nat) (f : Strand → Strand) : (s.setStrand g t f).cycle = s.cycle := rfl
@[simp] theorem State.setStrand_stepNo (s : State) (g t : Nat) (f : Strand → Strand) : (s.setStrand g t f).stepNo = s.stepNo := rfl
@[simp] theorem State.setStrand_nextId (s : State) (g t : Nat) (f : Strand → Strand) : (s.setStrand g t f).nextId = s.nextId := rfl
@[simp] theorem State.setStrand_cur (s : State) (g t : Nat) (f : Strand → Strand) : (s.setStrand g t f).cur = s.cur := rfl
@[simp] theorem State.setStrand_stim (s : State) (g t : Nat) (f : Strand → Strand) : (s.setStrand g t f).stim = s.stim := rfl
@[simp] theorem State.setStrand_pkg (s : State) (g t : Nat) (f : Strand → Strand) : (s.setStrand g t f).pkg = s.pkg := rfl
@[simp] theorem State.setStrand_sec (s : State) (g t : Nat) (f : Strand → Strand) : (s.setStrand g t f).sec = s.sec := rfl
@[simp] theorem State.setStrand_fns (s : State) (g t : Nat) (f : Strand → Strand) : (s.setStrand g t f).fns = s.fns := rfl
@[simp] theorem State.setStrand_queues (s : State) (g t : Nat) (f : Strand → Strand) : (s.setStrand g t f).queues = s.queues := rfl
@[simp] theorem State.setStrand_rr (s : State) (g t : Nat) (f : Strand → Strand) : (s.setStrand g t f).rr = s.rr := rfl
@[simp] theorem State.setStrand_parts (s : State) (g t : Nat) (f : Strand → Strand) : (s.setStrand g t f).parts = s.parts := rfl
@[simp] theorem State.setStrand_peers (s : State) (g t : Nat) (f : Strand → Strand) : (s.setStrand g t f).peers = s.peers := rfl
@[simp] theorem State.setStrand_mail (s : State) (g t : Nat) (f : Strand → Strand) : (s.setStrand g t f).mail = s.mail := rfl
@[simp] theorem State.setStrand_cores (s : State) (g t : Nat) (f : Strand → Strand) : (s.setStrand g t f).cores = s.cores := rfl
@[simp] theorem State.setStrand_ckpts (s : State) (g t : Nat) (f : Strand → Strand) : (s.setStrand g t f).ckpts = s.ckpts := rfl
@[simp] theorem State.setStrand_groups (s : State) (g t : Nat) (f : Strand → Strand) : (s.setStrand g t f).groups = s.groups := rfl
@[simp] theorem State.setStrand_lkres (s : State) (g t : Nat) (f : Strand → Strand) : (s.setStrand g t f).lkres = s.lkres := rfl
@[simp] theorem State.setStrand_trans (s : State) (g t : Nat) (f : Strand → Strand) : (s.setStrand g t f).trans = s.trans := rfl
@[simp] theorem State.setStrand_ctxs (s : State) (g t : Nat) (f : Strand → Strand) : (s.setStrand g t f).ctxs = s.ctxs := rfl
@[simp] theorem State.setStrand_mem (s : State) (g t : Nat) (f : Strand → Strand) : (s.setStrand g t f).mem = s.mem := rfl

@[simp] theorem State.setSplit_cycle (s : State) (g t x : Nat) (f : Split → Split) : (s.setSplit g t x f).cycle = s.cycle := rfl
@[simp] theorem State.setSplit_stepNo (s : State) (g t x : Nat) (f : Split → Split) : (s.setSplit g t x f).stepNo = s.stepNo := rfl
@[simp] theorem State.setSplit_nextId (s : State) (g t x : Nat) (f : Split → Split) : (s.setSplit g t x f).nextId = s.nextId := rfl
@[simp] theorem State.setSplit_cur (s : State) (g t x : Nat) (f : Split → Split) : (s.setSplit g t x f).cur = s.cur := rfl
@[simp] theorem State.setSplit_stim (s : State) (g t x : Nat) (f : Split → Split) : (s.setSplit g t x f).stim = s.stim := rfl
@[simp] theorem State.setSplit_pkg (s : State) (g t x : Nat) (f : Split → Split) : (s.setSplit g t x f).pkg = s.pkg := rfl
@[simp] theorem State.setSplit_sec (s : State) (g t x : Nat) (f : Split → Split) : (s.setSplit g t x f).sec = s.sec := rfl
@[simp] theorem State.setSplit_fns (s : State) (g t x : Nat) (f : Split → Split) : (s.setSplit g t x f).fns = s.fns := rfl
@[simp] theorem State.setSplit_queues (s : State) (g t x : Nat) (f : Split → Split) : (s.setSplit g t x f).queues = s.queues := rfl
@[simp] theorem State.setSplit_rr (s : State) (g t x : Nat) (f : Split → Split) : (s.setSplit g t x f).rr = s.rr := rfl
@[simp] theorem State.setSplit_parts (s : State) (g t x : Nat) (f : Split → Split) : (s.setSplit g t x f).parts = s.parts := rfl
@[simp] theorem State.setSplit_peers (s : State) (g t x : Nat) (f : Split → Split) : (s.setSplit g t x f).peers = s.peers := rfl
@[simp] theorem State.setSplit_mail (s : State) (g t x : Nat) (f : Split → Split) : (s.setSplit g t x f).mail = s.mail := rfl
@[simp] theorem State.setSplit_cores (s : State) (g t x : Nat) (f : Split → Split) : (s.setSplit g t x f).cores = s.cores := rfl
@[simp] theorem State.setSplit_ckpts (s : State) (g t x : Nat) (f : Split → Split) : (s.setSplit g t x f).ckpts = s.ckpts := rfl
@[simp] theorem State.setSplit_groups (s : State) (g t x : Nat) (f : Split → Split) : (s.setSplit g t x f).groups = s.groups := rfl
@[simp] theorem State.setSplit_lkres (s : State) (g t x : Nat) (f : Split → Split) : (s.setSplit g t x f).lkres = s.lkres := rfl
@[simp] theorem State.setSplit_trans (s : State) (g t x : Nat) (f : Split → Split) : (s.setSplit g t x f).trans = s.trans := rfl
@[simp] theorem State.setSplit_ctxs (s : State) (g t x : Nat) (f : Split → Split) : (s.setSplit g t x f).ctxs = s.ctxs := rfl
@[simp] theorem State.setSplit_mem (s : State) (g t x : Nat) (f : Split → Split) : (s.setSplit g t x f).mem = s.mem := rfl

@[simp] theorem State.setView_cycle (s : State) (g t x : Nat) (f : View → View) : (s.setView g t x f).cycle = s.cycle := rfl
@[simp] theorem State.setView_stepNo (s : State) (g t x : Nat) (f : View → View) : (s.setView g t x f).stepNo = s.stepNo := rfl
@[simp] theorem State.setView_nextId (s : State) (g t x : Nat) (f : View → View) : (s.setView g t x f).nextId = s.nextId := rfl
@[simp] theorem State.setView_cur (s : State) (g t x : Nat) (f : View → View) : (s.setView g t x f).cur = s.cur := rfl
@[simp] theorem State.setView_stim (s : State) (g t x : Nat) (f : View → View) : (s.setView g t x f).stim = s.stim := rfl
@[simp] theorem State.setView_pkg (s : State) (g t x : Nat) (f : View → View) : (s.setView g t x f).pkg = s.pkg := rfl
@[simp] theorem State.setView_sec (s : State) (g t x : Nat) (f : View → View) : (s.setView g t x f).sec = s.sec := rfl
@[simp] theorem State.setView_fns (s : State) (g t x : Nat) (f : View → View) : (s.setView g t x f).fns = s.fns := rfl
@[simp] theorem State.setView_queues (s : State) (g t x : Nat) (f : View → View) : (s.setView g t x f).queues = s.queues := rfl
@[simp] theorem State.setView_rr (s : State) (g t x : Nat) (f : View → View) : (s.setView g t x f).rr = s.rr := rfl
@[simp] theorem State.setView_parts (s : State) (g t x : Nat) (f : View → View) : (s.setView g t x f).parts = s.parts := rfl
@[simp] theorem State.setView_peers (s : State) (g t x : Nat) (f : View → View) : (s.setView g t x f).peers = s.peers := rfl
@[simp] theorem State.setView_mail (s : State) (g t x : Nat) (f : View → View) : (s.setView g t x f).mail = s.mail := rfl
@[simp] theorem State.setView_cores (s : State) (g t x : Nat) (f : View → View) : (s.setView g t x f).cores = s.cores := rfl
@[simp] theorem State.setView_ckpts (s : State) (g t x : Nat) (f : View → View) : (s.setView g t x f).ckpts = s.ckpts := rfl
@[simp] theorem State.setView_groups (s : State) (g t x : Nat) (f : View → View) : (s.setView g t x f).groups = s.groups := rfl
@[simp] theorem State.setView_lkres (s : State) (g t x : Nat) (f : View → View) : (s.setView g t x f).lkres = s.lkres := rfl
@[simp] theorem State.setView_trans (s : State) (g t x : Nat) (f : View → View) : (s.setView g t x f).trans = s.trans := rfl
@[simp] theorem State.setView_ctxs (s : State) (g t x : Nat) (f : View → View) : (s.setView g t x f).ctxs = s.ctxs := rfl
@[simp] theorem State.setView_mem (s : State) (g t x : Nat) (f : View → View) : (s.setView g t x f).mem = s.mem := rfl

@[simp] theorem State.setCore_cycle (s : State) (c : Nat) (f : Core → Core) : (s.setCore c f).cycle = s.cycle := rfl
@[simp] theorem State.setCore_stepNo (s : State) (c : Nat) (f : Core → Core) : (s.setCore c f).stepNo = s.stepNo := rfl
@[simp] theorem State.setCore_nextId (s : State) (c : Nat) (f : Core → Core) : (s.setCore c f).nextId = s.nextId := rfl
@[simp] theorem State.setCore_cur (s : State) (c : Nat) (f : Core → Core) : (s.setCore c f).cur = s.cur := rfl
@[simp] theorem State.setCore_stim (s : State) (c : Nat) (f : Core → Core) : (s.setCore c f).stim = s.stim := rfl
@[simp] theorem State.setCore_pkg (s : State) (c : Nat) (f : Core → Core) : (s.setCore c f).pkg = s.pkg := rfl
@[simp] theorem State.setCore_sec (s : State) (c : Nat) (f : Core → Core) : (s.setCore c f).sec = s.sec := rfl
@[simp] theorem State.setCore_fns (s : State) (c : Nat) (f : Core → Core) : (s.setCore c f).fns = s.fns := rfl
@[simp] theorem State.setCore_queues (s : State) (c : Nat) (f : Core → Core) : (s.setCore c f).queues = s.queues := rfl
@[simp] theorem State.setCore_rr (s : State) (c : Nat) (f : Core → Core) : (s.setCore c f).rr = s.rr := rfl
@[simp] theorem State.setCore_parts (s : State) (c : Nat) (f : Core → Core) : (s.setCore c f).parts = s.parts := rfl
@[simp] theorem State.setCore_peers (s : State) (c : Nat) (f : Core → Core) : (s.setCore c f).peers = s.peers := rfl
@[simp] theorem State.setCore_mail (s : State) (c : Nat) (f : Core → Core) : (s.setCore c f).mail = s.mail := rfl
@[simp] theorem State.setCore_gangs (s : State) (c : Nat) (f : Core → Core) : (s.setCore c f).gangs = s.gangs := rfl
@[simp] theorem State.setCore_ckpts (s : State) (c : Nat) (f : Core → Core) : (s.setCore c f).ckpts = s.ckpts := rfl
@[simp] theorem State.setCore_groups (s : State) (c : Nat) (f : Core → Core) : (s.setCore c f).groups = s.groups := rfl
@[simp] theorem State.setCore_lkres (s : State) (c : Nat) (f : Core → Core) : (s.setCore c f).lkres = s.lkres := rfl
@[simp] theorem State.setCore_trans (s : State) (c : Nat) (f : Core → Core) : (s.setCore c f).trans = s.trans := rfl
@[simp] theorem State.setCore_ctxs (s : State) (c : Nat) (f : Core → Core) : (s.setCore c f).ctxs = s.ctxs := rfl
@[simp] theorem State.setCore_mem (s : State) (c : Nat) (f : Core → Core) : (s.setCore c f).mem = s.mem := rfl

@[simp] theorem State.setPart_cycle (s : State) (p : Nat) (f : Part → Part) : (s.setPart p f).cycle = s.cycle := rfl
@[simp] theorem State.setPart_stepNo (s : State) (p : Nat) (f : Part → Part) : (s.setPart p f).stepNo = s.stepNo := rfl
@[simp] theorem State.setPart_nextId (s : State) (p : Nat) (f : Part → Part) : (s.setPart p f).nextId = s.nextId := rfl
@[simp] theorem State.setPart_cur (s : State) (p : Nat) (f : Part → Part) : (s.setPart p f).cur = s.cur := rfl
@[simp] theorem State.setPart_stim (s : State) (p : Nat) (f : Part → Part) : (s.setPart p f).stim = s.stim := rfl
@[simp] theorem State.setPart_pkg (s : State) (p : Nat) (f : Part → Part) : (s.setPart p f).pkg = s.pkg := rfl
@[simp] theorem State.setPart_sec (s : State) (p : Nat) (f : Part → Part) : (s.setPart p f).sec = s.sec := rfl
@[simp] theorem State.setPart_fns (s : State) (p : Nat) (f : Part → Part) : (s.setPart p f).fns = s.fns := rfl
@[simp] theorem State.setPart_queues (s : State) (p : Nat) (f : Part → Part) : (s.setPart p f).queues = s.queues := rfl
@[simp] theorem State.setPart_rr (s : State) (p : Nat) (f : Part → Part) : (s.setPart p f).rr = s.rr := rfl
@[simp] theorem State.setPart_peers (s : State) (p : Nat) (f : Part → Part) : (s.setPart p f).peers = s.peers := rfl
@[simp] theorem State.setPart_mail (s : State) (p : Nat) (f : Part → Part) : (s.setPart p f).mail = s.mail := rfl
@[simp] theorem State.setPart_cores (s : State) (p : Nat) (f : Part → Part) : (s.setPart p f).cores = s.cores := rfl
@[simp] theorem State.setPart_gangs (s : State) (p : Nat) (f : Part → Part) : (s.setPart p f).gangs = s.gangs := rfl
@[simp] theorem State.setPart_ckpts (s : State) (p : Nat) (f : Part → Part) : (s.setPart p f).ckpts = s.ckpts := rfl
@[simp] theorem State.setPart_groups (s : State) (p : Nat) (f : Part → Part) : (s.setPart p f).groups = s.groups := rfl
@[simp] theorem State.setPart_lkres (s : State) (p : Nat) (f : Part → Part) : (s.setPart p f).lkres = s.lkres := rfl
@[simp] theorem State.setPart_trans (s : State) (p : Nat) (f : Part → Part) : (s.setPart p f).trans = s.trans := rfl
@[simp] theorem State.setPart_ctxs (s : State) (p : Nat) (f : Part → Part) : (s.setPart p f).ctxs = s.ctxs := rfl
@[simp] theorem State.setPart_mem (s : State) (p : Nat) (f : Part → Part) : (s.setPart p f).mem = s.mem := rfl

@[simp] theorem State.setQueue_cycle (s : State) (q : Nat) (f : Queue → Queue) : (s.setQueue q f).cycle = s.cycle := rfl
@[simp] theorem State.setQueue_stepNo (s : State) (q : Nat) (f : Queue → Queue) : (s.setQueue q f).stepNo = s.stepNo := rfl
@[simp] theorem State.setQueue_nextId (s : State) (q : Nat) (f : Queue → Queue) : (s.setQueue q f).nextId = s.nextId := rfl
@[simp] theorem State.setQueue_cur (s : State) (q : Nat) (f : Queue → Queue) : (s.setQueue q f).cur = s.cur := rfl
@[simp] theorem State.setQueue_stim (s : State) (q : Nat) (f : Queue → Queue) : (s.setQueue q f).stim = s.stim := rfl
@[simp] theorem State.setQueue_pkg (s : State) (q : Nat) (f : Queue → Queue) : (s.setQueue q f).pkg = s.pkg := rfl
@[simp] theorem State.setQueue_sec (s : State) (q : Nat) (f : Queue → Queue) : (s.setQueue q f).sec = s.sec := rfl
@[simp] theorem State.setQueue_fns (s : State) (q : Nat) (f : Queue → Queue) : (s.setQueue q f).fns = s.fns := rfl
@[simp] theorem State.setQueue_rr (s : State) (q : Nat) (f : Queue → Queue) : (s.setQueue q f).rr = s.rr := rfl
@[simp] theorem State.setQueue_parts (s : State) (q : Nat) (f : Queue → Queue) : (s.setQueue q f).parts = s.parts := rfl
@[simp] theorem State.setQueue_peers (s : State) (q : Nat) (f : Queue → Queue) : (s.setQueue q f).peers = s.peers := rfl
@[simp] theorem State.setQueue_mail (s : State) (q : Nat) (f : Queue → Queue) : (s.setQueue q f).mail = s.mail := rfl
@[simp] theorem State.setQueue_cores (s : State) (q : Nat) (f : Queue → Queue) : (s.setQueue q f).cores = s.cores := rfl
@[simp] theorem State.setQueue_gangs (s : State) (q : Nat) (f : Queue → Queue) : (s.setQueue q f).gangs = s.gangs := rfl
@[simp] theorem State.setQueue_ckpts (s : State) (q : Nat) (f : Queue → Queue) : (s.setQueue q f).ckpts = s.ckpts := rfl
@[simp] theorem State.setQueue_groups (s : State) (q : Nat) (f : Queue → Queue) : (s.setQueue q f).groups = s.groups := rfl
@[simp] theorem State.setQueue_lkres (s : State) (q : Nat) (f : Queue → Queue) : (s.setQueue q f).lkres = s.lkres := rfl
@[simp] theorem State.setQueue_trans (s : State) (q : Nat) (f : Queue → Queue) : (s.setQueue q f).trans = s.trans := rfl
@[simp] theorem State.setQueue_ctxs (s : State) (q : Nat) (f : Queue → Queue) : (s.setQueue q f).ctxs = s.ctxs := rfl
@[simp] theorem State.setQueue_mem (s : State) (q : Nat) (f : Queue → Queue) : (s.setQueue q f).mem = s.mem := rfl

@[simp] theorem State.setFn_cycle (s : State) (n : Nat) (f : Fn → Fn) : (s.setFn n f).cycle = s.cycle := rfl
@[simp] theorem State.setFn_stepNo (s : State) (n : Nat) (f : Fn → Fn) : (s.setFn n f).stepNo = s.stepNo := rfl
@[simp] theorem State.setFn_nextId (s : State) (n : Nat) (f : Fn → Fn) : (s.setFn n f).nextId = s.nextId := rfl
@[simp] theorem State.setFn_cur (s : State) (n : Nat) (f : Fn → Fn) : (s.setFn n f).cur = s.cur := rfl
@[simp] theorem State.setFn_stim (s : State) (n : Nat) (f : Fn → Fn) : (s.setFn n f).stim = s.stim := rfl
@[simp] theorem State.setFn_pkg (s : State) (n : Nat) (f : Fn → Fn) : (s.setFn n f).pkg = s.pkg := rfl
@[simp] theorem State.setFn_sec (s : State) (n : Nat) (f : Fn → Fn) : (s.setFn n f).sec = s.sec := rfl
@[simp] theorem State.setFn_queues (s : State) (n : Nat) (f : Fn → Fn) : (s.setFn n f).queues = s.queues := rfl
@[simp] theorem State.setFn_rr (s : State) (n : Nat) (f : Fn → Fn) : (s.setFn n f).rr = s.rr := rfl
@[simp] theorem State.setFn_parts (s : State) (n : Nat) (f : Fn → Fn) : (s.setFn n f).parts = s.parts := rfl
@[simp] theorem State.setFn_peers (s : State) (n : Nat) (f : Fn → Fn) : (s.setFn n f).peers = s.peers := rfl
@[simp] theorem State.setFn_mail (s : State) (n : Nat) (f : Fn → Fn) : (s.setFn n f).mail = s.mail := rfl
@[simp] theorem State.setFn_cores (s : State) (n : Nat) (f : Fn → Fn) : (s.setFn n f).cores = s.cores := rfl
@[simp] theorem State.setFn_gangs (s : State) (n : Nat) (f : Fn → Fn) : (s.setFn n f).gangs = s.gangs := rfl
@[simp] theorem State.setFn_ckpts (s : State) (n : Nat) (f : Fn → Fn) : (s.setFn n f).ckpts = s.ckpts := rfl
@[simp] theorem State.setFn_groups (s : State) (n : Nat) (f : Fn → Fn) : (s.setFn n f).groups = s.groups := rfl
@[simp] theorem State.setFn_lkres (s : State) (n : Nat) (f : Fn → Fn) : (s.setFn n f).lkres = s.lkres := rfl
@[simp] theorem State.setFn_trans (s : State) (n : Nat) (f : Fn → Fn) : (s.setFn n f).trans = s.trans := rfl
@[simp] theorem State.setFn_ctxs (s : State) (n : Nat) (f : Fn → Fn) : (s.setFn n f).ctxs = s.ctxs := rfl
@[simp] theorem State.setFn_mem (s : State) (n : Nat) (f : Fn → Fn) : (s.setFn n f).mem = s.mem := rfl

@[simp] theorem State.setPeer_cycle (s : State) (d : Nat) (f : Peer → Peer) : (s.setPeer d f).cycle = s.cycle := rfl
@[simp] theorem State.setPeer_stepNo (s : State) (d : Nat) (f : Peer → Peer) : (s.setPeer d f).stepNo = s.stepNo := rfl
@[simp] theorem State.setPeer_nextId (s : State) (d : Nat) (f : Peer → Peer) : (s.setPeer d f).nextId = s.nextId := rfl
@[simp] theorem State.setPeer_cur (s : State) (d : Nat) (f : Peer → Peer) : (s.setPeer d f).cur = s.cur := rfl
@[simp] theorem State.setPeer_stim (s : State) (d : Nat) (f : Peer → Peer) : (s.setPeer d f).stim = s.stim := rfl
@[simp] theorem State.setPeer_pkg (s : State) (d : Nat) (f : Peer → Peer) : (s.setPeer d f).pkg = s.pkg := rfl
@[simp] theorem State.setPeer_sec (s : State) (d : Nat) (f : Peer → Peer) : (s.setPeer d f).sec = s.sec := rfl
@[simp] theorem State.setPeer_fns (s : State) (d : Nat) (f : Peer → Peer) : (s.setPeer d f).fns = s.fns := rfl
@[simp] theorem State.setPeer_queues (s : State) (d : Nat) (f : Peer → Peer) : (s.setPeer d f).queues = s.queues := rfl
@[simp] theorem State.setPeer_rr (s : State) (d : Nat) (f : Peer → Peer) : (s.setPeer d f).rr = s.rr := rfl
@[simp] theorem State.setPeer_parts (s : State) (d : Nat) (f : Peer → Peer) : (s.setPeer d f).parts = s.parts := rfl
@[simp] theorem State.setPeer_mail (s : State) (d : Nat) (f : Peer → Peer) : (s.setPeer d f).mail = s.mail := rfl
@[simp] theorem State.setPeer_cores (s : State) (d : Nat) (f : Peer → Peer) : (s.setPeer d f).cores = s.cores := rfl
@[simp] theorem State.setPeer_gangs (s : State) (d : Nat) (f : Peer → Peer) : (s.setPeer d f).gangs = s.gangs := rfl
@[simp] theorem State.setPeer_ckpts (s : State) (d : Nat) (f : Peer → Peer) : (s.setPeer d f).ckpts = s.ckpts := rfl
@[simp] theorem State.setPeer_groups (s : State) (d : Nat) (f : Peer → Peer) : (s.setPeer d f).groups = s.groups := rfl
@[simp] theorem State.setPeer_lkres (s : State) (d : Nat) (f : Peer → Peer) : (s.setPeer d f).lkres = s.lkres := rfl
@[simp] theorem State.setPeer_trans (s : State) (d : Nat) (f : Peer → Peer) : (s.setPeer d f).trans = s.trans := rfl
@[simp] theorem State.setPeer_ctxs (s : State) (d : Nat) (f : Peer → Peer) : (s.setPeer d f).ctxs = s.ctxs := rfl
@[simp] theorem State.setPeer_mem (s : State) (d : Nat) (f : Peer → Peer) : (s.setPeer d f).mem = s.mem := rfl

@[simp] theorem State.setGroup_cycle (s : State) (k : Nat) (f : Group → Group) : (s.setGroup k f).cycle = s.cycle := rfl
@[simp] theorem State.setGroup_stepNo (s : State) (k : Nat) (f : Group → Group) : (s.setGroup k f).stepNo = s.stepNo := rfl
@[simp] theorem State.setGroup_nextId (s : State) (k : Nat) (f : Group → Group) : (s.setGroup k f).nextId = s.nextId := rfl
@[simp] theorem State.setGroup_cur (s : State) (k : Nat) (f : Group → Group) : (s.setGroup k f).cur = s.cur := rfl
@[simp] theorem State.setGroup_stim (s : State) (k : Nat) (f : Group → Group) : (s.setGroup k f).stim = s.stim := rfl
@[simp] theorem State.setGroup_pkg (s : State) (k : Nat) (f : Group → Group) : (s.setGroup k f).pkg = s.pkg := rfl
@[simp] theorem State.setGroup_sec (s : State) (k : Nat) (f : Group → Group) : (s.setGroup k f).sec = s.sec := rfl
@[simp] theorem State.setGroup_fns (s : State) (k : Nat) (f : Group → Group) : (s.setGroup k f).fns = s.fns := rfl
@[simp] theorem State.setGroup_queues (s : State) (k : Nat) (f : Group → Group) : (s.setGroup k f).queues = s.queues := rfl
@[simp] theorem State.setGroup_rr (s : State) (k : Nat) (f : Group → Group) : (s.setGroup k f).rr = s.rr := rfl
@[simp] theorem State.setGroup_parts (s : State) (k : Nat) (f : Group → Group) : (s.setGroup k f).parts = s.parts := rfl
@[simp] theorem State.setGroup_peers (s : State) (k : Nat) (f : Group → Group) : (s.setGroup k f).peers = s.peers := rfl
@[simp] theorem State.setGroup_mail (s : State) (k : Nat) (f : Group → Group) : (s.setGroup k f).mail = s.mail := rfl
@[simp] theorem State.setGroup_cores (s : State) (k : Nat) (f : Group → Group) : (s.setGroup k f).cores = s.cores := rfl
@[simp] theorem State.setGroup_gangs (s : State) (k : Nat) (f : Group → Group) : (s.setGroup k f).gangs = s.gangs := rfl
@[simp] theorem State.setGroup_ckpts (s : State) (k : Nat) (f : Group → Group) : (s.setGroup k f).ckpts = s.ckpts := rfl
@[simp] theorem State.setGroup_lkres (s : State) (k : Nat) (f : Group → Group) : (s.setGroup k f).lkres = s.lkres := rfl
@[simp] theorem State.setGroup_trans (s : State) (k : Nat) (f : Group → Group) : (s.setGroup k f).trans = s.trans := rfl
@[simp] theorem State.setGroup_ctxs (s : State) (k : Nat) (f : Group → Group) : (s.setGroup k f).ctxs = s.ctxs := rfl
@[simp] theorem State.setGroup_mem (s : State) (k : Nat) (f : Group → Group) : (s.setGroup k f).mem = s.mem := rfl

@[simp] theorem State.setPkg_cycle (s : State) (f : Pkg → Pkg) : (s.setPkg f).cycle = s.cycle := rfl
@[simp] theorem State.setPkg_stepNo (s : State) (f : Pkg → Pkg) : (s.setPkg f).stepNo = s.stepNo := rfl
@[simp] theorem State.setPkg_nextId (s : State) (f : Pkg → Pkg) : (s.setPkg f).nextId = s.nextId := rfl
@[simp] theorem State.setPkg_cur (s : State) (f : Pkg → Pkg) : (s.setPkg f).cur = s.cur := rfl
@[simp] theorem State.setPkg_stim (s : State) (f : Pkg → Pkg) : (s.setPkg f).stim = s.stim := rfl
@[simp] theorem State.setPkg_sec (s : State) (f : Pkg → Pkg) : (s.setPkg f).sec = s.sec := rfl
@[simp] theorem State.setPkg_fns (s : State) (f : Pkg → Pkg) : (s.setPkg f).fns = s.fns := rfl
@[simp] theorem State.setPkg_queues (s : State) (f : Pkg → Pkg) : (s.setPkg f).queues = s.queues := rfl
@[simp] theorem State.setPkg_rr (s : State) (f : Pkg → Pkg) : (s.setPkg f).rr = s.rr := rfl
@[simp] theorem State.setPkg_parts (s : State) (f : Pkg → Pkg) : (s.setPkg f).parts = s.parts := rfl
@[simp] theorem State.setPkg_peers (s : State) (f : Pkg → Pkg) : (s.setPkg f).peers = s.peers := rfl
@[simp] theorem State.setPkg_mail (s : State) (f : Pkg → Pkg) : (s.setPkg f).mail = s.mail := rfl
@[simp] theorem State.setPkg_cores (s : State) (f : Pkg → Pkg) : (s.setPkg f).cores = s.cores := rfl
@[simp] theorem State.setPkg_gangs (s : State) (f : Pkg → Pkg) : (s.setPkg f).gangs = s.gangs := rfl
@[simp] theorem State.setPkg_ckpts (s : State) (f : Pkg → Pkg) : (s.setPkg f).ckpts = s.ckpts := rfl
@[simp] theorem State.setPkg_groups (s : State) (f : Pkg → Pkg) : (s.setPkg f).groups = s.groups := rfl
@[simp] theorem State.setPkg_lkres (s : State) (f : Pkg → Pkg) : (s.setPkg f).lkres = s.lkres := rfl
@[simp] theorem State.setPkg_trans (s : State) (f : Pkg → Pkg) : (s.setPkg f).trans = s.trans := rfl
@[simp] theorem State.setPkg_ctxs (s : State) (f : Pkg → Pkg) : (s.setPkg f).ctxs = s.ctxs := rfl
@[simp] theorem State.setPkg_mem (s : State) (f : Pkg → Pkg) : (s.setPkg f).mem = s.mem := rfl
@[simp] theorem State.setPkg_pkg (s : State) (f : Pkg → Pkg) : (s.setPkg f).pkg = f s.pkg := rfl

@[simp] theorem State.putN_cycle (s : State) (a : Nat) (l : List Byte) : (s.putN a l).cycle = s.cycle := rfl
@[simp] theorem State.putN_stepNo (s : State) (a : Nat) (l : List Byte) : (s.putN a l).stepNo = s.stepNo := rfl
@[simp] theorem State.putN_nextId (s : State) (a : Nat) (l : List Byte) : (s.putN a l).nextId = s.nextId := rfl
@[simp] theorem State.putN_cur (s : State) (a : Nat) (l : List Byte) : (s.putN a l).cur = s.cur := rfl
@[simp] theorem State.putN_stim (s : State) (a : Nat) (l : List Byte) : (s.putN a l).stim = s.stim := rfl
@[simp] theorem State.putN_pkg (s : State) (a : Nat) (l : List Byte) : (s.putN a l).pkg = s.pkg := rfl
@[simp] theorem State.putN_sec (s : State) (a : Nat) (l : List Byte) : (s.putN a l).sec = s.sec := rfl
@[simp] theorem State.putN_fns (s : State) (a : Nat) (l : List Byte) : (s.putN a l).fns = s.fns := rfl
@[simp] theorem State.putN_queues (s : State) (a : Nat) (l : List Byte) : (s.putN a l).queues = s.queues := rfl
@[simp] theorem State.putN_rr (s : State) (a : Nat) (l : List Byte) : (s.putN a l).rr = s.rr := rfl
@[simp] theorem State.putN_parts (s : State) (a : Nat) (l : List Byte) : (s.putN a l).parts = s.parts := rfl
@[simp] theorem State.putN_peers (s : State) (a : Nat) (l : List Byte) : (s.putN a l).peers = s.peers := rfl
@[simp] theorem State.putN_mail (s : State) (a : Nat) (l : List Byte) : (s.putN a l).mail = s.mail := rfl
@[simp] theorem State.putN_cores (s : State) (a : Nat) (l : List Byte) : (s.putN a l).cores = s.cores := rfl
@[simp] theorem State.putN_gangs (s : State) (a : Nat) (l : List Byte) : (s.putN a l).gangs = s.gangs := rfl
@[simp] theorem State.putN_ckpts (s : State) (a : Nat) (l : List Byte) : (s.putN a l).ckpts = s.ckpts := rfl
@[simp] theorem State.putN_groups (s : State) (a : Nat) (l : List Byte) : (s.putN a l).groups = s.groups := rfl
@[simp] theorem State.putN_lkres (s : State) (a : Nat) (l : List Byte) : (s.putN a l).lkres = s.lkres := rfl
@[simp] theorem State.putN_trans (s : State) (a : Nat) (l : List Byte) : (s.putN a l).trans = s.trans := rfl
@[simp] theorem State.putN_ctxs (s : State) (a : Nat) (l : List Byte) : (s.putN a l).ctxs = s.ctxs := rfl
@[simp] theorem State.putN_mem (s : State) (a : Nat) (l : List Byte) : (s.putN a l).mem = s.mem.writeN a l := rfl

/-! ## The part that an update writes -/

theorem State.setGang_gang (s : State) (g : Nat) (f : Gang → Gang) (h : (s.gangs.get? g).isSome) : (s.setGang g f).gang g = f (s.gang g) :=
  Tbl.getD_modify_self s.gangs g f Gang.empty h

theorem State.setGang_gang_ne (s : State) {g h : Nat} (f : Gang → Gang) (hne : h ≠ g) : (s.setGang g f).gang h = s.gang h :=
  Tbl.getD_modify_ne s.gangs f Gang.empty hne

@[simp] theorem State.setCore_core (s : State) (c : Nat) (f : Core → Core) : (s.setCore c f).core c = f (s.core c) :=
  Tbl.getD_set_self s.cores c _ _

theorem State.setCore_core_ne (s : State) {c d : Nat} (f : Core → Core) (h : d ≠ c) : (s.setCore c f).core d = s.core d :=
  Tbl.getD_set_ne s.cores _ _ h

@[simp] theorem State.setQueue_queue (s : State) (q : Nat) (f : Queue → Queue) : (s.setQueue q f).queue q = f (s.queue q) :=
  Tbl.getD_set_self s.queues q _ _

theorem State.setQueue_queue_ne (s : State) {q r : Nat} (f : Queue → Queue) (h : r ≠ q) : (s.setQueue q f).queue r = s.queue r :=
  Tbl.getD_set_ne s.queues _ _ h

@[simp] theorem State.setFn_fn (s : State) (n : Nat) (f : Fn → Fn) : (s.setFn n f).fn n = f (s.fn n) := Tbl.getD_set_self s.fns n _ _

theorem State.setFn_fn_ne (s : State) {n m : Nat} (f : Fn → Fn) (h : m ≠ n) : (s.setFn n f).fn m = s.fn m :=
  Tbl.getD_set_ne s.fns _ _ h

@[simp] theorem State.setPeer_peer (s : State) (d : Nat) (f : Peer → Peer) : (s.setPeer d f).peer d = f (s.peer d) :=
  Tbl.getD_set_self s.peers d _ _

theorem State.setPart_part (s : State) (p : Nat) (f : Part → Part) (h : (s.parts.get? p).isSome) : (s.setPart p f).part p = f (s.part p) :=
  Tbl.getD_modify_self s.parts p f _ h

theorem State.setPart_part_ne (s : State) {p q : Nat} (f : Part → Part) (h : q ≠ p) : (s.setPart p f).part q = s.part q :=
  Tbl.getD_modify_ne s.parts f _ h

/-! ## Reading through an update of another part -/

@[simp] theorem State.setGang_core (s : State) (g : Nat) (f : Gang → Gang) (y : Nat) : (s.setGang g f).core y = s.core y := rfl
@[simp] theorem State.setGang_part (s : State) (g : Nat) (f : Gang → Gang) (y : Nat) : (s.setGang g f).part y = s.part y := rfl
@[simp] theorem State.setGang_queue (s : State) (g : Nat) (f : Gang → Gang) (y : Nat) : (s.setGang g f).queue y = s.queue y := rfl
@[simp] theorem State.setGang_fn (s : State) (g : Nat) (f : Gang → Gang) (y : Nat) : (s.setGang g f).fn y = s.fn y := rfl
@[simp] theorem State.setGang_peer (s : State) (g : Nat) (f : Gang → Gang) (y : Nat) : (s.setGang g f).peer y = s.peer y := rfl
@[simp] theorem State.setStrand_core (s : State) (g t : Nat) (f : Strand → Strand) (y : Nat) : (s.setStrand g t f).core y = s.core y := rfl
@[simp] theorem State.setStrand_part (s : State) (g t : Nat) (f : Strand → Strand) (y : Nat) : (s.setStrand g t f).part y = s.part y := rfl
@[simp] theorem State.setStrand_queue (s : State) (g t : Nat) (f : Strand → Strand) (y : Nat) : (s.setStrand g t f).queue y = s.queue y := rfl
@[simp] theorem State.setStrand_fn (s : State) (g t : Nat) (f : Strand → Strand) (y : Nat) : (s.setStrand g t f).fn y = s.fn y := rfl
@[simp] theorem State.setStrand_peer (s : State) (g t : Nat) (f : Strand → Strand) (y : Nat) : (s.setStrand g t f).peer y = s.peer y := rfl
@[simp] theorem State.setSplit_core (s : State) (g t x : Nat) (f : Split → Split) (y : Nat) : (s.setSplit g t x f).core y = s.core y := rfl
@[simp] theorem State.setSplit_part (s : State) (g t x : Nat) (f : Split → Split) (y : Nat) : (s.setSplit g t x f).part y = s.part y := rfl
@[simp] theorem State.setSplit_queue (s : State) (g t x : Nat) (f : Split → Split) (y : Nat) : (s.setSplit g t x f).queue y = s.queue y := rfl
@[simp] theorem State.setSplit_fn (s : State) (g t x : Nat) (f : Split → Split) (y : Nat) : (s.setSplit g t x f).fn y = s.fn y := rfl
@[simp] theorem State.setSplit_peer (s : State) (g t x : Nat) (f : Split → Split) (y : Nat) : (s.setSplit g t x f).peer y = s.peer y := rfl
@[simp] theorem State.setView_core (s : State) (g t x : Nat) (f : View → View) (y : Nat) : (s.setView g t x f).core y = s.core y := rfl
@[simp] theorem State.setView_part (s : State) (g t x : Nat) (f : View → View) (y : Nat) : (s.setView g t x f).part y = s.part y := rfl
@[simp] theorem State.setView_queue (s : State) (g t x : Nat) (f : View → View) (y : Nat) : (s.setView g t x f).queue y = s.queue y := rfl
@[simp] theorem State.setView_fn (s : State) (g t x : Nat) (f : View → View) (y : Nat) : (s.setView g t x f).fn y = s.fn y := rfl
@[simp] theorem State.setView_peer (s : State) (g t x : Nat) (f : View → View) (y : Nat) : (s.setView g t x f).peer y = s.peer y := rfl
@[simp] theorem State.setCore_gang (s : State) (c : Nat) (f : Core → Core) (y : Nat) : (s.setCore c f).gang y = s.gang y := rfl
@[simp] theorem State.setCore_part (s : State) (c : Nat) (f : Core → Core) (y : Nat) : (s.setCore c f).part y = s.part y := rfl
@[simp] theorem State.setCore_queue (s : State) (c : Nat) (f : Core → Core) (y : Nat) : (s.setCore c f).queue y = s.queue y := rfl
@[simp] theorem State.setCore_fn (s : State) (c : Nat) (f : Core → Core) (y : Nat) : (s.setCore c f).fn y = s.fn y := rfl
@[simp] theorem State.setCore_peer (s : State) (c : Nat) (f : Core → Core) (y : Nat) : (s.setCore c f).peer y = s.peer y := rfl
@[simp] theorem State.setPart_gang (s : State) (p : Nat) (f : Part → Part) (y : Nat) : (s.setPart p f).gang y = s.gang y := rfl
@[simp] theorem State.setPart_core (s : State) (p : Nat) (f : Part → Part) (y : Nat) : (s.setPart p f).core y = s.core y := rfl
@[simp] theorem State.setPart_queue (s : State) (p : Nat) (f : Part → Part) (y : Nat) : (s.setPart p f).queue y = s.queue y := rfl
@[simp] theorem State.setPart_fn (s : State) (p : Nat) (f : Part → Part) (y : Nat) : (s.setPart p f).fn y = s.fn y := rfl
@[simp] theorem State.setPart_peer (s : State) (p : Nat) (f : Part → Part) (y : Nat) : (s.setPart p f).peer y = s.peer y := rfl
@[simp] theorem State.setQueue_gang (s : State) (q : Nat) (f : Queue → Queue) (y : Nat) : (s.setQueue q f).gang y = s.gang y := rfl
@[simp] theorem State.setQueue_core (s : State) (q : Nat) (f : Queue → Queue) (y : Nat) : (s.setQueue q f).core y = s.core y := rfl
@[simp] theorem State.setQueue_part (s : State) (q : Nat) (f : Queue → Queue) (y : Nat) : (s.setQueue q f).part y = s.part y := rfl
@[simp] theorem State.setQueue_fn (s : State) (q : Nat) (f : Queue → Queue) (y : Nat) : (s.setQueue q f).fn y = s.fn y := rfl
@[simp] theorem State.setQueue_peer (s : State) (q : Nat) (f : Queue → Queue) (y : Nat) : (s.setQueue q f).peer y = s.peer y := rfl
@[simp] theorem State.setFn_gang (s : State) (n : Nat) (f : Fn → Fn) (y : Nat) : (s.setFn n f).gang y = s.gang y := rfl
@[simp] theorem State.setFn_core (s : State) (n : Nat) (f : Fn → Fn) (y : Nat) : (s.setFn n f).core y = s.core y := rfl
@[simp] theorem State.setFn_part (s : State) (n : Nat) (f : Fn → Fn) (y : Nat) : (s.setFn n f).part y = s.part y := rfl
@[simp] theorem State.setFn_queue (s : State) (n : Nat) (f : Fn → Fn) (y : Nat) : (s.setFn n f).queue y = s.queue y := rfl
@[simp] theorem State.setFn_peer (s : State) (n : Nat) (f : Fn → Fn) (y : Nat) : (s.setFn n f).peer y = s.peer y := rfl
@[simp] theorem State.setPeer_gang (s : State) (d : Nat) (f : Peer → Peer) (y : Nat) : (s.setPeer d f).gang y = s.gang y := rfl
@[simp] theorem State.setPeer_core (s : State) (d : Nat) (f : Peer → Peer) (y : Nat) : (s.setPeer d f).core y = s.core y := rfl
@[simp] theorem State.setPeer_part (s : State) (d : Nat) (f : Peer → Peer) (y : Nat) : (s.setPeer d f).part y = s.part y := rfl
@[simp] theorem State.setPeer_queue (s : State) (d : Nat) (f : Peer → Peer) (y : Nat) : (s.setPeer d f).queue y = s.queue y := rfl
@[simp] theorem State.setPeer_fn (s : State) (d : Nat) (f : Peer → Peer) (y : Nat) : (s.setPeer d f).fn y = s.fn y := rfl
@[simp] theorem State.setGroup_gang (s : State) (k : Nat) (f : Group → Group) (y : Nat) : (s.setGroup k f).gang y = s.gang y := rfl
@[simp] theorem State.setGroup_core (s : State) (k : Nat) (f : Group → Group) (y : Nat) : (s.setGroup k f).core y = s.core y := rfl
@[simp] theorem State.setGroup_part (s : State) (k : Nat) (f : Group → Group) (y : Nat) : (s.setGroup k f).part y = s.part y := rfl
@[simp] theorem State.setGroup_queue (s : State) (k : Nat) (f : Group → Group) (y : Nat) : (s.setGroup k f).queue y = s.queue y := rfl
@[simp] theorem State.setGroup_fn (s : State) (k : Nat) (f : Group → Group) (y : Nat) : (s.setGroup k f).fn y = s.fn y := rfl
@[simp] theorem State.setGroup_peer (s : State) (k : Nat) (f : Group → Group) (y : Nat) : (s.setGroup k f).peer y = s.peer y := rfl
@[simp] theorem State.setPkg_gang (s : State) (f : Pkg → Pkg) (y : Nat) : (s.setPkg f).gang y = s.gang y := rfl
@[simp] theorem State.setPkg_core (s : State) (f : Pkg → Pkg) (y : Nat) : (s.setPkg f).core y = s.core y := rfl
@[simp] theorem State.setPkg_part (s : State) (f : Pkg → Pkg) (y : Nat) : (s.setPkg f).part y = s.part y := rfl
@[simp] theorem State.setPkg_queue (s : State) (f : Pkg → Pkg) (y : Nat) : (s.setPkg f).queue y = s.queue y := rfl
@[simp] theorem State.setPkg_fn (s : State) (f : Pkg → Pkg) (y : Nat) : (s.setPkg f).fn y = s.fn y := rfl
@[simp] theorem State.setPkg_peer (s : State) (f : Pkg → Pkg) (y : Nat) : (s.setPkg f).peer y = s.peer y := rfl
@[simp] theorem State.putN_gang (s : State) (a : Nat) (l : List Byte) (y : Nat) : (s.putN a l).gang y = s.gang y := rfl
@[simp] theorem State.putN_core (s : State) (a : Nat) (l : List Byte) (y : Nat) : (s.putN a l).core y = s.core y := rfl
@[simp] theorem State.putN_part (s : State) (a : Nat) (l : List Byte) (y : Nat) : (s.putN a l).part y = s.part y := rfl
@[simp] theorem State.putN_queue (s : State) (a : Nat) (l : List Byte) (y : Nat) : (s.putN a l).queue y = s.queue y := rfl
@[simp] theorem State.putN_fn (s : State) (a : Nat) (l : List Byte) (y : Nat) : (s.putN a l).fn y = s.fn y := rfl
@[simp] theorem State.putN_peer (s : State) (a : Nat) (l : List Byte) (y : Nat) : (s.putN a l).peer y = s.peer y := rfl

/-! ## Updates of one strand or split, one after another -/

@[simp] theorem State.setGang_setGang (s : State) (g : Nat) (f f' : Gang → Gang) :
    (s.setGang g f).setGang g f' = s.setGang g fun G => f' (f G) := by simp [State.setGang]

@[simp] theorem State.setStrand_setStrand (s : State) (g t : Nat) (f f' : Strand → Strand) :
    (s.setStrand g t f).setStrand g t f' = s.setStrand g t fun S => f' (f S) := by simp [State.setStrand]

@[simp] theorem State.setSplit_setSplit (s : State) (g t x : Nat) (f f' : Split → Split) :
    (s.setSplit g t x f).setSplit g t x f' = s.setSplit g t x fun X => f' (f X) := by simp [State.setSplit]

/-- An update of a gang puts the updated gang there. -/
theorem State.setGang_const (s : State) (g : Nat) (f : Gang → Gang) : s.setGang g f = s.setGang g fun _ => f (s.gang g) := by
  simp only [State.setGang, State.gang]
  rw [Tbl.modify_const s.gangs g f Gang.empty]

/-- The same for a strand. -/
theorem State.setStrand_const (s : State) (g t : Nat) (f : Strand → Strand) :
    s.setStrand g t f = s.setStrand g t fun _ => f (s.strand g t) := by
  simp only [State.setStrand]
  rw [State.setGang_const, State.setGang_const s g fun G => { G with strands := G.strands.modify t fun _ => f (s.strand g t) }]
  simp only [State.strand]
  rw [Tbl.modify_const (s.gang g).strands t f Strand.empty]

/-- The same for a split. -/
theorem State.setSplit_const (s : State) (g t x : Nat) (f : Split → Split) :
    s.setSplit g t x f = s.setSplit g t x fun _ => f (s.split g t x) := by
  simp only [State.setSplit]
  rw [State.setStrand_const, State.setStrand_const s g t fun S => { S with splits := S.splits.modify x fun _ => f (s.split g t x) }]
  simp only [State.split]
  rw [Tbl.modify_const (s.strand g t).splits x f Split.none]

/-- An update of a split is one of its strand. -/
theorem State.setSplit_eq (s : State) (g t x : Nat) (f : Split → Split) :
    s.setSplit g t x f = s.setStrand g t fun S => { S with splits := S.splits.modify x f } := rfl

theorem State.setStrand_strand (s : State) (g t : Nat) (f : Strand → Strand) (hg : (s.gangs.get? g).isSome)
    (ht : ((s.gang g).strands.get? t).isSome) : (s.setStrand g t f).strand g t = f (s.strand g t) := by
  rw [State.strand, State.setStrand, State.setGang_gang s g _ hg]
  exact Tbl.getD_modify_self _ t f Strand.empty ht

theorem State.setSplit_split (s : State) (g t x : Nat) (f : Split → Split) (hg : (s.gangs.get? g).isSome)
    (ht : ((s.gang g).strands.get? t).isSome) (hx : ((s.strand g t).splits.get? x).isSome) :
    (s.setSplit g t x f).split g t x = f (s.split g t x) := by
  rw [State.split, State.setSplit, State.setStrand_strand s g t _ hg ht]
  exact Tbl.getD_modify_self _ x f Split.none hx

end Sys2Proof.Machine
end

