-- ==== Sys2Proof/Laws/Issue.lean ====
section
/-! SUPPORT. Laws/Issue.lean: what issuing an instruction can do, and what its context holds. -/

namespace Sys2Proof.Machine

open Sys2Proof

/-- A split that may issue is listed. -/
theorem canIssue_listed {s : State} (h : s.canIssue = true) :
    (s.gangs.get? s.cur.g).isSome ∧ ((s.gang s.cur.g).strands.get? s.cur.t).isSome ∧
      ((s.strand s.cur.g s.cur.t).splits.get? s.cur.x).isSome ∧ (s.split s.cur.g s.cur.t s.cur.x).st = .run := by
  have hst : (s.split s.cur.g s.cur.t s.cur.x).st = .run := by
    simp only [State.canIssue, Bool.and_eq_true, beq_iff_eq] at h
    exact h.2
  have hx : ((s.strand s.cur.g s.cur.t).splits.get? s.cur.x).isSome := by
    apply Tbl.get?_isSome_of_getD_ne _ _ Split.none
    intro e
    rw [State.split, e] at hst
    cases hst
  have ht : ((s.gang s.cur.g).strands.get? s.cur.t).isSome := by
    apply Tbl.get?_isSome_of_getD_ne _ _ Strand.empty
    intro e
    rw [State.strand, e] at hx
    cases hx
  have hg : (s.gangs.get? s.cur.g).isSome := by
    apply Tbl.get?_isSome_of_getD_ne _ _ Gang.empty
    intro e
    rw [State.gang, e] at ht
    cases ht
  exact ⟨hg, ht, hx, hst⟩

/-- A check that was not failed. -/
theorem ite_go {c : Prop} [Decidable c] {r : Gate} {k : Ctx} (q : Gate) (hq : q ≠ .go k) (h : (if c then q else r) = .go k) :
    ¬c ∧ r = .go k := by
  by_cases hc : c
  · rw [if_pos hc] at h; exact absurd h hq
  · rw [if_neg hc] at h; exact ⟨hc, h⟩

/-- What the context of an instruction that issues holds. -/
theorem gate_go {i : Instr} {s : State} {k : Ctx} (h : gate i s = .go k) :
    k.g = s.cur.g ∧ k.t = s.cur.t ∧ k.x = s.cur.x ∧ k.G = s.gang s.cur.g ∧
      k.pc = (s.split s.cur.g s.cur.t s.cur.x).pc ∧ k.next = k.pc + BitVec.ofNat 16 (bytesOf i) ∧
      k.stall = (i.com.map fun c => c.stall.toNat).getD 0 ∧ k.yld = (i.com.map Com.yld).getD false ∧
      k.act = (s.strand s.cur.g s.cur.t).active (s.split s.cur.g s.cur.t s.cur.x) ∧ k.now = s.cycle := by
  unfold gate at h
  obtain ⟨-, h⟩ := ite_go .hold (by nofun) h
  obtain ⟨-, h⟩ := ite_go .hold (by nofun) h
  obtain ⟨-, h⟩ := ite_go .hold (by nofun) h
  split at h
  · cases h
  obtain ⟨-, h⟩ := ite_go (.trap _) (by nofun) h
  obtain ⟨-, h⟩ := ite_go .hold (by nofun) h
  split at h
  · cases h
  · cases h
  split at h
  · cases h
  obtain ⟨-, h⟩ := ite_go (.trap _) (by nofun) h
  cases h
  exact ⟨rfl, rfl, rfl, rfl, rfl, rfl, rfl, rfl, rfl, rfl⟩

/-- A fold of updates of one field changes that field alone. -/
theorem foldl_v {α : Type} (f : Strand → α → Strand) (hf : ∀ S a, f S a = { S with v := (f S a).v }) (l : List α) (S : Strand) :
    l.foldl f S = { S with v := (l.foldl f S).v } := by
  induction l generalizing S with
  | nil => rfl
  | cons a r ih =>
    rw [List.foldl_cons, ih, hf]

/-- Early reads of vector registers change what is read of them, and nothing else. -/
theorem oldVregs_eq (S : Strand) (n : Nat) (l : List VFly) : oldVregs S n l = { S with v := (oldVregs S n l).v } := by
  unfold oldVregs
  refine foldl_v _ (fun S f => ?_) _ S
  split <;> rfl

/-- Early reads (R168) change what an instruction reads of its registers, and nothing else of its strand and split. -/
theorem gate_go_strand {i : Instr} {s : State} {k : Ctx} (h : gate i s = .go k) :
    k.S = { s.strand s.cur.g s.cur.t with v := k.S.v } ∧ k.X = { s.split s.cur.g s.cur.t s.cur.x with view := k.X.view } := by
  unfold gate at h
  obtain ⟨-, h⟩ := ite_go .hold (by nofun) h
  obtain ⟨-, h⟩ := ite_go .hold (by nofun) h
  obtain ⟨-, h⟩ := ite_go .hold (by nofun) h
  split at h
  · cases h
  obtain ⟨-, h⟩ := ite_go (.trap _) (by nofun) h
  obtain ⟨-, h⟩ := ite_go .hold (by nofun) h
  split at h
  · cases h
  · cases h
  split at h
  · cases h
  obtain ⟨-, h⟩ := ite_go (.trap _) (by nofun) h
  cases h
  exact ⟨oldVregs_eq _ _ _, rfl⟩

/-- Where every source has landed, an instruction reads no register early. -/
theorem late_of_landed {i s} (h : Landed i s) : lateKeys (s.split s.cur.g s.cur.t s.cur.x).view s.cycle (scalarReads i s) = [] ∧ lateV (s.strand s.cur.g s.cur.t) s.cycle (vectorReads i) = [] := by
  constructor
  · unfold lateKeys
    rw [List.filter_eq_nil_iff]
    intro f hf hc
    simp only [gt_iff_lt, Bool.and_eq_true, decide_eq_true_eq, List.contains_iff_mem] at hc
    have := h.1 f hf hc.2
    omega
  · unfold lateV
    rw [List.filter_eq_nil_iff]
    intro f hf hc
    simp only [gt_iff_lt, Bool.and_eq_true, decide_eq_true_eq, List.contains_iff_mem] at hc
    have := h.2 f hf hc.2
    omega

/-- Everything the checks at issue can do for a split that nothing holds (R99, R159, R166-R169). -/
theorem gate_unheld {i s} (h : Unheld s) : gate i s = match operandsOf i s with
   | some n => .trap { cause := cOPERAND, detail := BitVec.ofNat 64 n }
   | none =>
      if isGraph i && !(s.strand s.cur.g s.cur.t).converged then .trap { cause := cCONVERGENCE }
      else if (scalarReads i s ++ scalarWrites i).any (fun k => k != 0 && (s.split s.cur.g s.cur.t s.cur.x).view.busy.contains k) || (vectorReads i ++ vectorWrites i).any (s.strand s.cur.g s.cur.t).vbusy.contains then .hold
      else
        match (lateKeys (s.split s.cur.g s.cur.t s.cur.x).view s.cycle (scalarReads i s)).find? (·.chk), (lateV (s.strand s.cur.g s.cur.t) s.cycle (vectorReads i)).find? (·.chk) with
        | some f, _ => .trap { cause := cSTALLCHK, val := BitVec.ofNat 64 (f.key % 256) }
        | none, some f => .trap { cause := cSTALLCHK, val := BitVec.ofNat 64 f.reg }
        | none, none =>
          match ((scalarReads i s).filterMap (s.split s.cur.g s.cur.t s.cur.x).view.marks.get?) ++ ((vectorReads i).filterMap (s.strand s.cur.g s.cur.t).vmarks.get?) with
          | m :: _ => .trap { cause := cPOISON, addr := m.addr, detail := m.detail }
          | [] =>
            let S := s.strand s.cur.g s.cur.t
            let X := s.split s.cur.g s.cur.t s.cur.x
            let X1 := { X with view := oldView X.view (s.choice 0) (lateKeys X.view s.cycle (scalarReads i s)) }
            let S1 := oldVregs S (s.choice 0) (lateV S s.cycle (vectorReads i))
            let live := match S.flash with
              | some f => (X1.view.ctl crCHK).getLsbD 1 && !(S.recipe.isSome && S.eret.isNone) && !isFlash i &&
                  ((scalarWrites i).any (fun r => r != 0 && f.sset.contains r) || (vectorWrites i).any f.vset.contains)
              | none => false
            if live then .trap { cause := cLIVEIN }
            else
              .go { g := s.cur.g, t := s.cur.t, x := s.cur.x, G := s.gang s.cur.g, S := S1, X := X1, pc := X.pc, next := X.pc + BitVec.ofNat 16 (bytesOf i),
                    stall := (i.com.map fun c => c.stall.toNat).getD 0, yld := (i.com.map Com.yld).getD false, act := S.active X,
                    now := s.cycle } := by
  obtain ⟨h1, h2, h3⟩ := h
  unfold gate
  refine (if_neg ?_).trans ((if_neg ?_).trans ((if_neg ?_).trans ?_))
  · exact not_lt.mpr h1
  · change ¬ (match (s.strand s.cur.g s.cur.t).eret with | some e => e.split != s.cur.x | none => false) = true
    cases he : (s.strand s.cur.g s.cur.t).eret with
    | none => simp
    | some e => simp [h2 e he]
  · simp only [State.bankBefore, List.any_eq_true, not_exists, not_and, Bool.not_eq_true]
    intro c hc w hw
    have h := h3 c hc w hw
    cases ha : w.acq <;> simp_all
  · rfl

/-- The scoreboard test of the checks (R167). -/
theorem scoreboarded_iff {i s} : ((scalarReads i s ++ scalarWrites i).any (fun k => k != 0 && (s.split s.cur.g s.cur.t s.cur.x).view.busy.contains k) || (vectorReads i ++ vectorWrites i).any (s.strand s.cur.g s.cur.t).vbusy.contains) = true ↔ Scoreboarded i s := by
  rw [Bool.or_eq_true, List.any_eq_true, List.any_eq_true]
  simp only [Scoreboarded, bne_iff_ne, ne_eq, Bool.and_eq_true, List.contains_iff_mem]

/-- The convergence test of the checks (R368). -/
theorem converges_iff {i s} : ¬(isGraph i && !(s.strand s.cur.g s.cur.t).converged) = true ↔ Converges i s := by
  unfold Converges
  cases isGraph i <;> simp

/-- The poison test of the checks (R166). -/
theorem unmarked_iff {i s} : ((scalarReads i s).filterMap (s.split s.cur.g s.cur.t s.cur.x).view.marks.get?) ++ ((vectorReads i).filterMap (s.strand s.cur.g s.cur.t).vmarks.get?) = [] ↔ Unmarked i s := by
  simp only [Unmarked, List.append_eq_nil_iff, List.filterMap_eq_nil_iff]

/-- The live-in test of the checks (R99). -/
theorem writesLiveIn_iff {i s} (S : Strand) (V : View) (hS : S = s.strand s.cur.g s.cur.t) (hV : V = (s.split s.cur.g s.cur.t s.cur.x).view) :
  ((match S.flash with
              | some f => (V.ctl crCHK).getLsbD 1 && !(S.recipe.isSome && S.eret.isNone) && !isFlash i &&
                  ((scalarWrites i).any (fun r => r != 0 && f.sset.contains r) || (vectorWrites i).any f.vset.contains)
              | none => false) = true) ↔ WritesLiveIn i s := by
  subst hS hV
  unfold WritesLiveIn
  cases hf : (s.strand s.cur.g s.cur.t).flash with
  | none => simp
  | some f =>
    cases (s.strand s.cur.g s.cur.t).recipe <;> cases (s.strand s.cur.g s.cur.t).eret <;> simp [and_assoc]

/-- Issuing gives the body's effect. -/
theorem issue_go {i : Instr} {s : State} {k : Ctx} (body : Ctx → State → State) (h : Issues i s k) : issue i body s = .next (body k s) := by
  simp [issue, h.1, h.2]

/-- Issuing never refuses, and faults only where no split issues. -/
theorem issue_cases (i : Instr) (body : Ctx → State → State) (s : State) :
    issue i body s = .fault .noIssuingSplit ∨ ∃ t, issue i body s = .next t := by
  unfold issue
  split
  · exact .inl rfl
  · split <;> exact .inr ⟨_, rfl⟩

end Sys2Proof.Machine
end

