-- ==== Sys2Proof/Laws/Memory.lean ====
section
/-! SUPPORT. Laws/Memory.lean: reading memory after each of its operations, and the canonical form, which every one of them keeps. -/

namespace Sys2Proof.Machine

open Sys2Proof

/-! ## Reading -/

@[simp] theorem Mem.base_write (m : Mem) (a : Nat) (b : Byte) (x : Nat) : (m.write a b).base x = m.base x := rfl

@[simp] theorem Mem.read_write_self (m : Mem) (a : Nat) (b : Byte) : (m.write a b).read a = b := by
  rw [Mem.read, Mem.base_write]
  unfold Mem.write
  by_cases h : b = m.base a
  · simp [h, Tbl.get?_erase_self]
  · simp [h]

theorem Mem.read_write_ne (m : Mem) {a x : Nat} (b : Byte) (h : x ≠ a) : (m.write a b).read x = m.read x := by
  rw [Mem.read, Mem.base_write, Mem.read]
  unfold Mem.write
  by_cases hb : b = m.base a
  · simp [hb, Tbl.get?_erase_ne _ h]
  · simp [hb, Tbl.get?_set_ne _ _ h]

@[simp] theorem Mem.writeN_nil (m : Mem) (a : Nat) : m.writeN a [] = m := rfl

@[simp] theorem Mem.base_writeN (m : Mem) (a : Nat) (l : List Byte) (x : Nat) : (m.writeN a l).base x = m.base x := by
  induction l generalizing m a with
  | nil => rfl
  | cons b r ih => rw [Mem.writeN, ih, Mem.base_write]

@[simp] theorem Mem.poison_writeN (m : Mem) (a : Nat) (l : List Byte) : (m.writeN a l).poison = m.poison := by
  induction l generalizing m a with
  | nil => rfl
  | cons b r ih => rw [Mem.writeN, ih]; rfl

/-- A run of bytes leaves every other byte. -/
theorem Mem.read_writeN_out (m : Mem) (a : Nat) (l : List Byte) {x : Nat} (h : x < a ∨ a + l.length ≤ x) :
    (m.writeN a l).read x = m.read x := by
  induction l generalizing m a with
  | nil => rfl
  | cons b r ih =>
    rw [List.length_cons] at h
    rw [Mem.writeN, ih _ _ (by omega), Mem.read_write_ne _ _ (by omega)]

/-- Each byte of a run reads as it was written. -/
theorem Mem.read_writeN_in (m : Mem) (a : Nat) (l : List Byte) (i : Nat) (h : i < l.length) : (m.writeN a l).read (a + i) = l[i] := by
  induction l generalizing m a i with
  | nil => simp at h
  | cons b r ih =>
    rw [Mem.writeN]
    cases i with
    | zero => rw [Mem.read_writeN_out _ _ _ (by omega)]; simp
    | succ i =>
      rw [List.length_cons] at h
      have := ih (m.write a b) (a + 1) i (by omega)
      rw [Nat.add_right_comm] at this
      simpa [Nat.add_assoc] using this

@[simp] theorem Mem.length_readN (m : Mem) (a n : Nat) : (m.readN a n).length = n := by
  induction n generalizing a with
  | zero => rfl
  | succ n ih => simp [Mem.readN, ih]

/-- A run of bytes read is the bytes one by one. -/
theorem Mem.readN_eq_map (m : Mem) (a n : Nat) : m.readN a n = (List.range n).map fun i => m.read (a + i) := by
  induction n generalizing a with
  | zero => rfl
  | succ n ih =>
    rw [Mem.readN, ih, List.range_succ_eq_map, List.map_cons, List.map_map]
    congr 1
    apply List.map_congr_left
    intro i _
    simp [Nat.add_assoc, Nat.add_comm 1]

/-- Reading back a run that was written. -/
theorem Mem.readN_writeN (m : Mem) (a : Nat) (l : List Byte) : (m.writeN a l).readN a l.length = l := by
  apply List.ext_getElem
  · simp
  · intro i h1 h2
    rw [← Mem.read_writeN_in m a l i h2]
    simp [Mem.readN_eq_map]

/-- A run that another run does not touch. -/
theorem Mem.readN_writeN_out (m : Mem) (a : Nat) (l : List Byte) (b n : Nat) (h : b + n ≤ a ∨ a + l.length ≤ b) :
    (m.writeN a l).readN b n = m.readN b n := by
  rw [Mem.readN_eq_map, Mem.readN_eq_map]
  apply List.map_congr_left
  intro i hi
  rw [List.mem_range] at hi
  exact Mem.read_writeN_out _ _ _ (by omega)

/-! ## The canonical form -/

theorem Mem.wf_iff (m : Mem) : m.wf = true ↔ (m.cells.map Prod.fst).Pairwise (· < ·) ∧ ∀ c ∈ m.cells, c.2 ≠ m.base c.1 := by
  simp [Mem.wf, List.all_eq_true]

theorem Mem.wf_write (m : Mem) (a : Nat) (b : Byte) (h : m.wf = true) : (m.write a b).wf = true := by
  rw [Mem.wf_iff] at h ⊢
  unfold Mem.write
  by_cases hb : b = m.base a
  · rw [if_pos hb]
    exact ⟨Tbl.sorted_filter _ _ h.1, fun c hc => h.2 c (List.mem_of_mem_filter hc)⟩
  · rw [if_neg hb]
    refine ⟨Tbl.sorted_set _ _ _ h.1, fun c hc => ?_⟩
    rcases Tbl.mem_set _ _ _ _ hc with rfl | hc
    · exact hb
    · exact h.2 c hc

theorem Mem.wf_writeN (m : Mem) (a : Nat) (l : List Byte) (h : m.wf = true) : (m.writeN a l).wf = true := by
  induction l generalizing m a with
  | nil => exact h
  | cons b r ih => exact ih _ _ (Mem.wf_write _ _ _ h)

theorem Mem.wf_scrub (m : Mem) (p : Nat → Bool) (h : m.wf = true) : (m.scrub p).wf = true := by
  rw [Mem.wf_iff] at h ⊢
  exact ⟨Tbl.sorted_filter _ _ h.1, fun c hc => h.2 c (List.mem_of_mem_filter hc)⟩

theorem Mem.wf_rekey (m : Mem) (k : Nat) (h : m.wf = true) : (m.rekey k).wf = true := by
  rw [Mem.wf_iff] at h ⊢
  refine ⟨Tbl.sorted_filter _ _ h.1, fun c hc => ?_⟩
  obtain ⟨hm, hk⟩ := List.mem_filter.mp hc
  have hb : (m.rekey k).base c.1 = m.base c.1 := by
    unfold Mem.base Mem.rekey
    by_cases hl : c.1 < hbmBytes
    · have : settingOfHbm c.1 ≠ k := by simpa [hl] using hk
      simp [hl, Tbl.getD_set_ne _ _ _ this]
    · simp [hl]
  rw [hb]
  exact h.2 c hm

/-- Poison marks are no part of the form. -/
theorem Mem.wf_poison (m : Mem) (l : List Nat) (h : m.wf = true) : ({ m with poison := l } : Mem).wf = true := h

theorem State.wf_putN (s : State) (a : Nat) (l : List Byte) (h : s.mem.wf = true) : (s.putN a l).mem.wf = true := Mem.wf_writeN _ _ _ h

/-- Memory after reset has the form. -/
theorem Mem.wf_reset : State.reset.mem.wf = true := rfl

/-! ## Bytes after scrubbing and rekeying -/

/-- A scrubbed byte outside HBM reads as zero; every other byte reads as before. -/
theorem Mem.read_scrub (m : Mem) (p : Nat → Bool) (a : Nat) :
    (m.scrub p).read a = if hbmBytes ≤ a ∧ p a = true then 0 else m.read a := by
  unfold Mem.read Mem.scrub
  simp only
  rw [Tbl.get?_filter m.cells (fun x => !(decide (x ≥ hbmBytes) && p x)) a]
  by_cases h : hbmBytes ≤ a ∧ p a = true
  · have hl : ¬a < hbmBytes := by omega
    simp [h.1, h.2, Mem.base, hl]
  · have : (!(decide (a ≥ hbmBytes) && p a)) = true := by
      rw [Bool.not_eq_true', Bool.and_eq_false_iff]
      by_cases h1 : hbmBytes ≤ a
      · exact .inr (by simpa [h1] using h)
      · exact .inl (by simpa using h1)
    rw [if_pos this, if_neg h]
    rfl

end Sys2Proof.Machine
end

