-- ==== Sys2Proof/Laws/PerInstr.lean ====
section
/-! SUPPORT. Laws/PerInstr.lean: what every instruction's encoding has in common, one lemma per constructor. An event has no encoding. -/

namespace Sys2Proof.Laws.Wf

open Sys2Proof

/-- The common fields of an instruction with an encoding are its own: the length code of its format, STALL, YLD, and bit 15 zero (R259-R262). -/
def Statement (i : Instr) : Prop :=
  ∀ c, i.com = some c →
    ∃ r, i.enc = some r ∧ r.len = c.fmt.len ∧ r.stall = c.stall ∧ r.yld = BitVec.ofBool c.yld ∧ r.b15 = 0

theorem ill (c : Com) : Statement (.ill c) := fun _ h => by cases h; exact ⟨_, rfl, rfl, rfl, rfl, rfl⟩
theorem nop (c : Com) : Statement (.nop c) := fun _ h => by cases h; exact ⟨_, rfl, rfl, rfl, rfl, rfl⟩
theorem bra (c : Com) (off : BitVec 16) : Statement (.bra c off) := fun _ h => by cases h; exact ⟨_, rfl, rfl, rfl, rfl, rfl⟩
theorem brc (c : Com) (cond : Cond) (a : BitVec 8) (off : BitVec 16) : Statement (.brc c cond a off) := fun _ h => by cases h; exact ⟨_, rfl, rfl, rfl, rfl, rfl⟩
theorem call (c : Com) (d : BitVec 8) (off : BitVec 16) : Statement (.call c d off) := fun _ h => by cases h; exact ⟨_, rfl, rfl, rfl, rfl, rfl⟩
theorem ret (c : Com) (a : BitVec 8) : Statement (.ret c a) := fun _ h => by cases h; exact ⟨_, rfl, rfl, rfl, rfl, rfl⟩
theorem callx (c : Com) (d : BitVec 8) (a : Src) : Statement (.callx c d a) := fun _ h => by cases h; exact ⟨_, rfl, rfl, rfl, rfl, rfl⟩
theorem jmpx (c : Com) (a : Src) : Statement (.jmpx c a) := fun _ h => by cases h; exact ⟨_, rfl, rfl, rfl, rfl, rfl⟩
theorem vbr (c : Com) (a : Src) (off : BitVec 16) : Statement (.vbr c a off) := fun _ h => by cases h; exact ⟨_, rfl, rfl, rfl, rfl, rfl⟩
theorem join (c : Com) : Statement (.join c) := fun _ h => by cases h; exact ⟨_, rfl, rfl, rfl, rfl, rfl⟩
theorem vif (c : Com) (inv : Bool) (a : Src) : Statement (.vif c inv a) := fun _ h => by cases h; exact ⟨_, rfl, rfl, rfl, rfl, rfl⟩
theorem velse (c : Com) : Statement (.velse c) := fun _ h => by cases h; exact ⟨_, rfl, rfl, rfl, rfl, rfl⟩
theorem vendif (c : Com) : Statement (.vendif c) := fun _ h => by cases h; exact ⟨_, rfl, rfl, rfl, rfl, rfl⟩
theorem vloop (c : Com) : Statement (.vloop c) := fun _ h => by cases h; exact ⟨_, rfl, rfl, rfl, rfl, rfl⟩
theorem vbreak (c : Com) (inv : Bool) (a : Src) : Statement (.vbreak c inv a) := fun _ h => by cases h; exact ⟨_, rfl, rfl, rfl, rfl, rfl⟩
theorem vcont (c : Com) (inv : Bool) (a : Src) : Statement (.vcont c inv a) := fun _ h => by cases h; exact ⟨_, rfl, rfl, rfl, rfl, rfl⟩
theorem vendl (c : Com) (inv : Bool) (a : Src) (off : BitVec 16) : Statement (.vendl c inv a off) := fun _ h => by cases h; exact ⟨_, rfl, rfl, rfl, rfl, rfl⟩
theorem exit (c : Com) : Statement (.exit c) := fun _ h => by cases h; exact ⟨_, rfl, rfl, rfl, rfl, rfl⟩
theorem flash (c : Com) (f : FlashSet) : Statement (.flash c f) := fun _ h => by cases h; exact ⟨_, rfl, rfl, rfl, rfl, rfl⟩
theorem spawn (c : Com) (a : Src) (b : BitVec 8) : Statement (.spawn c a b) := fun _ h => by cases h; exact ⟨_, rfl, rfl, rfl, rfl, rfl⟩
theorem ovlcall (c : Com) (d : BitVec 8) (id : BitVec 16) (woff : BitVec 16) : Statement (.ovlcall c d id woff) := fun _ h => by cases h; exact ⟨_, rfl, rfl, rfl, rfl, rfl⟩
theorem trap (c : Com) (imm : BitVec 16) : Statement (.trap c imm) := fun _ h => by cases h; exact ⟨_, rfl, rfl, rfl, rfl, rfl⟩
theorem bkpt (c : Com) (imm : BitVec 16) : Statement (.bkpt c imm) := fun _ h => by cases h; exact ⟨_, rfl, rfl, rfl, rfl, rfl⟩
theorem sadd (c : Com) (d a b : BitVec 8) : Statement (.sadd c d a b) := fun _ h => by cases h; exact ⟨_, rfl, rfl, rfl, rfl, rfl⟩
theorem ssub (c : Com) (d a b : BitVec 8) : Statement (.ssub c d a b) := fun _ h => by cases h; exact ⟨_, rfl, rfl, rfl, rfl, rfl⟩
theorem smul (c : Com) (d a b : BitVec 8) : Statement (.smul c d a b) := fun _ h => by cases h; exact ⟨_, rfl, rfl, rfl, rfl, rfl⟩
theorem smulh (c : Com) (u : Bool) (d a b : BitVec 8) : Statement (.smulh c u d a b) := fun _ h => by cases h; exact ⟨_, rfl, rfl, rfl, rfl, rfl⟩
theorem sdiv (c : Com) (u : Bool) (d a b : BitVec 8) : Statement (.sdiv c u d a b) := fun _ h => by cases h; exact ⟨_, rfl, rfl, rfl, rfl, rfl⟩
theorem srem (c : Com) (u : Bool) (d a b : BitVec 8) : Statement (.srem c u d a b) := fun _ h => by cases h; exact ⟨_, rfl, rfl, rfl, rfl, rfl⟩
theorem sand (c : Com) (d a b : BitVec 8) : Statement (.sand c d a b) := fun _ h => by cases h; exact ⟨_, rfl, rfl, rfl, rfl, rfl⟩
theorem sor (c : Com) (d a b : BitVec 8) : Statement (.sor c d a b) := fun _ h => by cases h; exact ⟨_, rfl, rfl, rfl, rfl, rfl⟩
theorem sxor (c : Com) (d a b : BitVec 8) : Statement (.sxor c d a b) := fun _ h => by cases h; exact ⟨_, rfl, rfl, rfl, rfl, rfl⟩
theorem sshl (c : Com) (d a b : BitVec 8) : Statement (.sshl c d a b) := fun _ h => by cases h; exact ⟨_, rfl, rfl, rfl, rfl, rfl⟩
theorem sshr (c : Com) (d a b : BitVec 8) : Statement (.sshr c d a b) := fun _ h => by cases h; exact ⟨_, rfl, rfl, rfl, rfl, rfl⟩
theorem ssra (c : Com) (d a b : BitVec 8) : Statement (.ssra c d a b) := fun _ h => by cases h; exact ⟨_, rfl, rfl, rfl, rfl, rfl⟩
theorem smin (c : Com) (u : Bool) (d a b : BitVec 8) : Statement (.smin c u d a b) := fun _ h => by cases h; exact ⟨_, rfl, rfl, rfl, rfl, rfl⟩
theorem smax (c : Com) (u : Bool) (d a b : BitVec 8) : Statement (.smax c u d a b) := fun _ h => by cases h; exact ⟨_, rfl, rfl, rfl, rfl, rfl⟩
theorem scmp (c : Com) (u : Bool) (cond : Cond) (d a b : BitVec 8) : Statement (.scmp c u cond d a b) := fun _ h => by cases h; exact ⟨_, rfl, rfl, rfl, rfl, rfl⟩
theorem ssel (c : Com) (d a b x : BitVec 8) : Statement (.ssel c d a b x) := fun _ h => by cases h; exact ⟨_, rfl, rfl, rfl, rfl, rfl⟩
theorem saddi (c : Com) (d a : BitVec 8) (imm : BitVec 32) : Statement (.saddi c d a imm) := fun _ h => by
  cases h
  by_cases hf : c.fmt = .f64i
  · exact ⟨_, congrArg some (if_pos hf), rfl, rfl, rfl, rfl⟩
  · exact ⟨_, congrArg some (if_neg hf), rfl, rfl, rfl, rfl⟩
theorem smovi (c : Com) (d : BitVec 8) (imm : BitVec 32) : Statement (.smovi c d imm) := fun _ h => by cases h; exact ⟨_, rfl, rfl, rfl, rfl, rfl⟩
theorem smovhi (c : Com) (d : BitVec 8) (imm : BitVec 32) : Statement (.smovhi c d imm) := fun _ h => by cases h; exact ⟨_, rfl, rfl, rfl, rfl, rfl⟩
theorem sclz (c : Com) (d a : BitVec 8) : Statement (.sclz c d a) := fun _ h => by cases h; exact ⟨_, rfl, rfl, rfl, rfl, rfl⟩
theorem spopc (c : Com) (d a : BitVec 8) : Statement (.spopc c d a) := fun _ h => by cases h; exact ⟨_, rfl, rfl, rfl, rfl, rfl⟩
theorem sbfx (c : Com) (u : Bool) (d a : BitVec 8) (pos : BitVec 6) (len : BitVec 7) : Statement (.sbfx c u d a pos len) := fun _ h => by cases h; exact ⟨_, rfl, rfl, rfl, rfl, rfl⟩
theorem sbfi (c : Com) (d a : BitVec 8) (pos : BitVec 6) (len : BitVec 7) : Statement (.sbfi c d a pos len) := fun _ h => by cases h; exact ⟨_, rfl, rfl, rfl, rfl, rfl⟩
theorem srdv (c : Com) (d : BitVec 8) (a : Src) (lane : BitVec 5) (pair : Bool) : Statement (.srdv c d a lane pair) := fun _ h => by cases h; exact ⟨_, rfl, rfl, rfl, rfl, rfl⟩
theorem svote (c : Com) (op : Vote) (d : BitVec 8) (a : Src) : Statement (.svote c op d a) := fun _ h => by cases h; exact ⟨_, rfl, rfl, rfl, rfl, rfl⟩
theorem sredv (c : Com) (op : ROp) (ty : Ty) (d : BitVec 8) (a : Src) : Statement (.sredv c op ty d a) := fun _ h => by cases h; exact ⟨_, rfl, rfl, rfl, rfl, rfl⟩
theorem vadd (c : Com) (ty : Ty) (sat : Bool) (d : BitVec 8) (a b : Src) : Statement (.vadd c ty sat d a b) := fun _ h => by cases h; exact ⟨_, rfl, rfl, rfl, rfl, rfl⟩
theorem vsub (c : Com) (ty : Ty) (sat : Bool) (d : BitVec 8) (a b : Src) : Statement (.vsub c ty sat d a b) := fun _ h => by cases h; exact ⟨_, rfl, rfl, rfl, rfl, rfl⟩
theorem vmul (c : Com) (ty : Ty) (d : BitVec 8) (a b : Src) : Statement (.vmul c ty d a b) := fun _ h => by cases h; exact ⟨_, rfl, rfl, rfl, rfl, rfl⟩
theorem vmulh (c : Com) (ty : Ty) (d : BitVec 8) (a b : Src) : Statement (.vmulh c ty d a b) := fun _ h => by cases h; exact ⟨_, rfl, rfl, rfl, rfl, rfl⟩
theorem vmad (c : Com) (ty : Ty) (d : BitVec 8) (a b x : Src) : Statement (.vmad c ty d a b x) := fun _ h => by cases h; exact ⟨_, rfl, rfl, rfl, rfl, rfl⟩
theorem vand (c : Com) (ty : Ty) (d : BitVec 8) (a b : Src) : Statement (.vand c ty d a b) := fun _ h => by cases h; exact ⟨_, rfl, rfl, rfl, rfl, rfl⟩
theorem vor (c : Com) (ty : Ty) (d : BitVec 8) (a b : Src) : Statement (.vor c ty d a b) := fun _ h => by cases h; exact ⟨_, rfl, rfl, rfl, rfl, rfl⟩
theorem vxor (c : Com) (ty : Ty) (d : BitVec 8) (a b : Src) : Statement (.vxor c ty d a b) := fun _ h => by cases h; exact ⟨_, rfl, rfl, rfl, rfl, rfl⟩
theorem vshl (c : Com) (ty : Ty) (d : BitVec 8) (a b : Src) : Statement (.vshl c ty d a b) := fun _ h => by cases h; exact ⟨_, rfl, rfl, rfl, rfl, rfl⟩
theorem vshr (c : Com) (ty : Ty) (d : BitVec 8) (a b : Src) : Statement (.vshr c ty d a b) := fun _ h => by cases h; exact ⟨_, rfl, rfl, rfl, rfl, rfl⟩
theorem vsra (c : Com) (ty : Ty) (d : BitVec 8) (a b : Src) : Statement (.vsra c ty d a b) := fun _ h => by cases h; exact ⟨_, rfl, rfl, rfl, rfl, rfl⟩
theorem vmin (c : Com) (ty : Ty) (d : BitVec 8) (a b : Src) : Statement (.vmin c ty d a b) := fun _ h => by cases h; exact ⟨_, rfl, rfl, rfl, rfl, rfl⟩
theorem vmax (c : Com) (ty : Ty) (d : BitVec 8) (a b : Src) : Statement (.vmax c ty d a b) := fun _ h => by cases h; exact ⟨_, rfl, rfl, rfl, rfl, rfl⟩
theorem vabs (c : Com) (ty : Ty) (sat : Bool) (d : BitVec 8) (a : Src) : Statement (.vabs c ty sat d a) := fun _ h => by cases h; exact ⟨_, rfl, rfl, rfl, rfl, rfl⟩
theorem vclz (c : Com) (ty : Ty) (d : BitVec 8) (a : Src) : Statement (.vclz c ty d a) := fun _ h => by cases h; exact ⟨_, rfl, rfl, rfl, rfl, rfl⟩
theorem vpopc (c : Com) (ty : Ty) (d : BitVec 8) (a : Src) : Statement (.vpopc c ty d a) := fun _ h => by cases h; exact ⟨_, rfl, rfl, rfl, rfl, rfl⟩
theorem vbfx (c : Com) (ty : Ty) (d : BitVec 8) (a : Src) (pos : BitVec 5) (len : BitVec 6) : Statement (.vbfx c ty d a pos len) := fun _ h => by cases h; exact ⟨_, rfl, rfl, rfl, rfl, rfl⟩
theorem vbfi (c : Com) (d : BitVec 8) (a : Src) (pos : BitVec 5) (len : BitVec 6) : Statement (.vbfi c d a pos len) := fun _ h => by cases h; exact ⟨_, rfl, rfl, rfl, rfl, rfl⟩
theorem vsel (c : Com) (ty : Ty) (d : BitVec 8) (a b x : Src) : Statement (.vsel c ty d a b x) := fun _ h => by cases h; exact ⟨_, rfl, rfl, rfl, rfl, rfl⟩
theorem vcmp (c : Com) (cond : Cond) (ty : Ty) (d : BitVec 8) (a b : Src) : Statement (.vcmp c cond ty d a b) := fun _ h => by cases h; exact ⟨_, rfl, rfl, rfl, rfl, rfl⟩
theorem vaddi (c : Com) (ty : Ty) (d : BitVec 8) (a : Src) (imm : BitVec 32) : Statement (.vaddi c ty d a imm) := fun _ h => by
  cases h
  by_cases hf : c.fmt = .f64i
  · exact ⟨_, congrArg some (if_pos hf), rfl, rfl, rfl, rfl⟩
  · exact ⟨_, congrArg some (if_neg hf), rfl, rfl, rfl, rfl⟩
theorem vmov (c : Com) (pair : Bool) (d : BitVec 8) (a : Src) : Statement (.vmov c pair d a) := fun _ h => by cases h; exact ⟨_, rfl, rfl, rfl, rfl, rfl⟩
theorem vmovi (c : Com) (d : BitVec 8) (imm : BitVec 32) : Statement (.vmovi c d imm) := fun _ h => by cases h; exact ⟨_, rfl, rfl, rfl, rfl, rfl⟩
theorem vshuf (c : Com) (pair : Bool) (d : BitVec 8) (a b : Src) : Statement (.vshuf c pair d a b) := fun _ h => by cases h; exact ⟨_, rfl, rfl, rfl, rfl, rfl⟩
theorem vscan (c : Com) (op : ROp) (ty : Ty) (excl : Bool) (d : BitVec 8) (a : Src) : Statement (.vscan c op ty excl d a) := fun _ h => by cases h; exact ⟨_, rfl, rfl, rfl, rfl, rfl⟩
theorem vsegred (c : Com) (op : ROp) (ty : Ty) (d : BitVec 8) (a b : Src) : Statement (.vsegred c op ty d a b) := fun _ h => by cases h; exact ⟨_, rfl, rfl, rfl, rfl, rfl⟩
theorem vlane (c : Com) (op : LaneOp) (d : BitVec 8) : Statement (.vlane c op d) := fun _ h => by cases h; exact ⟨_, rfl, rfl, rfl, rfl, rfl⟩
theorem vfadd (c : Com) (r : Rmo) (d : BitVec 8) (a b : Src) : Statement (.vfadd c r d a b) := fun _ h => by cases h; exact ⟨_, rfl, rfl, rfl, rfl, rfl⟩
theorem vfsub (c : Com) (r : Rmo) (d : BitVec 8) (a b : Src) : Statement (.vfsub c r d a b) := fun _ h => by cases h; exact ⟨_, rfl, rfl, rfl, rfl, rfl⟩
theorem vfmul (c : Com) (r : Rmo) (d : BitVec 8) (a b : Src) : Statement (.vfmul c r d a b) := fun _ h => by cases h; exact ⟨_, rfl, rfl, rfl, rfl, rfl⟩
theorem vfdiv (c : Com) (r : Rmo) (d : BitVec 8) (a b : Src) : Statement (.vfdiv c r d a b) := fun _ h => by cases h; exact ⟨_, rfl, rfl, rfl, rfl, rfl⟩
theorem vffma (c : Com) (r : Rmo) (negp negc : Bool) (d : BitVec 8) (a b x : Src) : Statement (.vffma c r negp negc d a b x) := fun _ h => by cases h; exact ⟨_, rfl, rfl, rfl, rfl, rfl⟩
theorem vfsqrt (c : Com) (r : Rmo) (d : BitVec 8) (a : Src) : Statement (.vfsqrt c r d a) := fun _ h => by cases h; exact ⟨_, rfl, rfl, rfl, rfl, rfl⟩
theorem vfmin (c : Com) (d : BitVec 8) (a b : Src) : Statement (.vfmin c d a b) := fun _ h => by cases h; exact ⟨_, rfl, rfl, rfl, rfl, rfl⟩
theorem vfmax (c : Com) (d : BitVec 8) (a b : Src) : Statement (.vfmax c d a b) := fun _ h => by cases h; exact ⟨_, rfl, rfl, rfl, rfl, rfl⟩
theorem vfcmp (c : Com) (cond : Cond) (d : BitVec 8) (a b : Src) : Statement (.vfcmp c cond d a b) := fun _ h => by cases h; exact ⟨_, rfl, rfl, rfl, rfl, rfl⟩
theorem vfrcp (c : Com) (d : BitVec 8) (a : Src) : Statement (.vfrcp c d a) := fun _ h => by cases h; exact ⟨_, rfl, rfl, rfl, rfl, rfl⟩
theorem vfrsq (c : Com) (d : BitVec 8) (a : Src) : Statement (.vfrsq c d a) := fun _ h => by cases h; exact ⟨_, rfl, rfl, rfl, rfl, rfl⟩
theorem vfexp2 (c : Com) (d : BitVec 8) (a : Src) : Statement (.vfexp2 c d a) := fun _ h => by cases h; exact ⟨_, rfl, rfl, rfl, rfl, rfl⟩
theorem vflog2 (c : Com) (d : BitVec 8) (a : Src) : Statement (.vflog2 c d a) := fun _ h => by cases h; exact ⟨_, rfl, rfl, rfl, rfl, rfl⟩
theorem vfrnd (c : Com) (r : Rmo) (d : BitVec 8) (a : Src) : Statement (.vfrnd c r d a) := fun _ h => by cases h; exact ⟨_, rfl, rfl, rfl, rfl, rfl⟩
theorem vfcvt (c : Com) (r : Rmo) (dty sty : Ty) (d : BitVec 8) (a : Src) : Statement (.vfcvt c r dty sty d a) := fun _ h => by cases h; exact ⟨_, rfl, rfl, rfl, rfl, rfl⟩
theorem vfcls (c : Com) (d : BitVec 8) (a : Src) : Statement (.vfcls c d a) := fun _ h => by cases h; exact ⟨_, rfl, rfl, rfl, rfl, rfl⟩
theorem vdadd (c : Com) (r : Rmo) (d : BitVec 8) (a b : Src) : Statement (.vdadd c r d a b) := fun _ h => by cases h; exact ⟨_, rfl, rfl, rfl, rfl, rfl⟩
theorem vdsub (c : Com) (r : Rmo) (d : BitVec 8) (a b : Src) : Statement (.vdsub c r d a b) := fun _ h => by cases h; exact ⟨_, rfl, rfl, rfl, rfl, rfl⟩
theorem vdmul (c : Com) (r : Rmo) (d : BitVec 8) (a b : Src) : Statement (.vdmul c r d a b) := fun _ h => by cases h; exact ⟨_, rfl, rfl, rfl, rfl, rfl⟩
theorem vdfma (c : Com) (r : Rmo) (negp negc : Bool) (d : BitVec 8) (a b x : Src) : Statement (.vdfma c r negp negc d a b x) := fun _ h => by cases h; exact ⟨_, rfl, rfl, rfl, rfl, rfl⟩
theorem vdcvt (c : Com) (r : Rmo) (dty sty : Ty) (d : BitVec 8) (a : Src) : Statement (.vdcvt c r dty sty d a) := fun _ h => by cases h; exact ⟨_, rfl, rfl, rfl, rfl, rfl⟩
theorem vdcmp (c : Com) (cond : Cond) (d : BitVec 8) (a b : Src) : Statement (.vdcmp c cond d a b) := fun _ h => by cases h; exact ⟨_, rfl, rfl, rfl, rfl, rfl⟩
theorem vrng (c : Com) (d : BitVec 8) (a : Src) (b : BitVec 8) : Statement (.vrng c d a b) := fun _ h => by cases h; exact ⟨_, rfl, rfl, rfl, rfl, rfl⟩
theorem sld (c : Com) (ty : Ty) (m : MemMod) (d a : BitVec 8) (off : BitVec 32) : Statement (.sld c ty m d a off) := fun _ h => by cases h; exact ⟨_, rfl, rfl, rfl, rfl, rfl⟩
theorem sst (c : Com) (ty : Ty) (m : MemMod) (a b : BitVec 8) (off : BitVec 32) : Statement (.sst c ty m a b off) := fun _ h => by cases h; exact ⟨_, rfl, rfl, rfl, rfl, rfl⟩
theorem vld (c : Com) (ty : Ty) (m : MemMod) (d a : BitVec 8) (off : BitVec 32) : Statement (.vld c ty m d a off) := fun _ h => by cases h; exact ⟨_, rfl, rfl, rfl, rfl, rfl⟩
theorem vst (c : Com) (ty : Ty) (m : MemMod) (a : BitVec 8) (b : Src) (off : BitVec 32) : Statement (.vst c ty m a b off) := fun _ h => by cases h; exact ⟨_, rfl, rfl, rfl, rfl, rfl⟩
theorem vlds (c : Com) (ty : Ty) (m : MemMod) (d a x : BitVec 8) (off : BitVec 32) : Statement (.vlds c ty m d a x off) := fun _ h => by cases h; exact ⟨_, rfl, rfl, rfl, rfl, rfl⟩
theorem vsts (c : Com) (ty : Ty) (m : MemMod) (a : BitVec 8) (b : Src) (x : BitVec 8) (off : BitVec 32) : Statement (.vsts c ty m a b x off) := fun _ h => by cases h; exact ⟨_, rfl, rfl, rfl, rfl, rfl⟩
theorem vldx (c : Com) (ty : Ty) (m : MemMod) (d a : BitVec 8) (x : Src) (off : BitVec 32) : Statement (.vldx c ty m d a x off) := fun _ h => by cases h; exact ⟨_, rfl, rfl, rfl, rfl, rfl⟩
theorem vstx (c : Com) (ty : Ty) (m : MemMod) (a : BitVec 8) (b x : Src) (off : BitVec 32) : Statement (.vstx c ty m a b x off) := fun _ h => by cases h; exact ⟨_, rfl, rfl, rfl, rfl, rfl⟩
theorem vldt (c : Com) (ty : Ty) (space : Space) (d a x : BitVec 8) (off : BitVec 32) : Statement (.vldt c ty space d a x off) := fun _ h => by cases h; exact ⟨_, rfl, rfl, rfl, rfl, rfl⟩
theorem waitl (c : Com) (n : BitVec 6) : Statement (.waitl c n) := fun _ h => by cases h; exact ⟨_, rfl, rfl, rfl, rfl, rfl⟩
theorem pref (c : Com) (a : BitVec 8) (off : BitVec 32) : Statement (.pref c a off) := fun _ h => by cases h; exact ⟨_, rfl, rfl, rfl, rfl, rfl⟩
theorem cflush (c : Com) (a : BitVec 8) (off : BitVec 32) : Statement (.cflush c a off) := fun _ h => by cases h; exact ⟨_, rfl, rfl, rfl, rfl, rfl⟩
theorem vatom (c : Com) (op : ROp) (ty : Ty) (m : MemMod) (nr : Bool) (d a : BitVec 8) (b x : Src) (off : BitVec 32) : Statement (.vatom c op ty m nr d a b x off) := fun _ h => by cases h; exact ⟨_, rfl, rfl, rfl, rfl, rfl⟩
theorem vcas (c : Com) (ty : Ty) (m : MemMod) (d a : BitVec 8) (b x : Src) (off : BitVec 32) : Statement (.vcas c ty m d a b x off) := fun _ h => by cases h; exact ⟨_, rfl, rfl, rfl, rfl, rfl⟩
theorem satom (c : Com) (op : ROp) (ty : Ty) (m : MemMod) (nr : Bool) (d a b : BitVec 8) (off : BitVec 32) : Statement (.satom c op ty m nr d a b off) := fun _ h => by cases h; exact ⟨_, rfl, rfl, rfl, rfl, rfl⟩
theorem scas (c : Com) (ty : Ty) (m : MemMod) (d a b : BitVec 8) (off : BitVec 32) : Statement (.scas c ty m d a b off) := fun _ h => by cases h; exact ⟨_, rfl, rfl, rfl, rfl, rfl⟩
theorem fence (c : Com) (sc : Scope) : Statement (.fence c sc) := fun _ h => by cases h; exact ⟨_, rfl, rfl, rfl, rfl, rfl⟩
theorem bars (c : Com) (a : BitVec 8) (n : BitVec 4) : Statement (.bars c a n) := fun _ h => by cases h; exact ⟨_, rfl, rfl, rfl, rfl, rfl⟩
theorem bara (c : Com) (n : BitVec 4) : Statement (.bara c n) := fun _ h => by cases h; exact ⟨_, rfl, rfl, rfl, rfl, rfl⟩
theorem barw (c : Com) (n : BitVec 4) : Statement (.barw c n) := fun _ h => by cases h; exact ⟨_, rfl, rfl, rfl, rfl, rfl⟩
theorem bart (c : Com) (n : BitVec 4) : Statement (.bart c n) := fun _ h => by cases h; exact ⟨_, rfl, rfl, rfl, rfl, rfl⟩
theorem clbar (c : Com) (op : ClOp) (n : BitVec 3) : Statement (.clbar c op n) := fun _ h => by cases h; exact ⟨_, rfl, rfl, rfl, rfl, rfl⟩
theorem cpy (c : Com) (m : CpMod) (d a b x : BitVec 8) (cap : BitVec 32) : Statement (.cpy c m d a b x cap) := fun _ h => by cases h; exact ⟨_, rfl, rfl, rfl, rfl, rfl⟩
theorem cpyt (c : Com) (m : CpMod) (d a b x : BitVec 8) (srec drec : BitVec 12) : Statement (.cpyt c m d a b x srec drec) := fun _ h => by cases h; exact ⟨_, rfl, rfl, rfl, rfl, rfl⟩
theorem cpyg (c : Com) (m : CpMod) (lw : BitVec 2) (d a b x : BitVec 8) (cap : BitVec 14) (list : BitVec 18) : Statement (.cpyg c m lw d a b x cap list) := fun _ h => by cases h; exact ⟨_, rfl, rfl, rfl, rfl, rfl⟩
theorem cpyd (c : Com) (m : CpMod) (sty : Option Ty) (d a b x : BitVec 8) (cap : BitVec 24) (slot : BitVec 8) : Statement (.cpyd c m sty d a b x cap slot) := fun _ h => by cases h; exact ⟨_, rfl, rfl, rfl, rfl, rfl⟩
theorem cstage (c : Com) : Statement (.cstage c) := fun _ h => by cases h; exact ⟨_, rfl, rfl, rfl, rfl, rfl⟩
theorem lfence (c : Com) : Statement (.lfence c) := fun _ h => by cases h; exact ⟨_, rfl, rfl, rfl, rfl, rfl⟩
theorem lrec (c : Com) (a : Src) (r : BitVec 12) : Statement (.lrec c a r) := fun _ h => by cases h; exact ⟨_, rfl, rfl, rfl, rfl, rfl⟩
theorem ovld (c : Com) (m : CpMod) (d a b x : BitVec 8) (id : BitVec 16) (entry : BitVec 4) : Statement (.ovld c m d a b x id entry) := fun _ h => by cases h; exact ⟨_, rfl, rfl, rfl, rfl, rfl⟩
theorem cbld (c : Com) (m : CpMod) (d b : BitVec 8) (slot : BitVec 8) : Statement (.cbld c m d b slot) := fun _ h => by cases h; exact ⟨_, rfl, rfl, rfl, rfl, rfl⟩
theorem ckpt (c : Com) : Statement (.ckpt c) := fun _ h => by cases h; exact ⟨_, rfl, rfl, rfl, rfl, rfl⟩
theorem tld (c : Com) (d : BitVec 8) (ys : BitVec 6) (m n : BitVec 6) (t : TileMem) : Statement (.tld c d ys m n t) := fun _ h => by cases h; exact ⟨_, rfl, rfl, rfl, rfl, rfl⟩
theorem tldv (c : Com) (d : BitVec 8) (ys : BitVec 6) (f : BitVec 8) (m n : BitVec 6) (ty : Ty) : Statement (.tldv c d ys f m n ty) := fun _ h => by cases h; exact ⟨_, rfl, rfl, rfl, rfl, rfl⟩
theorem tmma (c : Com) (d : BitVec 8) (m : Mma) : Statement (.tmma c d m) := fun _ h => by cases h; exact ⟨_, rfl, rfl, rfl, rfl, rfl⟩
theorem ttrn (c : Com) (d : BitVec 8) (ta : BitVec 4) : Statement (.ttrn c d ta) := fun _ h => by cases h; exact ⟨_, rfl, rfl, rfl, rfl, rfl⟩
theorem tcvt (c : Com) (d : BitVec 8) (ta : BitVec 4) (ty : Ty) (rnd : Rmo) : Statement (.tcvt c d ta ty rnd) := fun _ h => by cases h; exact ⟨_, rfl, rfl, rfl, rfl, rfl⟩
theorem tforce (c : Com) (n : BitVec 4) : Statement (.tforce c n) := fun _ h => by cases h; exact ⟨_, rfl, rfl, rfl, rfl, rfl⟩
theorem tbatch (c : Com) (d : BitVec 8) : Statement (.tbatch c d) := fun _ h => by cases h; exact ⟨_, rfl, rfl, rfl, rfl, rfl⟩
theorem twait (c : Com) (a : BitVec 8) : Statement (.twait c a) := fun _ h => by cases h; exact ⟨_, rfl, rfl, rfl, rfl, rfl⟩
theorem tst (c : Com) (ta : BitVec 4) (t : TileMem) : Statement (.tst c ta t) := fun _ h => by cases h; exact ⟨_, rfl, rfl, rfl, rfl, rfl⟩
theorem trdv (c : Com) (d : BitVec 8) (ta : BitVec 4) (row0 rows col0 cols : BitVec 6) (ty : Ty) : Statement (.trdv c d ta row0 rows col0 cols ty) := fun _ h => by cases h; exact ⟨_, rfl, rfl, rfl, rfl, rfl⟩
theorem tdrop (c : Com) (n : BitVec 4) : Statement (.tdrop c n) := fun _ h => by cases h; exact ⟨_, rfl, rfl, rfl, rfl, rfl⟩
theorem tfence (c : Com) : Statement (.tfence c) := fun _ h => by cases h; exact ⟨_, rfl, rfl, rfl, rfl, rfl⟩
theorem wld (c : Com) (d : BitVec 8) (ws : BitVec 2) (xs ys : BitVec 6) (imm : BitVec 32) (ty : Ty) (sparse : Bool) (slot : BitVec 8) : Statement (.wld c d ws xs ys imm ty sparse slot) := fun _ h => by cases h; exact ⟨_, rfl, rfl, rfl, rfl, rfl⟩
theorem wswap (c : Com) (n : BitVec 2) : Statement (.wswap c n) := fun _ h => by cases h; exact ⟨_, rfl, rfl, rfl, rfl, rfl⟩
theorem tplan (c : Com) (d : BitVec 8) (w : BitVec 2) : Statement (.tplan c d w) := fun _ h => by cases h; exact ⟨_, rfl, rfl, rfl, rfl, rfl⟩
theorem wver (c : Com) (a : BitVec 8) (n : BitVec 2) : Statement (.wver c a n) := fun _ h => by cases h; exact ⟨_, rfl, rfl, rfl, rfl, rfl⟩
theorem bred (c : Com) (op : ROp) (ty : Ty) (a : BitVec 8) (b x : Src) : Statement (.bred c op ty a b x) := fun _ h => by cases h; exact ⟨_, rfl, rfl, rfl, rfl, rfl⟩
theorem bxadd (c : Com) (d a : BitVec 8) (b x : Src) : Statement (.bxadd c d a b x) := fun _ h => by cases h; exact ⟨_, rfl, rfl, rfl, rfl, rfl⟩
theorem bxrd (c : Com) (f64 : Bool) (msacq : Bool) (d a : BitVec 8) (b : Src) : Statement (.bxrd c f64 msacq d a b) := fun _ h => by cases h; exact ⟨_, rfl, rfl, rfl, rfl, rfl⟩
theorem bxclr (c : Com) (d a : BitVec 8) (b : Src) : Statement (.bxclr c d a b) := fun _ h => by cases h; exact ⟨_, rfl, rfl, rfl, rfl, rfl⟩
theorem baxpy (c : Com) (d a b x : BitVec 8) (n : BitVec 6) (cap : BitVec 32) : Statement (.baxpy c d a b x n cap) := fun _ h => by cases h; exact ⟨_, rfl, rfl, rfl, rfl, rfl⟩
theorem bewu (c : Com) (op : EwOp) (d a b x : BitVec 8) (n m : BitVec 6) (cap : BitVec 32) : Statement (.bewu c op d a b x n m cap) := fun _ h => by cases h; exact ⟨_, rfl, rfl, rfl, rfl, rfl⟩
theorem ksinit (c : Com) (d a b : BitVec 8) (sigma dep w : BitVec 8) : Statement (.ksinit c d a b sigma dep w) := fun _ h => by cases h; exact ⟨_, rfl, rfl, rfl, rfl, rfl⟩
theorem ksupd (c : Com) (e : Option (BitVec 8)) (d a : BitVec 8) (b x : Src) : Statement (.ksupd c e d a b x) := fun _ h => by cases h; exact ⟨_, rfl, rfl, rfl, rfl, rfl⟩
theorem ksqry (c : Com) (msacq : Bool) (d a : BitVec 8) (b : Src) : Statement (.ksqry c msacq d a b) := fun _ h => by cases h; exact ⟨_, rfl, rfl, rfl, rfl, rfl⟩
theorem ksadd (c : Com) (d a b : BitVec 8) : Statement (.ksadd c d a b) := fun _ h => by cases h; exact ⟨_, rfl, rfl, rfl, rfl, rfl⟩
theorem lkrel (c : Com) (a : BitVec 8) : Statement (.lkrel c a) := fun _ h => by cases h; exact ⟨_, rfl, rfl, rfl, rfl, rfl⟩
theorem lkstat (c : Com) (d a : BitVec 8) : Statement (.lkstat c d a) := fun _ h => by cases h; exact ⟨_, rfl, rfl, rfl, rfl, rfl⟩
theorem invk (c : Com) (d a : BitVec 8) (b : Src) (fn : BitVec 16) (nb : BitVec 7) : Statement (.invk c d a b fn nb) := fun _ h => by cases h; exact ⟨_, rfl, rfl, rfl, rfl, rfl⟩
theorem invka (c : Com) (d a : BitVec 8) (b : Src) (fn : BitVec 16) (nb : BitVec 7) : Statement (.invka c d a b fn nb) := fun _ h => by cases h; exact ⟨_, rfl, rfl, rfl, rfl, rfl⟩
theorem lkwait (c : Com) (d a : BitVec 8) : Statement (.lkwait c d a) := fun _ h => by cases h; exact ⟨_, rfl, rfl, rfl, rfl, rfl⟩
theorem lkget (c : Com) (sc : Scope) (dsp : Space) (d a b : BitVec 8) : Statement (.lkget c sc dsp d a b) := fun _ h => by cases h; exact ⟨_, rfl, rfl, rfl, rfl, rfl⟩
theorem sysrd (c : Com) (d : BitVec 8) (n : BitVec 8) : Statement (.sysrd c d n) := fun _ h => by cases h; exact ⟨_, rfl, rfl, rfl, rfl, rfl⟩
theorem syswr (c : Com) (a : BitVec 8) (n : BitVec 8) : Statement (.syswr c a n) := fun _ h => by cases h; exact ⟨_, rfl, rfl, rfl, rfl, rfl⟩
theorem eret (c : Com) : Statement (.eret c) := fun _ h => by cases h; exact ⟨_, rfl, rfl, rfl, rfl, rfl⟩
theorem fltrd (c : Com) (d : BitVec 8) (w : BitVec 4) : Statement (.fltrd c d w) := fun _ h => by cases h; exact ⟨_, rfl, rfl, rfl, rfl, rfl⟩
theorem clasp (c : Com) (tag : BitVec 16) : Statement (.clasp c tag) := fun _ h => by cases h; exact ⟨_, rfl, rfl, rfl, rfl, rfl⟩
theorem unassignedMajor (w : BadWord) : Statement (.unassignedMajor w) := nofun
theorem coldReset : Statement .coldReset := nofun
theorem lifecycleFuse (retired : Bool) (seed : List Byte) (dbgHash : List Byte) : Statement (.lifecycleFuse retired seed dbgHash) := nofun
theorem mpWatchdogReset : Statement .mpWatchdogReset := nofun
theorem limranStart : Statement .limranStart := nofun
theorem ucieModuleTrainingFailure (m : Nat) : Statement (.ucieModuleTrainingFailure m) := nofun
theorem powerSample (mw : Nat) : Statement (.powerSample mw) := nofun
theorem junctionTemperature105 (above : Bool) : Statement (.junctionTemperature105 above) := nofun
theorem thermalTrip : Statement .thermalTrip := nofun
theorem claspTrigger (src : BitVec 16) (tag : BitVec 16) : Statement (.claspTrigger src tag) := nofun
theorem snapshotLatch : Statement .snapshotLatch := nofun
theorem snapshotRearm : Statement .snapshotRearm := nofun
theorem uncorrectableCoreError (core : Nat) : Statement (.uncorrectableCoreError core) := nofun
theorem poisonError (addr : Nat) : Statement (.poisonError addr) := nofun
theorem correctableError (setting : Nat) (slot : Option (Nat × Nat)) : Statement (.correctableError setting slot) := nofun
theorem quarantinedCoreTest (core : Nat) (pass : Bool) : Statement (.quarantinedCoreTest core pass) := nofun
theorem fencedSlotTest (core : Nat) (slot : Nat) (pass : Bool) : Statement (.fencedSlotTest core slot pass) := nofun
theorem qassignWrite (q : Nat) (v : DWord) : Statement (.qassignWrite q v) := nofun
theorem queueEnable (f : Nat) (q : Nat) : Statement (.queueEnable f q) := nofun
theorem queueDisable (f : Nat) (q : Nat) (qreset : Bool) : Statement (.queueDisable f q qreset) := nofun
theorem qreset (f : Nat) (q : Nat) : Statement (.qreset f q) := nofun
theorem notifyWrite (f : Nat) (q : Nat) (v : DWord) (size : Nat) (off : Nat) : Statement (.notifyWrite f q v size off) := nofun
theorem layctlGo : Statement .layctlGo := nofun
theorem contextSave (f : Nat) : Statement (.contextSave f) := nofun
theorem contextRestore (f : Nat) : Statement (.contextRestore f) := nofun
theorem flr (f : Nat) : Statement (.flr f) := nofun
theorem vfEnableClear : Statement .vfEnableClear := nofun
theorem attestationGo (f : Nat) : Statement (.attestationGo f) := nofun
theorem challengeRead (fresh : List Byte) : Statement (.challengeRead fresh) := nofun
theorem debugUnlock (token : List Byte) : Statement (.debugUnlock token) := nofun
theorem pkgidWrite (v : DWord) : Statement (.pkgidWrite v) := nofun
theorem rtbaseWrite (v : DWord) : Statement (.rtbaseWrite v) := nofun
theorem tlbinvRange (f : Nat) (v : DWord) : Statement (.tlbinvRange f v) := nofun
theorem tlbinvAll (f : Nat) (v : DWord) : Statement (.tlbinvAll f v) := nofun
theorem gangctlResume (f : Nat) (v : DWord) : Statement (.gangctlResume f v) := nofun
theorem gangctlKill (f : Nat) (v : DWord) : Statement (.gangctlKill f v) := nofun
theorem pfqreplayRetry (f : Nat) (v : DWord) : Statement (.pfqreplayRetry f v) := nofun
theorem pfqreplayCancel (f : Nat) (v : DWord) : Statement (.pfqreplayCancel f v) := nofun
theorem registerWrite (f : Nat) (off : Nat) (v : DWord) : Statement (.registerWrite f off v) := nofun
theorem hostBar4Access (f : Nat) (va : DWord) (write : Bool) (data : List Byte) : Statement (.hostBar4Access f va write data) := nofun
theorem flitCrcFailure (link : Nat) : Statement (.flitCrcFailure link) := nofun
theorem linkDown (link : Nat) : Statement (.linkDown link) := nofun
theorem idleFlit (link : Nat) (src : Nat) : Statement (.idleFlit link src) := nofun
theorem invocationRequest (m : MsgHdr) : Statement (.invocationRequest m) := nofun
theorem forwardedInvocation (m : MsgHdr) : Statement (.forwardedInvocation m) := nofun
theorem accept (m : MsgHdr) : Statement (.accept m) := nofun
theorem resolve (m : MsgHdr) : Statement (.resolve m) := nofun
theorem tarnish (m : MsgHdr) : Statement (.tarnish m) := nofun
theorem release (m : MsgHdr) : Statement (.release m) := nofun
theorem acknowledgement (src : Nat) (mseq : BitVec 32) : Statement (.acknowledgement src mseq) := nofun
theorem keepAlive (src : Nat) : Statement (.keepAlive src) := nofun
theorem copyReadRequest (m : CopyFlit) : Statement (.copyReadRequest m) := nofun
theorem copyReadData (m : CopyFlit) : Statement (.copyReadData m) := nofun
theorem copyWriteData (m : CopyFlit) : Statement (.copyWriteData m) := nofun
theorem copyCompletion (m : CopyFlit) : Statement (.copyCompletion m) := nofun
theorem managementFlit (src : Nat) (payload : List Byte) : Statement (.managementFlit src payload) := nofun
theorem linkUp (link : Nat) : Statement (.linkUp link) := nofun
theorem reservedFlitType (link : Nat) (vc : Nat) (ty : Nat) : Statement (.reservedFlitType link vc ty) := nofun
theorem mapperBind : Statement .mapperBind := nofun
theorem slotIdleFree : Statement .slotIdleFree := nofun
theorem slotBindLimit : Statement .slotBindLimit := nofun
theorem launch : Statement .launch := nofun
theorem regionCreate : Statement .regionCreate := nofun
theorem regionSet : Statement .regionSet := nofun
theorem regionDestroy : Statement .regionDestroy := nofun
theorem invoke : Statement .invoke := nofun
theorem capture : Statement .capture := nofun
theorem signal : Statement .signal := nofun
theorem signalWrite : Statement .signalWrite := nofun
theorem queueFence : Statement .queueFence := nofun
theorem fencePoll : Statement .fencePoll := nofun
theorem usageWriteback : Statement .usageWriteback := nofun
theorem scrubComplete : Statement .scrubComplete := nofun
theorem contextSaveComplete : Statement .contextSaveComplete := nofun
theorem flrDrainEnd : Statement .flrDrainEnd := nofun
theorem flrComplete : Statement .flrComplete := nofun
theorem attestationReportDone : Statement .attestationReportDone := nofun
theorem tlbinvComplete : Statement .tlbinvComplete := nofun
theorem messageRetransmit : Statement .messageRetransmit := nofun
theorem keepAliveSend : Statement .keepAliveSend := nofun
theorem unreachableDeclaration : Statement .unreachableDeclaration := nofun
theorem addressedInvocationStart : Statement .addressedInvocationStart := nofun
theorem gangAdmission : Statement .gangAdmission := nofun
theorem gangPlacement : Statement .gangPlacement := nofun
theorem overlayLoadComplete : Statement .overlayLoadComplete := nofun
theorem translationComplete : Statement .translationComplete := nofun
theorem drainToFitMark : Statement .drainToFitMark := nofun
theorem sliceExpiry : Statement .sliceExpiry := nofun
theorem preemptionTrigger : Statement .preemptionTrigger := nofun
theorem runToFlashTimeout : Statement .runToFlashTimeout := nofun
theorem gangSave : Statement .gangSave := nofun
theorem gangSaveComplete : Statement .gangSaveComplete := nofun
theorem gangResume : Statement .gangResume := nofun
theorem checkpoint : Statement .checkpoint := nofun
theorem spawnBinTimer : Statement .spawnBinTimer := nofun
theorem spawnBinLaunch : Statement .spawnBinLaunch := nofun
theorem spawnStarvation : Statement .spawnStarvation := nofun
theorem strandRelease : Statement .strandRelease := nofun
theorem gangExit : Statement .gangExit := nofun
theorem loadReturn : Statement .loadReturn := nofun
theorem granuleRefill : Statement .granuleRefill := nofun
theorem copyDescriptorStart : Statement .copyDescriptorStart := nofun
theorem faultQueueEntry : Statement .faultQueueEntry := nofun
theorem copyComplete : Statement .copyComplete := nofun
theorem bankRequest : Statement .bankRequest := nofun
theorem bankCommandComplete : Statement .bankCommandComplete := nofun
theorem evaluationStart : Statement .evaluationStart := nofun
theorem evaluationComplete : Statement .evaluationComplete := nofun
theorem weightLoadComplete : Statement .weightLoadComplete := nofun
theorem clusterBarrierArrival : Statement .clusterBarrierArrival := nofun
theorem clusterBarrierRelease : Statement .clusterBarrierRelease := nofun
theorem locketResultWrite : Statement .locketResultWrite := nofun
theorem captureStart : Statement .captureStart := nofun
theorem capturePageCopy : Statement .capturePageCopy := nofun
theorem opNotDefined : Statement .opNotDefined := nofun
theorem contextRestoreComplete : Statement .contextRestoreComplete := nofun
theorem poolPageNotPresent : Statement .poolPageNotPresent := nofun

end Sys2Proof.Laws.Wf
end

