-- ==== Sys2Proof/Laws/Stores.lean ====
section
/-! SUPPORT. Laws/Stores.lean: what performing a strand's stores can do, and what each update of its list of them leaves as it was. -/

namespace Sys2Proof.Machine

open Sys2Proof

/-! ## Which stores are performed -/

theorem Posted.covers_iff (m : Posted) (a : Nat) : m.covers a = true ↔ m.addr ≤ a ∧ a < m.addr + m.bytes.length := by
  simp [Posted.covers]

@[simp] theorem dueStores_nil (p : Posted → Bool) : dueStores p [] = ([], []) := rfl

/-- The stores performed are some of the list, and those that stay the others, each part in its order. -/
theorem dueStores_sublist (p : Posted → Bool) (l : List Posted) : (dueStores p l).1.Sublist l ∧ (dueStores p l).2.Sublist l := by
  induction l with
  | nil => exact ⟨.slnil, .slnil⟩
  | cons m r ih =>
    unfold dueStores
    simp only
    split
    · exact ⟨ih.1.cons_cons m, ih.2.cons m⟩
    · exact ⟨ih.1.cons m, ih.2.cons_cons m⟩

/-- A store that satisfies the test is performed. -/
theorem mem_dueStores (p : Posted → Bool) {l : List Posted} {m : Posted} (h : m ∈ l) (hp : p m = true) : m ∈ (dueStores p l).1 := by
  induction l with
  | nil => cases h
  | cons n r ih =>
    unfold dueStores
    simp only
    rcases List.mem_cons.mp h with rfl | h
    · simp [hp]
    · split
      · exact List.mem_cons_of_mem _ (ih h)
      · exact ih h

/-- No store that stays satisfies the test. -/
theorem not_of_mem_stay (p : Posted → Bool) {l : List Posted} {m : Posted} (h : m ∈ (dueStores p l).2) : p m = false := by
  induction l with
  | nil => cases h
  | cons n r ih =>
    unfold dueStores at h
    simp only at h
    split at h
    · exact ih h
    · rename_i hn
      rcases List.mem_cons.mp h with rfl | h
      · simp only [Bool.or_eq_true, not_or, Bool.not_eq_true] at hn
        exact hn.1
      · exact ih h

theorem dueStores_all (l : List Posted) : dueStores (fun _ => true) l = (l, []) := by
  induction l with
  | nil => rfl
  | cons m r ih => simp [dueStores, ih]

/-! ## What performing them does -/

/-- Memory once a list of stores has been performed, in order. -/
def performed (m : Mem) (l : List Posted) : Mem := l.foldl (fun a q => a.writeN q.addr q.bytes) m

theorem foldl_putN_mem (l : List Posted) (s : State) : (l.foldl (fun (a : State) m => a.putN m.addr m.bytes) s).mem = performed s.mem l := by
  induction l generalizing s with
  | nil => rfl
  | cons m r ih => rw [List.foldl_cons, ih]; rfl

/-- Performing stores writes their bytes, the oldest first, and nothing else of memory. -/
theorem State.drain_mem (s : State) (g t : Nat) (p : Posted → Bool) :
    (s.drain g t p).mem = performed s.mem (dueStores p (s.strand g t).posted).1 := by
  unfold State.drain
  simp only [State.setStrand_mem]
  exact foldl_putN_mem _ _

theorem read_performed (m : Mem) (l : List Posted) (a : Nat) (h : ∀ q ∈ l, q.covers a = false) : (performed m l).read a = m.read a := by
  induction l generalizing m with
  | nil => rfl
  | cons q r ih =>
    have hq : ¬(q.addr ≤ a ∧ a < q.addr + q.bytes.length) := by
      rw [← Posted.covers_iff]; simp [h q (List.mem_cons_self)]
    have e : performed m (q :: r) = performed (m.writeN q.addr q.bytes) r := rfl
    rw [e, ih _ fun x hx => h x (List.mem_cons_of_mem _ hx)]
    exact Mem.read_writeN_out _ _ _ (by omega)

/-- A byte that no store of the strand covers reads as before. -/
theorem State.read_drain (s : State) (g t : Nat) (p : Posted → Bool) (a : Nat) (h : ∀ m ∈ (s.strand g t).posted, m.covers a = false) :
    (s.drain g t p).mem.read a = s.mem.read a := by
  rw [State.drain_mem]
  exact read_performed _ _ _ fun q hq => h q ((dueStores_sublist p _).1.mem hq)

/-- Performing stores keeps memory's canonical form. -/
theorem State.wf_drain (s : State) (g t : Nat) (p : Posted → Bool) (h : s.mem.wf = true) : (s.drain g t p).mem.wf = true := by
  rw [State.drain_mem]
  generalize (dueStores p (s.strand g t).posted).1 = l
  generalize s.mem = m at h
  induction l generalizing m with
  | nil => exact h
  | cons q r ih => exact ih _ (Mem.wf_writeN _ _ _ h)

/-! ## Updates of a strand's list of stores -/

@[simp] theorem Strand.post_splits (S : Strand) (x a : Nat) (b : List Byte) (c : Bool) : (S.post x a b c).splits = S.splits := rfl
@[simp] theorem Strand.post_v (S : Strand) (x a : Nat) (b : List Byte) (c : Bool) : (S.post x a b c).v = S.v := rfl
@[simp] theorem Strand.post_counters (S : Strand) (x a : Nat) (b : List Byte) (c : Bool) : (S.post x a b c).counters = S.counters := rfl
@[simp] theorem Strand.post_tregs (S : Strand) (x a : Nat) (b : List Byte) (c : Bool) : (S.post x a b c).tregs = S.tregs := rfl
@[simp] theorem Strand.post_graph (S : Strand) (x a : Nat) (b : List Byte) (c : Bool) : (S.post x a b c).graph = S.graph := rfl
@[simp] theorem Strand.share_splits (S : Strand) (x : Nat) (l : List Nat) : (S.share x l).splits = S.splits := rfl
@[simp] theorem Strand.share_v (S : Strand) (x : Nat) (l : List Nat) : (S.share x l).v = S.v := rfl
@[simp] theorem Strand.share_counters (S : Strand) (x : Nat) (l : List Nat) : (S.share x l).counters = S.counters := rfl
@[simp] theorem Strand.unite_splits (S : Strand) (l : List Nat) (x : Nat) : (S.unite l x).splits = S.splits := rfl
@[simp] theorem Strand.unite_v (S : Strand) (l : List Nat) (x : Nat) : (S.unite l x).v = S.v := rfl
@[simp] theorem Strand.unite_counters (S : Strand) (l : List Nat) (x : Nat) : (S.unite l x).counters = S.counters := rfl
@[simp] theorem Strand.leave_splits (S : Strand) (x : Nat) : (S.leave x).splits = S.splits := rfl
@[simp] theorem Strand.leave_v (S : Strand) (x : Nat) : (S.leave x).v = S.v := rfl
@[simp] theorem Strand.leave_counters (S : Strand) (x : Nat) : (S.leave x).counters = S.counters := rfl

/-- A split's newest store gives its bytes to the split (R122). -/
theorem Strand.sees_post (S : Strand) (x a : Nat) (b : List Byte) (c : Bool) (i : Nat) (h : i < b.length) :
    (S.post x a b c).sees x (a + i) = some (b[i]) := by
  have hc : ({ addr := a, bytes := b, seen := [x], comb := c } : Posted).covers (a + i) = true := by
    rw [Posted.covers_iff]; exact ⟨Nat.le_add_right _ _, by simpa using h⟩
  simp [Strand.sees, Strand.post, List.filter_append, hc, h]

/-- With no store to be performed a split reads memory. -/
theorem Strand.sees_nil (S : Strand) (x a : Nat) (h : S.posted = []) : S.sees x a = none := by simp [Strand.sees, h]

end Sys2Proof.Machine
end

