-- ==== Sys2Proof/Machine/Readout.lean ====
section
/-! DEFINITION. Machine/Readout.lean: what a host read of a function's registers returns (R20, R22, R23, R49, R50, R56, R61, R62, R100, R108,
R111, R116, R120, R128, R129), and what the MP's readback port reads (R18, R67). A read changes nothing. -/

namespace Sys2Proof.Machine

open Sys2Proof

/-- QCTL.STATE (R22). -/
def Queue.stateCode (Q : Queue) : Nat :=
  if Q.err then 4 else if !Q.en then 0 else if Q.bound.isSome then 3 else if Q.pidx ≠ Q.cidx then 2 else 1

/-- QCTL: a queue that is not the function's reads zero (R20, R22). -/
def State.readQctl (s : State) (f q : Nat) : Nat :=
  let Q := s.queue q
  if s.owns f q then Q.stateCode * 16 + (if Q.en then 1 else 0) else 0

/-- The notify register (R23). -/
def State.readNotify (s : State) (f q : Nat) : DWord :=
  if !(s.barOpen f) then BitVec.allOnes 64
  else if s.owns f q then cat32 (s.queue q).cidx (s.queue q).pidx
  else 0

/-- A read of 8 bytes of BAR2 (R23, R49): queue q's register stands at 64 × (q mod 64) in page q div 64, and the rest of its 64 bytes is
reserved (R4). -/
def State.readBar2 (s : State) (f off : Nat) : DWord :=
  if off % 64 = 0 || !(s.barOpen f) then s.readNotify f (64 * (off / 4096) + off % 4096 / 64) else 0

/-- FID (R50). -/
def State.readFid (s : State) (f : Nat) : Nat :=
  match s.fnPart f with
  | some p => 2 ^ 15 + p * 256 + f
  | none => f

/-- FSTAT.PREADY (R50): formed, and none of its settings scrub-pending. -/
def State.partReady (s : State) (f : Nat) : Bool :=
  match s.fnPart f with
  | some p => (Tbl.get? s.parts p).isSome && (s.settings p).all fun k => !(s.pkg.scrub.getLsbD k)
  | none => false

/-- CORECAP (R111). -/
def State.readCorecap (s : State) (f : Nat) : Nat :=
  match s.fnPart f with
  | none => 0
  | some p =>
    let cores := (s.settings p).flatMap fun k => spanOf (128 * k) 128
    let quar := (cores.filter fun c => (s.core c).quarantined).length
    let ce := (s.settings p).foldl (fun a k => a + s.pkg.cecnt.getD k 0) 0
    min ce 0xFFFF * 2 ^ 48 + quar * 2 ^ 32 + (cores.length - quar)

/-- The exporter's registers (R62, R116, R120, R128, R129); PFQREPLAY reads zero. -/
def Part.readReg (P : Part) (off : Nat) : Nat :=
  if off = 0xC00 then P.eftbase.toNat
  else if off = 0xC08 then P.eftctl.toNat
  else if off = 0xC28 then P.ptbase.toNat
  else if off = 0xC30 then P.tlbva.toNat / 1024 * 1024 + (if P.tlbBusy then 1 else 0)
  else if off = 0xC50 then P.pfqbase.toNat
  else if off = 0xC58 then P.pfqctl.toNat
  else 0

/-- A byte of the layout request record as it reads: its reserved bits are zero (R4, R43). -/
def layReads (l : Layout) (i : Nat) : Byte :=
  if 100 ≤ i ∧ i < 128 then 0 else if 4 ≤ i ∧ i < 84 then l.getD i 0 &&& 0x8F else l.getD i 0

/-- PF0's SR-IOV capability in configuration space (R49), where the model puts it past BAR0 (DESIGN CHOICE, log entry 20): NumVFs, VF Enable and
TotalVFs, then First VF Offset and VF Stride. -/
def State.readSriov (s : State) (off : Nat) : Nat :=
  if off = 0x20000 then s.pkg.numVfs + (if s.fns.any fun f => f.1 != 0 && f.2.vfOn then 2 ^ 16 else 0) + 63 * 2 ^ 32 else 1 + 2 ^ 16

/-- PF0's own registers (R20, R44, R49, R50, R61, R100). -/
def State.readPf0 (s : State) (off : Nat) : Option Nat :=
  let P := s.pkg
  if off = 0x100 then some (P.layStat * 256 + (if P.layGo then 1 else 0))
  else if 0x200 ≤ off ∧ off < 0x380 then some (ofLe ((List.range 8).map fun i => layReads P.layReq (off - 0x200 + i)))
  else if off = 0xC10 then some ((if P.pkgidSet then 2 ^ 12 else 0) + P.pkgid)
  else if off = 0xC18 then some P.rtbase.toNat
  else if off = 0xC20 then some P.half.toNat
  else if 0x18000 ≤ off ∧ off < 0x20000 then
    let Q := s.queue ((off - 0x18000) / 8)
    some ((if Q.valid then 128 else 0) + Q.func)
  else if off = 0x20000 ∨ off = 0x20008 then some (s.readSriov off)
  else none

/-- A function's attestation registers (R56). -/
def State.readAtt (s : State) (f off : Nat) : Option Nat :=
  let F := s.fn f
  if 0x400 ≤ off ∧ off < 0x440 then some (ofLe (tblBytes F.nonce (off - 0x400) 8))
  else if off = 0x440 then some (F.attStatus * 16)
  else if 0x800 ≤ off ∧ off < 0xC00 then some (ofLe (tblBytes F.window (off - 0x800) 8))
  else none

/-- The MSI-X pending bits of 64 vectors from `n` on (R50). -/
def Fn.pending (F : Fn) (n : Nat) : Nat := (List.range 64).foldl (fun a i => if F.pba.contains (n + i) then a + 2 ^ i else a) 0

/-- A byte of the MSI-X table (R50): an entry that nothing has written is masked, as PCI Express resets it (PRESUMED, log entry 5). -/
def Fn.msixByte (F : Fn) (i : Nat) : Byte := F.msix.getD i (if i % 16 = 12 then 1 else 0)

/-- A function's MSI-X capability (R50): the offsets of its table and of its pending bits, each with BIR 0. -/
def msixCapability : Nat := 0x5000 * 2 ^ 32 + 0x4000

/-- A function's other registers (R50, R108, R111). -/
def State.readOwn (s : State) (f off : Nat) : Nat :=
  let F := s.fn f
  if off = 0x0 then s.readFid f
  else if off = 0x8 then F.qtbase.toNat
  else if off = 0x10 then F.dncnt.toNat
  else if off = 0x18 then (if s.partReady f then 8 else 0) + F.ctx
  else if off = 0x28 then F.ctxva.toNat
  else if 0x4000 ≤ off ∧ off < 0x5000 then ofLe ((List.range 8).map fun i => F.msixByte (off - 0x4000 + i))
  else if 0x5000 ≤ off ∧ off < 0x5020 then F.pending ((off - 0x5000) * 8)
  else if off = 0xC40 then s.readCorecap f
  else if off = 0xC48 then F.gcStatus * 2 ^ 60 + F.gcStrand * 2 ^ 16 + F.gcCore
  else if 0x10000 ≤ off ∧ off < 0x18000 then s.readQctl f ((off - 0x10000) / 8)
  else match s.exports f with
    | some p => (s.part p).readReg off
    | none => 0

/-- What an aligned 8-byte read of BAR0 of a function returns, or past it of its capabilities; all ones where the BAR is closed (R49; DEDUCED, log
entry 20). -/
def State.readReg (s : State) (f off : Nat) : DWord :=
  if off = 0x20010 then (if s.presented f then BitVec.ofNat 64 msixCapability else BitVec.allOnes 64)
  else match (if f = 0 && s.pf0Open then s.readPf0 off else none), (if s.attOpen f then s.readAtt f off else none) with
  | some v, _ => BitVec.ofNat 64 v
  | none, some v => BitVec.ofNat 64 v
  | none, none => if s.barOpen f then BitVec.ofNat 64 (s.readOwn f off) else BitVec.allOnes 64

/-- What a host read of bytes through BAR4 returns (R49): the partition's bytes where its tables take the read, all ones from an unbound function,
and what R49 does not say where a page refuses the host (a free value; DESIGN CHOICE, log entry 20). -/
def State.readBar4 (s : State) (f : Nat) (va : DWord) (n : Nat) : List Byte :=
  match (if s.barOpen f then s.fnPart f else none) with
  | none => List.replicate n 0xFF
  | some p => (pieces (n / 65536 + 2) va.toNat n).flatMap fun q => match s.bar4Leaf p false q.1 with
    | some l => s.getKey p l.pa q.2
    | none => (List.range q.2).map fun i => BitVec.ofNat 8 (Config.freeNat (s.choice (2 ^ 70 + q.1 + i)))

/-! ## The readback port (R18) -/

/-- The 64 bytes in which the readback port gives a locket entry (R67); `next` is a proxy entry's next sequence number to run. -/
def Lrt.readback (i next : Nat) (e : Lrt) : List Byte :=
  leBytes 1 ((if e.proxy then 128 else 0) + (if e.rel then 64 else 0) + (if e.onull then 16 else 0) + (if e.upv then 8 else 0) + lrtState e.st) ++
    [e.cause, e.root, e.lflags] ++ leBytes 3 e.gen ++ [0] ++ leBytes 2 (if e.onull then 0xFFFF else if e.st = .tarnished then e.origin else i) ++
    leBytes 2 (e.ppart * 4096 + e.peer) ++ leBytes 2 e.peerIdx ++ leBytes 2 (if e.upv then e.upidx else 0xFFFF) ++ leBytes 2 e.region ++
    List.replicate 6 0 ++ leBytes 8 e.rva.toNat ++ leBytes 4 (if e.proxy && e.st != .resolved then 0 else e.rlen.toNat) ++ leBytes 2 e.fq.length ++
    leBytes 2 (if e.proxy then next else e.nextSeq) ++ List.replicate 24 0

/-- A piece of state that the readback port reads; R18 gives only a locket entry a form (R67). A scratchpad is read by core and
offset, a bank with its poisoned lines, and the snapshot registers' own are the cycle they latched in, the source mask and the tag (R401). -/
inductive Block where
  | queue (q : Nat)
  | region (p r : Nat)
  | locket (p i : Nat)
  | strand (g t : Nat)
  | split (g t x : Nat)
  | graph (g t : Nat)
  | copies (core : Nat)
  | bank (addr n : Nat)
  | spad (core off n : Nat)
  | gang (g : Nat)
  | core (c : Nat)
  | group (k : Nat)
  | part (p : Nat)
  | codebook (p slot : Nat)
  | fn (f : Nat)
  | lkres
  | trans
  | checkpoint (g : Nat)
  | peer (d : Nat)
  | package
  | snapshot
deriving DecidableEq, Repr

/-- What it reads there. -/
inductive Readback where
  | queue (Q : Queue)
  | region (R : Region)
  | bytes (l : List Byte)
  | bank (l : List Byte) (poison : List Nat)
  | strand (S : Strand)
  | split (X : Split)
  | graph (g : Tbl Node)
  | copies (l : List Copy)
  | gang (G : Gang)
  | core (C : Core)
  | group (K : Group)
  | part (P : Part)
  | fn (F : Fn)
  | lkres (l : List LkRes)
  | trans (l : List Trans)
  | peer (P : Peer)
  | package (P : Pkg)
  | snapshot (at_ : Nat) (src tag : BitVec 16)
deriving DecidableEq, Repr

/-- The readback port's read of a block, none where nothing is there (R18). -/
def State.readback (s : State) (b : Block) : Option Readback :=
  match b with
  | .queue q => some (.queue (s.queue q))
  | .region p r => ((s.part p).regions.get? r).map .region
  | .locket p i => some (.bytes (Lrt.readback i (s.nextRun p i) (s.entry p i)))
  | .strand g t => ((s.gang g).strands.get? t).map .strand
  | .split g t x => ((s.strand g t).splits.get? x).map .split
  | .graph g t => ((s.gang g).strands.get? t).map fun S => .graph S.graph
  | .copies c => some (.copies (s.core c).copies)
  | .bank a n =>
    some (.bank (s.mem.readN (bankBase + a) n)
      (s.mem.poison.filter fun p => decide (lineOf (bankBase + a) ≤ p) && decide (p < bankBase + a + n)))
  | .spad c o n => some (.bytes ((List.range n).map fun i => s.mem.read (spAddr c (o + i))))
  | .gang g => (s.gangs.get? g).map .gang
  | .core c => some (.core (s.core c))
  | .group k => (s.groups.get? k).map .group
  | .part p => (s.parts.get? p).map .part
  | .codebook p n => (s.parts.get? p).map fun P => .bytes (P.codebook.getD n (List.replicate 32 0))
  | .fn f => some (.fn (s.fn f))
  | .lkres => some (.lkres s.lkres)
  | .trans => some (.trans s.trans)
  | .checkpoint g => (s.ckpts.get? g).map .gang
  | .peer d => (s.peers.get? d).map .peer
  | .package => some (.package s.pkg)
  | .snapshot => s.pkg.snap.map fun v => .snapshot v.at_ v.src v.tag

/-- The state that a snapshot holds, for the readback port to read (R18: the one consistent view across blocks). -/
def Snap.state (v : Snap) : State :=
  { State.reset with
    cycle := v.at_, gangs := v.gangs, cores := v.cores, queues := v.queues, parts := v.parts, groups := v.groups, ckpts := v.ckpts, fns := v.fns,
    peers := v.peers, lkres := v.lkres, trans := v.trans, mem := { Mem.reset with cells := v.banks, poison := v.poison },
    pkg := { Pkg.reset with snap := some v } }

def Snap.readback (v : Snap) (b : Block) : Option Readback := v.state.readback b

end Sys2Proof.Machine
end

