-- ==== Sys2Proof/Tests/Slice0.lean ====
section
/-! SUPPORT. Tests/Slice0.lean: ill-formed terms that WellFormed refuses, words that decode, instructions of the spec's worked lines run for one step, and states
that meet the hypotheses of the statements. -/

namespace Sys2Proof.Tests

open Sys2Proof Sys2Proof.Machine

set_option Elab.async false

/-! ## The states of the tests -/

def c64 : Com := { fmt := .f64a, stall := 0, yld := false }
def c64i : Com := { fmt := .f64i, stall := 0, yld := false }
def c96 : Com := { fmt := .f96a, stall := 0, yld := false }
def c96i : Com := { fmt := .f96i, stall := 0, yld := false }
def c128 : Com := { fmt := .f128m, stall := 0, yld := false }
def c128t : Com := { fmt := .f128t, stall := 0, yld := false }
def v (r : BitVec 8) : Src := { pat := .same, reg := r }

/-- A gang of one strand at its first instruction, with the scalars listed and the vector registers as functions of the lane. -/
def st (ss : Tbl DWord) (vs : List (Nat × (Nat → Word))) : State :=
  let s := { State.reset.withFetchWord 64 4 with cur := { g := 1, t := 0, x := 0 } }
  (s.setStrand 1 0 fun S => { S with v := vs.flatMap fun p => (List.range 32).map fun n => (p.1 * 32 + n, p.2 n) }).setSplit 1 0 0
    fun X => { X with view := { X.view with s := ss } }

/-- The same with the lanes of a set active only. -/
def stOn (m : Word) (ss : Tbl DWord) (vs : List (Nat × (Nat → Word))) : State := (st ss vs).setSplit 1 0 0 fun X => { X with mask := m }

def after (i : Instr) (s : State) : State :=
  match exec i s with
  | .next t => t
  | _ => s

/-- Scalar d after an instruction. -/
def sOf (i : Instr) (s : State) (d : Nat) : DWord := ((after i s).split 1 0 0).view.scalar d
/-- Lane n of vector register r after an instruction. -/
def vOf (i : Instr) (s : State) (r n : Nat) : Word := ((after i s).strand 1 0).lane r n
/-- The PC, and a control register, after an instruction. -/
def pcOf (i : Instr) (s : State) : BitVec 16 := ((after i s).split 1 0 0).pc
def crOf (i : Instr) (s : State) (n : Nat) : DWord := ((after i s).split 1 0 0).view.ctl n
/-- The flags that cr.FSTAT has after an instruction, once they have arrived. -/
def flagsOf (i : Instr) (s : State) : DWord := ((after i s).split 1 0 0).view.fstat

/-- Whether an instruction issues. -/
def goes (i : Instr) (s : State) : Bool :=
  s.canIssue && match gate i s with
    | .go _ => true
    | _ => false

theorem issues_of_goes {i : Instr} {s : State} (h : goes i s = true) : ∃ k, Issues i s k := by
  unfold goes at h
  rw [Bool.and_eq_true] at h
  cases hg : gate i s with
  | go k => exact ⟨k, h.1, hg⟩
  | hold => simp [hg] at h
  | trap t => simp [hg] at h

/-! ## Terms that are not well-formed -/

theorem test_wf_format : (Instr.sadd c96 1 2 3).wf = false := by decide
theorem test_wf_field_of_form : (Instr.vadd c64 .i32 true 1 (v 2) (v 3)).wf = false := by decide
theorem test_wf_zero_field : (Instr.ttrn c128t 16 0).wf = false := by decide
theorem test_wf_minor : (Instr.vadd c64 .f32 false 1 (v 2) (v 3)).wf = false := by decide
theorem test_wf_value : (Instr.sbfx c64i false 1 2 60 5).wf = false := by decide
theorem test_wf_scope : (Instr.sst c96 .i32 { space := .bk, scope := .ms, ord := .rel } 1 2 0).wf = false := by decide
theorem test_wf_good : (Instr.sbfx c64i false 1 2 59 5).wf = true := by decide

/-! ## Words of the spec's encodings -/

theorem test_decode_ill : decodeTableWord 64 0 = some (.ill c64) := by decide
theorem test_decode_vendl : decodeTableWord 64 0xFFF6000701000040 = some (.vendl c64i true (v 7) 0xFFF6) := by decide
theorem test_decode_sbfx : decodeTableWord 64 0x03080703010700D4 = some (.sbfx c64i true 7 3 8 12) := by decide
theorem test_decode_vadd : decodeTableWord 64 0x1C0C190C02140D00 = some (.vadd { c64 with stall := 3 } .i32 false 20 ⟨.rot 3, 12⟩ ⟨.mir 2, 12⟩) := by decide
theorem test_decode_vffma :
    decodeTableWord 96 0x0022000302020001090A018D = some (.vffma c96 .rz false true 10 (v 1) ⟨.bc 0, 2⟩ (v 3)) := by decide
theorem test_decode_vld : decodeTableWord 128 0x0000004000000000000007040908020A = some (.vld c128 .f32 ⟨.g, .gang, .plain⟩ 8 4 0x40) := by decide
theorem test_decode_vatom : decodeTableWord 96 0x000300090007070402060281 = some (.vatom c96 .add .i32 ⟨.bk, .gang, .plain⟩ false 6 4 (v 7) (v 9) 0) := by decide
theorem test_decode_cpy : decodeTableWord 128 0x000010002601071607150714000902C2 = some (.cpy c128 ⟨.sp, .g, .gang, 3, true⟩ 9 20 21 22 0x1000) := by decide
theorem test_decode_tld :
    decodeTableWord 128 0x0000010000091FFF0000028400010302 = some (.tld c128t 1 10 63 63 ⟨4, 0x100, .sp, false, .f32⟩) := by decide
theorem test_decode_tldv : decodeTableWord 128 0x00000000009FC1200000000000050306 = some (.tldv c128t 5 0 32 1 63 .f32) := by decide
theorem test_decode_wld : decodeTableWord 128 0x000000000000000B010002C400140332 = some (.wld c128t 20 1 4 11 0 .bf16 false 0) := by decide
theorem test_decode_bxadd : decodeTableWord 96 0x0000000A0008070409090345 = some (.bxadd c96 9 4 (v 8) (v 10)) := by decide
theorem test_decode_ksinit : decodeTableWord 128 0x000801FC00000000070D070C0009035A = some (.ksinit c128 9 12 13 0xFC 1 8) := by decide
theorem test_decode_invk : decodeTableWord 128 0x00100003000000000008071500140372 = some (.invk c128 20 21 (v 8) 3 16) := by decide
theorem test_decode_syswr : decodeTableWord 64 0x0002070600000384 = some (.syswr c64i 6 2) := by decide
theorem test_decode_reserved_crossbar : decodeTableWord 64 0x1C0C350C02140D00 = none := by decide

/-! ## Scalar instructions: the worked lines of spec/17 -/

def n1 : DWord := 0xFFFFFFFFFFFFFFFF
theorem test_sadd : sOf (.sadd c64 5 3 4) (st [(3, 0x7FFFFFFFFFFFFFFF), (4, 1)] []) 5 = 0x8000000000000000 := by decide
theorem test_ssub : sOf (.ssub c64 5 3 4) (st [(3, 0), (4, 1)] []) 5 = n1 := by decide
theorem test_smul : sOf (.smul c64 5 3 4) (st [(3, 0x100000000), (4, 0x100000001)] []) 5 = 0x100000000 := by decide
theorem test_smulh : sOf (.smulh c64 false 5 3 4) (st [(3, n1), (4, 2)] []) 5 = n1 := by decide
theorem test_smulh_u : sOf (.smulh c64 true 5 3 4) (st [(3, n1), (4, 2)] []) 5 = 1 := by decide
theorem test_sdiv : sOf (.sdiv c64 false 5 3 4) (st [(3, -7), (4, 2)] []) 5 = -3 := by decide
theorem test_sdiv_zero : sOf (.sdiv c64 false 5 3 4) (st [(3, 5), (4, 0)] []) 5 = n1 := by decide
theorem test_srem : sOf (.srem c64 false 5 3 4) (st [(3, -7), (4, 2)] []) 5 = n1 := by decide
theorem test_srem_zero : sOf (.srem c64 false 5 3 4) (st [(3, 5), (4, 0)] []) 5 = 5 := by decide
theorem test_sand : sOf (.sand c64 5 3 4) (st [(3, 0xF0F0), (4, 0xFF00)] []) 5 = 0xF000 := by decide
theorem test_sor : sOf (.sor c64 5 3 4) (st [(3, 0xF0F0), (4, 0xFF00)] []) 5 = 0xFFF0 := by decide
theorem test_sxor : sOf (.sxor c64 5 3 4) (st [(3, 0xF0F0), (4, 0xFF00)] []) 5 = 0x0FF0 := by decide
theorem test_sshl : sOf (.sshl c64 5 3 4) (st [(3, 1), (4, 65)] []) 5 = 2 := by decide
theorem test_sshr : sOf (.sshr c64 5 3 4) (st [(3, 0x8000000000000000), (4, 63)] []) 5 = 1 := by decide
theorem test_ssra : sOf (.ssra c64 5 3 4) (st [(3, 0x8000000000000000), (4, 63)] []) 5 = n1 := by decide
theorem test_smin_u : sOf (.smin c64 true 5 3 4) (st [(3, n1), (4, 1)] []) 5 = 1 := by decide
theorem test_smax : sOf (.smax c64 false 5 3 4) (st [(3, n1), (4, 1)] []) 5 = 1 := by decide
theorem test_scmp : sOf (.scmp c64 false .lt 5 3 4) (st [(3, n1), (4, 1)] []) 5 = 1 := by decide
theorem test_scmp_u : sOf (.scmp c64 true .lt 5 3 4) (st [(3, n1), (4, 1)] []) 5 = 0 := by decide
theorem test_ssel : sOf (.ssel c96 5 3 4 6) (st [(3, 10), (4, 20), (6, 0)] []) 5 = 20 := by decide
theorem test_saddi : sOf (.saddi c64i 5 4 0xFFFFFFF8) (st [(4, 0x10)] []) 5 = 8 := by decide
theorem test_smovi : sOf (.smovi c96i 5 0xFFFFFFFE) (st [] []) 5 = 0xFFFFFFFFFFFFFFFE := by decide
theorem test_smovhi : sOf (.smovhi c96i 5 0x12345678) (st [(5, 0xFFFFFFFFFFFFFFFE)] []) 5 = 0x12345678FFFFFFFE := by decide
theorem test_sclz : sOf (.sclz c64 5 3) (st [(3, 0x10000)] []) 5 = 47 := by decide
theorem test_spopc : sOf (.spopc c64 5 3) (st [(3, 0xFF)] []) 5 = 8 := by decide
theorem test_sbfx : sOf (.sbfx c64i false 7 3 8 12) (st [(3, 0x8ABC00)] []) 7 = 0xFFFFFFFFFFFFFABC := by decide
theorem test_s0_stays_zero : sOf (.sadd c64 0 3 4) (st [(3, 1), (4, 1)] []) 0 = 0 := by decide
theorem test_srdv : sOf (.srdv c64i 5 (v 1) 3 false) (st [] [(1, fun n => BitVec.ofNat 32 (10 * n))]) 5 = 30 := by decide
theorem test_svote : sOf (.svote c64 .ballot 5 (v 1)) (stOn 0xFF [] [(1, fun n => BitVec.ofNat 32 (n % 2))]) 5 = 0xAA := by decide
theorem test_sredv : sOf (.sredv c64 .add .i32 5 (v 1)) (st [] [(1, fun n => BitVec.ofNat 32 n)]) 5 = 496 := by decide

/-! ## Vector instructions: the worked lines of spec/18 -/

def all (w : Word) : Nat → Word := fun _ => w
theorem test_vadd : vOf (.vadd c64 .i32 false 5 (v 1) (v 2)) (st [] [(1, all 0x7FFFFFFF), (2, all 1)]) 5 31 = 0x80000000 := by decide
theorem test_vadd_sat : vOf (.vadd c96 .i32 true 5 (v 1) (v 2)) (st [] [(1, all 0x7FFFFFFF), (2, all 1)]) 5 0 = 0x7FFFFFFF := by decide
theorem test_vsub_sat : vOf (.vsub c96 .n32 true 5 (v 1) (v 2)) (st [] [(1, all 0), (2, all 1)]) 5 0 = 0 := by decide
theorem test_vmul : vOf (.vmul c64 .i32 5 (v 1) (v 2)) (st [] [(1, all 0x10000), (2, all 0x10000)]) 5 0 = 0 := by decide
theorem test_vmulh : vOf (.vmulh c64 .i32 5 (v 1) (v 2)) (st [] [(1, all 0xFFFFFFFF), (2, all 2)]) 5 0 = 0xFFFFFFFF := by decide
theorem test_vmulh_n : vOf (.vmulh c64 .n32 5 (v 1) (v 2)) (st [] [(1, all 0xFFFFFFFF), (2, all 2)]) 5 0 = 1 := by decide
theorem test_vmad : vOf (.vmad c96 .i32 5 (v 1) (v 2) (v 3)) (st [] [(1, all 3), (2, all 4), (3, all 5)]) 5 0 = 17 := by decide
theorem test_vand : vOf (.vand c64 .i64 4 (v 0) (v 2)) (st [] [(0, all 6), (1, all 5), (2, all 3), (3, all 4)]) 5 0 = 4 := by decide
theorem test_vor : vOf (.vor c64 .i32 5 (v 1) (v 2)) (st [] [(1, all 5), (2, all 3)]) 5 0 = 7 := by decide
theorem test_vxor : vOf (.vxor c64 .i32 5 (v 1) (v 2)) (st [] [(1, all 5), (2, all 3)]) 5 0 = 6 := by decide
theorem test_vshl : vOf (.vshl c64 .i32 5 (v 1) (v 2)) (st [] [(1, all 1), (2, all 33)]) 5 0 = 2 := by decide
theorem test_vshr : vOf (.vshr c64 .i32 5 (v 1) (v 2)) (st [] [(1, all 0x80000000), (2, all 31)]) 5 0 = 1 := by decide
theorem test_vsra : vOf (.vsra c64 .i32 5 (v 1) (v 2)) (st [] [(1, all 0x80000000), (2, all 31)]) 5 0 = 0xFFFFFFFF := by decide
theorem test_vmin : vOf (.vmin c64 .n32 5 (v 1) (v 2)) (st [] [(1, all 0xFFFFFFFF), (2, all 1)]) 5 0 = 1 := by decide
theorem test_vmax : vOf (.vmax c64 .i32 5 (v 1) (v 2)) (st [] [(1, all 0xFFFFFFFF), (2, all 1)]) 5 0 = 1 := by decide
theorem test_vabs : vOf (.vabs c64 .i32 false 5 (v 1)) (st [] [(1, all 0x80000000)]) 5 0 = 0x80000000 := by decide
theorem test_vabs_sat : vOf (.vabs c96 .i32 true 5 (v 1)) (st [] [(1, all 0x80000000)]) 5 0 = 0x7FFFFFFF := by decide
theorem test_vclz : vOf (.vclz c64 .i32 5 (v 1)) (st [] [(1, all 0x10000)]) 5 0 = 15 := by decide
theorem test_vpopc : vOf (.vpopc c64 .i32 5 (v 1)) (st [] [(1, all 0x10000)]) 5 0 = 1 := by decide
theorem test_vbfx : vOf (.vbfx c64i .i32 5 (v 1) 4 8) (st [] [(1, all 0xF80)]) 5 0 = 0xFFFFFFF8 := by decide
theorem test_vbfi : vOf (.vbfi c64i 5 (v 1) 8 4) (st [] [(1, all 5), (5, all 0xFFFFFFFF)]) 5 0 = 0xFFFFF5FF := by decide
theorem test_vsel : vOf (.vsel c96 .i32 5 (v 1) (v 2) (v 3)) (st [] [(1, all 10), (2, all 20), (3, all 0)]) 5 0 = 20 := by decide
theorem test_vcmp : vOf (.vcmp c64 .lt .n32 5 (v 1) (v 2)) (st [] [(1, all 0xFFFFFFFF), (2, all 1)]) 5 0 = 0 := by decide
theorem test_vaddi : vOf (.vaddi c64i .i32 5 (v 1) 0xFFFFFFFF) (st [] [(1, all 0)]) 5 0 = 0xFFFFFFFF := by decide
theorem test_vmov_rot : vOf (.vmov c64 false 5 ⟨.rot 3, 1⟩) (st [] [(1, fun n => BitVec.ofNat 32 n)]) 5 30 = 1 := by decide
theorem test_vmovi : vOf (.vmovi c96i 5 0x3F800000) (st [] []) 5 7 = 0x3F800000 := by decide
theorem test_vshuf :
    vOf (.vshuf c64 false 5 (v 1) (v 2)) (st [] [(1, fun n => BitVec.ofNat 32 (10 * n)), (2, fun n => BitVec.ofNat 32 (31 - n))]) 5 0 = 310 := by decide
theorem test_vlane_rank : vOf (.vlane c64 .rank 5) (stOn 0x25 [] []) 5 5 = 2 := by decide
theorem test_vlane_inactive : vOf (.vlane c64 .rank 5) (stOn 0x25 [] [(5, all 9)]) 5 4 = 9 := by decide
theorem test_vscan_excl : vOf (.vscan c96 .add .i32 true 5 (v 1)) (st [] [(1, all 1)]) 5 7 = 7 := by decide
theorem test_vsegred :
    vOf (.vsegred c64 .add .i32 5 (v 1) (v 2)) (stOn 0xFF [] [(1, fun n => BitVec.ofNat 32 (n + 1)), (2, fun n => if n = 0 ∨ n = 3 ∨ n = 5 then 1 else 0)]) 5 4 = 9 := by
  decide
theorem test_vfadd_tie : vOf (.vfadd c64 .cr 5 (v 1) (v 2)) (stOn 1 [] [(1, all 0x3F800000), (2, all 0x33800000)]) 5 0 = 0x3F800000 := by decide
theorem test_vfadd_ru : vOf (.vfadd c96 .ru 5 (v 1) (v 2)) (stOn 1 [] [(1, all 0x3F800000), (2, all 0x33800000)]) 5 0 = 0x3F800001 := by decide
theorem test_vfsub_flags : flagsOf (.vfsub c64 .cr 5 (v 1) (v 2)) (stOn 1 [] [(1, all 0x7F800000), (2, all 0x7F800000)]) = 1 := by decide
theorem test_vfmul : vOf (.vfmul c64 .cr 5 (v 1) (v 2)) (stOn 1 [] [(1, all 0x40400000), (2, all 0x3FC00000)]) 5 0 = 0x40900000 := by decide
theorem test_vffma :
    vOf (.vffma c96 .cr false false 10 (v 1) (v 2) (v 3)) (stOn 1 [] [(1, all 0x3F800001), (2, all 0x3F800001), (3, all 0xBF800002)]) 10 0 = 0x28800000 := by decide
theorem test_vfdiv : vOf (.vfdiv c64 .cr 5 (v 1) (v 2)) (stOn 1 [] [(1, all 0x3F800000), (2, all 0x40400000)]) 5 0 = 0x3EAAAAAB := by decide
theorem test_vfsqrt : vOf (.vfsqrt c64 .cr 5 (v 1)) (stOn 1 [] [(1, all 0x40000000)]) 5 0 = 0x3FB504F3 := by decide +kernel
theorem test_vfmin : vOf (.vfmin c64 5 (v 1) (v 2)) (stOn 1 [] [(1, all 0x80000000), (2, all 0)]) 5 0 = 0x80000000 := by decide
theorem test_vfmax : vOf (.vfmax c64 5 (v 1) (v 2)) (stOn 1 [] [(1, all 0x7FC00000), (2, all 0x40400000)]) 5 0 = 0x40400000 := by decide
theorem test_vfcmp : vOf (.vfcmp c64 .lt 5 (v 1) (v 2)) (stOn 1 [] [(1, all 0x7FC00000), (2, all 0x3F800000)]) 5 0 = 0 := by decide
theorem test_vfrcp_zero : flagsOf (.vfrcp c64 5 (v 1)) (stOn 1 [] [(1, all 0)]) = 2 := by decide
theorem test_vfrsq : vOf (.vfrsq c64 5 (v 1)) (stOn 1 [] [(1, all 0x40800000)]) 5 0 = 0x3F000000 := by decide +kernel
theorem test_vfexp2 : vOf (.vfexp2 c64 5 (v 1)) (stOn 1 [] [(1, all 0xBF800000)]) 5 0 = 0x3F000000 := by decide
theorem test_vflog2 : vOf (.vflog2 c64 5 (v 1)) (stOn 1 [] [(1, all 0x41000000)]) 5 0 = 0x40400000 := by decide
theorem test_vfrnd : vOf (.vfrnd c96 .ru 5 (v 1)) (stOn 1 [] [(1, all 0x40200000)]) 5 0 = 0x40400000 := by decide
theorem test_vfcls : vOf (.vfcls c64 5 (v 1)) (stOn 1 [] [(1, all 0x80000001)]) 5 0 = 4 := by decide
theorem test_vfcvt_e4m3 : vOf (.vfcvt c96 .cr .e4m3 .f32 6 (v 2)) (stOn 1 [] [(2, all 0x43FA0000)]) 6 0 = 0x7E := by decide
theorem test_vfcvt_n32 : vOf (.vfcvt c96 .cr .n32 .f32 6 (v 2)) (stOn 1 [] [(2, all 0xBFC00000)]) 6 0 = 0 := by decide
theorem test_vdadd : vOf (.vdadd c64 .cr 4 (v 2) (v 2)) (stOn 1 [] [(2, all 0), (3, all 0x3FF00000)]) 5 0 = 0x40000000 := by decide
theorem test_vdsub : vOf (.vdsub c64 .cr 4 (v 2) (v 2)) (stOn 1 [] [(2, all 0), (3, all 0x3FF00000), (5, all 7)]) 5 0 = 0 := by decide
theorem test_vdmul : vOf (.vdmul c64 .cr 4 (v 2) (v 2)) (stOn 1 [] [(2, all 0), (3, all 0x40000000)]) 5 0 = 0x40100000 := by decide
theorem test_vdfma : vOf (.vdfma c96 .cr true false 4 (v 2) (v 2) (v 2)) (stOn 1 [] [(2, all 0), (3, all 0x3FF00000)]) 5 0 = 0 := by decide
theorem test_vdcvt : vOf (.vdcvt c96 .cr .f32 .f64 6 (v 2)) (stOn 1 [] [(2, all 1), (3, all 0x3FF00000)]) 6 0 = 0x3F800000 := by decide
theorem test_vdcmp : vOf (.vdcmp c64 .ge 6 (v 2) (v 4)) (stOn 1 [] [(2, all 0), (3, all 0x3FF00000), (4, all 0), (5, all 0x40000000)]) 6 0 = 0 := by decide
theorem test_vrng : vOf (.vrng c64 8 (v 4) 9) (stOn 3 [(9, 0)] [(4, fun n => BitVec.ofNat 32 n), (5, all 0)]) 8 1 = 0xEF880614 := by decide
theorem test_sredv_window :
    sOf (.sredv c64 .add .f32 5 (v 1)) (stOn 7 [] [(1, fun n => if n = 0 then 0x71800000 else if n = 1 then 0x3F800000 else 0xF1800000)]) 5 = 0x3F800000 := by decide

/-! ## Control flow: the worked lines of spec/17 -/

/-- The test state with the split at a PC. -/
def stAt (pc : BitVec 16) (ss : Tbl DWord) (vs : List (Nat × (Nat → Word))) : State := (st ss vs).setSplit 1 0 0 fun X => { X with pc := pc }
/-- The cause in the strand's fault image after an instruction. -/
def causeOf (i : Instr) (s : State) : Byte := ((after i s).strand 1 0).image.getD 0 0
def cnt (i : Instr) (s : State) (n : Nat) : Nat := ((((after i s).strand 1 0).counters).getD n 0).toNat
def counted (l : Tbl Byte) (s : State) : State := s.setStrand 1 0 fun S => { S with counters := l }
def splitOf (i : Instr) (s : State) (x : Nat) : Split := (after i s).split 1 0 x
/-- The same gang in a region with a handler of 4 blocks entered at 0x10 (R105). -/
def handled (s : State) : State := s.setGang 1 fun G => { G with hlen := 4, hentry := 0x10 }
/-- Two live splits, the second with lanes 16 to 31 at a PC, in a state. -/
def twoSplits (q : SplitSt) (pc : BitVec 16) (s : State) : State :=
  (s.setSplit 1 0 0 fun X => { X with mask := 0xFFFF }).setStrand 1 0 fun S =>
    { S with splits := S.splits.set 1 { Split.none with st := q, pc := pc, mask := 0xFFFF0000 } }
/-- The mode in which a trap is taken by a handler (R105). -/
def inHandler (s : State) : State :=
  (handled s).setStrand 1 0 fun S => { S with eret := some { split := 0, mask := 0xFF, counters := [(0, 3)] } }

theorem test_nop : pcOf (.nop c64) (stAt 0x10 [] []) = 0x18 := by decide
theorem test_bra : pcOf (.bra c64i 0xFFFC) (stAt 0x40 [] []) = 0x30 := by decide
theorem test_brc : pcOf (.brc c64i .gt 6 0xFFF9) (stAt 0x28 [(6, 3)] []) = 0x0C := by decide
theorem test_call : sOf (.call c64i 31 0x40) (stAt 0x100 [] []) 31 = 0x108 := by decide
theorem test_ret : pcOf (.ret c64 31) (stAt 0x100 [(31, 0x204)] []) = 0x204 := by decide
theorem test_vbr_stays : (splitOf (.vbr c64i (v 3) 0x10) (stAt 0x100 [] [(3, fun n => if n < 16 then 1 else 0)]) 0).mask = 0xFFFF0000 := by decide
theorem test_vbr_leaves : (splitOf (.vbr c64i (v 3) 0x10) (stAt 0x100 [] [(3, fun n => if n < 16 then 1 else 0)]) 1).pc = 0x140 := by decide
theorem test_vif : cnt (.vif c64 false (v 1)) (counted [(1, 2)] (st [] [(1, all 0)])) 1 = 3 := by decide
theorem test_vif_fails : cnt (.vif c64 false (v 1)) (st [] [(1, all 0)]) 0 = 1 := by decide
theorem test_velse : cnt (.velse c64) (st [] []) 5 = 1 := by decide
theorem test_vendif : cnt (.vendif c64) (counted [(5, 2)] (st [] [])) 5 = 1 := by decide
theorem test_vloop : cnt (.vloop c64) (counted [(5, 1)] (st [] [])) 5 = 3 := by decide
theorem test_vloop_nests : causeOf (.vloop c64) (counted [(5, 254)] (st [] [])) = cNESTING := by decide +kernel
theorem test_vbreak : cnt (.vbreak c64 false (v 1)) (st [] [(1, all 1)]) 5 = 2 := by decide
theorem test_vcont : cnt (.vcont c64 true (v 1)) (st [] [(1, all 0)]) 5 = 1 := by decide
theorem test_vendl_loops : pcOf (.vendl c64i false (v 7) 0xFFF6) (stAt 0x230 [] [(7, all 1)]) = 0x208 := by decide
theorem test_vendl_leaves : cnt (.vendl c64i false (v 7) 0xFFF6) (counted [(9, 4)] (stAt 0x230 [] [(7, all 0)])) 9 = 2 := by decide
theorem test_join_merges : (splitOf (.join c64) (twoSplits .join 0x180 (stAt 0x180 [] [])) 0).mask = 0xFFFFFFFF := by decide
theorem test_join_waits : (splitOf (.join c64) (twoSplits .run 0x40 (stAt 0x180 [] [])) 0).st = .join := by decide
theorem test_exit_split : (splitOf (.exit c64) (twoSplits .run 0x40 (stAt 0x180 [] [])) 0).st = .exited := by decide
theorem test_exit_strand : ((after (.exit c64) (st [] [])).strand 1 0).exited = true := by decide
theorem test_flash : (((after (.flash c128 ⟨⟨8, 0⟩, ⟨0, 0⟩, ⟨2, 4⟩, ⟨0, 0⟩, 2⟩) (stAt 0x140 [] [])).strand 1 0).flash).map Flash.sset = some [4, 5] := by decide
theorem test_flash_handler : causeOf (.flash c128 ⟨⟨8, 0⟩, ⟨0, 0⟩, ⟨2, 4⟩, ⟨0, 0⟩, 2⟩) (inHandler (st [] [])) = cDOUBLETRAP := by decide +kernel
theorem test_jmpx_no_lane : pcOf (.jmpx c64 (v 5)) (stOn 0 [] []) = 8 := by decide
theorem test_callx_no_lane : pcOf (.callx c64 31 (v 5)) (stOn 0 [] []) = 8 := by decide
theorem test_spawn_no_lane : pcOf (.spawn c64 (v 8) 12) (stOn 0 [] []) = 8 := by decide
theorem test_ovlcall : pcOf (.ovlcall c96i 30 7 0x10) ((stAt 0x200 [] []).setGang 1 fun G => { G with ovd := [(2, 0x8000000720000005)] }) = 0x2040 := by decide
theorem test_trap : crOf (.trap c64i 0x2A) (handled (st [] [])) 0x13 = 0x2A := by decide
theorem test_trap_enters : pcOf (.trap c64i 0x2A) (handled (st [] [])) = 0xFC10 := by decide
theorem test_bkpt_fault : causeOf (.bkpt c64i 1) (st [] []) = cBREAK := by decide +kernel
theorem test_ill : causeOf (.ill c64) (handled (st [] [])) = cILLEGAL := by decide +kernel
theorem test_unassigned : causeOf (.unassignedMajor .future) (st [] []) = cFUTURE := by decide +kernel
theorem test_eret : pcOf (.eret c64) ((inHandler (st [] [])).setSplit 1 0 0 fun X => { X with view := { X.view with cr := [(0x11, 0x302)] } }) = 0x300 := by decide
theorem test_eret_counters : cnt (.eret c64) (inHandler (st [] [])) 0 = 3 := by decide

/-! ## Memory, atomics and synchronisation: the worked lines of spec/19, in the scratchpad and the banks -/

def sp : MemMod := { space := .sp, scope := .gang, ord := .plain }
def bk : MemMod := { space := .bk, scope := .gang, ord := .plain }
/-- Bytes of the gang's scratchpad, and of its bank share, in a state. -/
def put (a : Nat) (l : List Byte) (s : State) : State := s.putN (spAddr 0 a) l
/-- The function's window over the bank share of its setting. -/
def banked (s : State) : State := { s with pkg := { s.pkg with layA := [(4, 0x80), (20, 0x80), (131, 2)] } }
def putBk (b : Nat) (l : List Byte) (s : State) : State := s.putN (bankAddr [0] b) l
def spOf (i : Instr) (s : State) (a n : Nat) : List Byte := (after i s).getN (spAddr 0 a) n
/-- The landing entry that a load has made: its scalar, and one of its words. -/
def landS (i : Instr) (s : State) : Option DWord := (((after i s).core 0).landing.head?).map Landing.sval
def landV (i : Instr) (s : State) (r n : Nat) : Option (Option Word) := (((after i s).core 0).landing.head?).map fun L => Tbl.get? L.vval (r * 32 + n)

theorem test_sld : landS (.sld c96 .i16 sp 5 4 0) (put 0x40 [0xFE, 0xFF] (st [(4, 0x40)] [])) = some 0xFFFFFFFFFFFFFFFE := by decide
theorem test_sst : spOf (.sst c128 .i32 sp 4 6 8) (st [(4, 0x40), (6, 0x1122334455667788)] []) 0x48 5 = [0x88, 0x77, 0x66, 0x55, 0] := by decide
theorem test_vld : landV (.vld c96 .n32 sp 8 4 0) (put 0x44 [1, 2, 3, 4] (stOn 3 [(4, 0x40)] [])) 8 1 = some (some 0x04030201) := by decide
theorem test_vst : spOf (.vst c96 .i32 sp 4 (v 8) 0) (stOn 3 [(4, 0x40)] [(8, fun n => BitVec.ofNat 32 (n + 7))]) 0x40 8 = [7, 0, 0, 0, 8, 0, 0, 0] := by decide
theorem test_vlds : landV (.vlds c96 .n32 sp 8 4 5 0) (put 0x84 [9] (stOn 0x80000000 [(4, 0x100), (5, -4)] [])) 8 31 = some (some 9) := by decide
theorem test_vsts : spOf (.vsts c96 .i32 sp 4 (v 2) 0 0) (st [(4, 0x40)] [(2, fun n => BitVec.ofNat 32 n)]) 0x40 4 = [31, 0, 0, 0] := by decide +kernel
theorem test_vldx : landV (.vldx c96 .n32 bk 8 4 (v 9) 0) (putBk 64 [5] (banked (stOn 2 [(4, 0)] [(9, fun n => BitVec.ofNat 32 (64 * n))]))) 8 1 = some (some 5) := by
  decide +kernel
theorem test_vstx : spOf (.vstx c96 .n8 sp 4 (v 2) (v 9) 0) (stOn 7 [(4, 0x40)] [(2, fun n => BitVec.ofNat 32 n), (9, fun n => BitVec.ofNat 32 (31 - n))]) 0x5D 3 = [2, 1, 0] := by
  decide
theorem test_vldt : landV (.vldt c96 .n32 .sp 16 4 6 0) (put 0x1114 [7] (stOn 4 [(4, 0x1000), (6, 0x80)] [])) 21 2 = some (some 7) := by decide +kernel
theorem test_waitl_holds : pcOf (.waitl c64i 1) ((st [] []).setStrand 1 0 fun S => { S with olc := 3 }) = 0 := by decide
theorem test_waitl : pcOf (.waitl c64i 1) ((st [] []).setStrand 1 0 fun S => { S with olc := 1 }) = 8 := by decide
theorem test_pref : pcOf (.pref c96 4 0) (st [(4, 3)] []) = 12 := by decide
theorem test_cflush_faults : causeOf (.cflush c96 4 0) (st [(4, 0x1000)] []) = cTRANSLATE := by decide +kernel
theorem test_vst_misaligned : causeOf (.vst c96 .i32 sp 4 (v 8) 0) (stOn 3 [(4, 0x42)] []) = cALIGN := by decide +kernel
theorem test_satom_old : landS (.satom c96 .add .i64 sp false 5 4 6 0) (put 0x40 [10] (st [(4, 0x40), (6, 5)] [])) = some 10 := by decide
theorem test_satom_new : spOf (.satom c96 .add .i64 sp false 5 4 6 0) (put 0x40 [10] (st [(4, 0x40), (6, 5)] [])) 0x40 8 = [15, 0, 0, 0, 0, 0, 0, 0] := by decide
theorem test_satom_max : spOf (.satom c96 .max .n32 sp true 0 4 6 0) (put 0x40 [0, 0, 0, 0x80] (st [(4, 0x40), (6, 1)] [])) 0x40 4 = [0, 0, 0, 0x80] := by decide
theorem test_scas : spOf (.scas c96 .i64 sp 5 4 6 0) (put 0x40 [10] (st [(4, 0x40), (5, 10), (6, 99)] [])) 0x40 1 = [99] := by decide
theorem test_scas_other : spOf (.scas c96 .i64 sp 5 4 6 0) (put 0x40 [11] (st [(4, 0x40), (5, 10), (6, 99)] [])) 0x40 1 = [11] := by decide
theorem test_vatom : spOf (.vatom c96 .add .i32 sp true 6 4 (v 7) (v 9) 0) (put 0x40 [10] (stOn 1 [(4, 0x40)] [(7, fun n => BitVec.ofNat 32 (n + 3))])) 0x40 1 = [13] := by decide
theorem test_vatom_xchg : landV (.vatom c96 .xchg .f32 sp false 6 4 (v 7) (v 9) 0) (put 0x40 [0, 0, 0x80, 0x3F] (stOn 1 [(4, 0x40)] [(7, all 0x40000000)])) 6 0 = some (some 0x3F800000) := by
  decide
theorem test_vcas : spOf (.vcas c96 .i32 sp 6 4 (v 7) (v 9) 0) (put 0x40 [5] (stOn 1 [(4, 0x40)] [(6, all 5), (7, all 6)])) 0x40 1 = [6] := by decide
theorem test_fence : pcOf (.fence c64i .part) (st [] []) = 8 := by decide
theorem test_bars : (((after (.bars c64i 10 3) (st [(10, 3)] [])).gang 1).bar 3).count = 3 := by decide
theorem test_bars_range : causeOf (.bars c64i 10 3) (st [(10, 65)] []) = cILLEGAL := by decide +kernel
theorem test_bara : (((after (.bara c64i 3) ((st [] []).setGang 1 fun G => { G with bars := [(3, { count := 3, arr := 0, phase := 0, who := [] })] })).gang 1).bar 3).arr = 1 := by decide
theorem test_barw : (splitOf (.barw c64i 3) (st [] []) 0).st = .wait := by decide
theorem test_bart_last : (splitOf (.bart c64i 3) (st [] []) 0).st = .run := by decide
theorem test_clbar : ((after (.clbar c64i .both 2) (st [] [])).group 2).inflight = [(1, 0, 0, 2)] := by decide

/-! ## Copies: the worked lines of spec/19 -/

def cp (d s : Space) : CpMod := { dsp := d, ssp := s, scope := .gang, nb := 0, nben := false }
def copyOf (i : Instr) (s : State) : Option Copy := ((after i s).core 0).copies.head?
/-- A copy instruction issues and its copy then starts and completes. -/
def copied (i : Instr) (s : State) : State :=
  after .copyComplete (after .copyDescriptorStart { after i s with cur := { g := 0, t := (copyOf i s).elim 0 Copy.id, x := 0 } })

theorem test_cpy : (copyOf (.cpy c128 { cp .sp .sp with nb := 3, nben := true } 9 20 21 22 4096) (st [(22, 4096)] [])).map Copy.valid = some 512 := by decide
theorem test_cpy_moves : (copied (.cpy c128 (cp .sp .sp) 9 20 21 22 3) (put 0x40 [1, 2, 3, 4] (st [(20, 0x80), (21, 0x40), (22, 9)] []))).getN (spAddr 0 0x80) 4 = [1, 2, 3, 0] := by decide
theorem test_cpy_token : ((copied (.cpy c128 (cp .sp .sp) 9 20 21 22 256) (st [(20, 0x800), (21, 0x40), (22, 300)] [])).split 1 0 0).view.scalar 9 = 0x8000000000000100 := by decide
theorem test_cpyg : (copied (.cpyg c128 (cp .sp .sp) 2 9 20 21 22 3 0) (put 0x40 [10, 0, 0, 0, 20, 0, 0, 0, 30, 0, 0, 0, 40] (put 0 [3, 0, 0, 0, 0, 0, 0, 0, 1] (st [(20, 0x80), (21, 0x40), (22, 3)] [])))).getN (spAddr 0 0x80) 9 = [40, 0, 0, 0, 10, 0, 0, 0, 20] := by
  decide
theorem test_cpyd : (copied (.cpyd c128 (cp .sp .sp) (some .e4m3) 9 20 21 22 2 0) (put 0x40 [0x38, 0x40] (st [(20, 0x80), (21, 0x40), (22, 2)] []))).getN (spAddr 0 0x80) 4 = [0x80, 0x3F, 0, 0x40] := by decide
theorem test_ovld : ((after (.ovld c128 (cp .g .sp) 9 7 21 22 7 2) (st [(7, 0x2000), (22, 0x500)] [])).gang 1).ovd.getD 2 0 = 0x4000000720000005 := by decide
theorem test_cbld : (copyOf (.cbld c128 (cp .g .sp) 9 21 4) (st [(21, 0x40)] [])).map Copy.kind = some (.cbld 4) := by decide
theorem test_cpyt : (copyOf (.cpyt c128 (cp .g .g) 9 0 0 22 1 2) (st [(22, 4)] [])).map Copy.kind = some (.cpyt 1 2) := by decide
theorem test_lrec : spOf (.lrec c64i (v 3) 5) (st [] [(3, fun n => BitVec.ofNat 32 (n + 1))]) (5 * 64) 5 = [1, 0, 0, 0, 2] := by decide
theorem test_lfence : pcOf (.lfence c64) (st [] []) = 8 := by decide
theorem test_cstage : ((after (.cstage c64) (st [] [])).gang 1).stage = 1 := by decide
theorem test_ckpt : ((after (.ckpt c64) (st [] [])).gang 1).lap = 1 := by decide

/-! ## Tiles, graphs and weights: the worked lines of spec/20 -/

/-- The test state with a tile register as given. -/
def tiled (n : Nat) (T : TileReg) (s : State) : State := s.setStrand 1 0 fun S => { S with tregs := S.tregs.set n T }
/-- A VALUE of 2 rows and 3 columns with 1.0 and 2.0 in its first row. -/
def smallTile : TileReg := { st := .value, tile := { rows := 2, cols := 3, fmt := .f32, elems := [(0, .fin false 1 0), (1, .fin false 1 1)] }, src := none }
def nodeOf (i : Instr) (s : State) : Option Node := ((after i s).strand 1 0).graph.get? ((s.strand 1 0).nextSeq)
def tregOf (i : Instr) (s : State) (n : Nat) : TileSt := (((after i s).strand 1 0).treg n).st
def loaded (w : Nat) (ver : Word) (s : State) : State :=
  s.setGang 1 fun G => { G with planes := [(2 * w, { Plane.zero with ver := ver }), (2 * w + 1, { Plane.zero with ver := ver + 1 })] }

theorem test_tld : (nodeOf (.tld c128t 1 10 63 63 ⟨4, 0x100, .sp, false, .f32⟩) (st [(10, 0x2040)] [])).map (fun n => (n.rows, n.cols)) = some (64, 32) := by decide
theorem test_tldv : (nodeOf (.tldv c128t 5 0 32 1 63 .f32) (st [] [(32, all 0x3F800000)])).map (fun n => (n.rows, n.cols)) = some (2, 64) := by decide
theorem test_tmma : (tregOf (.tmma c128t 2 ⟨true, false, false, true, false, false, 0, 0, 0, 1, 10, 63, 63, 255, 0, .rne, false⟩) (st [(10, 0x2040)] []) 2 != .value) = true := by
  decide
theorem test_ttrn : (nodeOf (.ttrn c128t 3 1) (tiled 1 smallTile (st [] []))).map (fun n => (n.rows, n.cols)) = some (3, 2) := by decide
theorem test_tcvt : (nodeOf (.tcvt c128t 4 1 .bf16 .rne) (tiled 1 smallTile (st [] []))).map Node.kind = some (.cvt .bf16 .rne false (.tile 1 smallTile.tile)) := by decide
theorem test_tforce_value : pcOf (.tforce c64i 2) (tiled 2 smallTile (st [] [])) = 8 := by decide
theorem test_tforce : ((after (.tforce c64i 3) ({ after (.ttrn c128t 3 1) (tiled 1 smallTile (st [] [])) with cycle := 1 })).core 0).forces.length = 1 := by decide
theorem test_tbatch : sOf (.tbatch c64 7) ((st [] []).setStrand 1 0 fun S => { S with batchNo := 4 }) 7 = 5 := by decide
theorem test_twait : pcOf (.twait c64 7) (st [(7, 5)] []) = 8 := by decide
theorem test_tst : spOf (.tst c128t 2 ⟨4, 0x4000, .sp, false, .f32⟩) (tiled 2 smallTile (st [] [])) 0x4002 6 = [0x80, 0x3F, 0, 0, 0, 0x40] := by decide +kernel
theorem test_tst_poisoned : causeOf (.tst c128t 2 ⟨4, 0x4000, .sp, false, .f32⟩) (tiled 2 { smallTile with st := .poisoned } (st [] [])) = cTILEPOISON := by decide +kernel
theorem test_trdv : vOf (.trdv c128t 16 2 0 1 0 2 .f32) (tiled 2 smallTile (st [] [])) 16 1 = 0x40000000 := by decide +kernel
theorem test_tdrop : tregOf (.tdrop c64i 2) (tiled 2 { smallTile with st := .poisoned } (st [] [])) 2 = .value := by decide
theorem test_tfence : ((after (.tfence c64) (st [] [])).strand 1 0).tfences = 1 := by decide
theorem test_wld : (((after (.wld c128t 20 1 4 11 0 .bf16 false 0) (st [(11, 0x400100), (20, 7)] [])).gang 1).back 1).kr = 256 := by decide
theorem test_wswap : (((after (.wswap c64i 1) (loaded 1 6 (st [] []))).gang 1).front 1).ver = 7 := by decide
theorem test_wver : causeOf (.wver c64i 6 1) (loaded 1 7 (st [(6, 6)] [])) = cWVERSION := by decide +kernel
theorem test_wver_same : pcOf (.wver c64i 6 1) (loaded 1 7 (st [(6, 7)] [])) = 8 := by decide
theorem test_tplan_none : sOf (.tplan c64i 5 0) (st [(5, 9)] []) 5 = 0 := by decide

/-! ## Bank commands: the worked lines of spec/21 -/

/-- A bank command issues and its requests are performed, `n` of them. -/
def requests : Nat → State → State
  | 0, s => s
  | n + 1, s => requests n (after .bankRequest { s with cur := { g := 0, t := (((s.core 0).bank.head?).elim 0 BankWork.id), x := 0 } })
def bkOf (n : Nat) (i : Instr) (s : State) (b len : Nat) : List Byte := (requests n (after i s)).getN (bankAddr [0] b) len
/-- The completion word that the command writes to its token, after n requests. -/
def tokenOf (n : Nat) (i : Instr) (s : State) (d : Nat) : DWord :=
  let u := requests n (after i s)
  ((after .bankCommandComplete { u with cur := { g := 0, t := (((u.core 0).bank.head?).elim 0 BankWork.id), x := 0 } }).split 1 0 0).view.scalar d
def one32 : List Byte := [0, 0, 0x80, 0x3F]

theorem test_bred : bkOf 3 (.bred c96 .max .i32 4 (v 8) (v 9))
    (putBk 0 [0xFF, 0xFF, 0xFF, 0xFF] (banked (stOn 7 [] [(9, fun n => if n = 0 then 5 else if n = 1 then 0xFFFFFFFE else 7)]))) 0 4 = [7, 0, 0, 0] := by decide +kernel
theorem test_bxadd : tokenOf 3 (.bxadd c96 9 4 (v 8) (v 10))
    (banked (stOn 7 [] [(10, fun n => if n = 0 then 0x71800000 else if n = 1 then 0x3F800000 else 0xF1800000)])) 9 = 0x8000000000000003 := by decide +kernel
theorem test_bxadd_cell : bkOf 3 (.bxadd c96 9 4 (v 8) (v 10))
    (banked (stOn 7 [] [(10, fun n => if n = 0 then 0x71800000 else if n = 1 then 0x3F800000 else 0xF1800000)])) 18 1 = [0x20] := by decide +kernel
theorem test_bxrd : (((requests 1 (after (.bxrd c96 false false 2 4 (v 8)) (putBk 18 [0x20] (putBk 40 [0x20, 3] (banked (stOn 1 [] [])))))).core 0).bank.head?).map
    (fun w => w.out.getD 0 0) = some 0x3F800000 := by decide +kernel
theorem test_bxclr : bkOf 1 (.bxclr c96 9 4 (v 8)) (putBk 0 [1, 2, 3] (banked (stOn 1 [] []))) 0 3 = [0, 0, 0] := by decide +kernel
theorem test_baxpy : bkOf 2 (.baxpy c128 9 4 5 6 7 16) (putBk 0 one32 (putBk 64 one32 (banked (st [(5, 64), (6, 0x40000000), (7, 1)] [])))) 64 4 = [0, 0, 0x40, 0x40] := by
  decide +kernel
theorem test_bewu : bkOf 2 (.bewu c128 .scadd 9 4 5 6 7 8 16)
    (putBk 0 [0, 0, 0, 0x40] (putBk 64 [0, 0, 0x80, 0x40] (banked (st [(5, 64), (6, 0x3F800000), (7, 1), (8, 0x3F000000)] [])))) 64 4 = [0, 0, 0x80, 0x40] := by
  decide +kernel
theorem test_bank_bounds : causeOf (.bxclr c96 9 4 (v 8)) (stOn 1 [] []) = cBOUNDS := by decide +kernel
theorem test_ksinit : bkOf 1 (.ksinit c128 9 12 13 0xFC 1 8) (banked (st [(13, 0x12345678)] [])) 0 8 = [0x78, 0x56, 0x34, 0x12, 1, 8, 0xFC, 0] := by decide +kernel
theorem test_ksinit_shape : causeOf (.ksinit c128 9 12 13 0xFC 2 8) (banked (st [(13, 0x12345678)] [])) = cBANKOP := by decide +kernel
/-- The sketch of R152 at offset 0 of the window. -/
def sketch (s : State) : State := putBk 0 [0x78, 0x56, 0x34, 0x12, 1, 8, 0xFC, 0] (banked s)
theorem test_ksupd : bkOf 1 (.ksupd c96 (some 0) 9 12 (v 4) (v 6)) (sketch (stOn 1 [] [(4, all 5), (6, all 0x3FC00000)])) (64 + 127 * 8) 2 = [0x18, 0] := by decide +kernel
theorem test_ksqry : (((requests 1 (after (.ksqry c96 false 7 12 (v 4)) (putBk (64 + 127 * 8) [0x1A] (sketch (stOn 1 [] [(4, all 5)]))))).core 0).bank.head?).map
    (fun w => w.out.getD 0 0) = some 0x3FD00000 := by decide +kernel
theorem test_ksadd : causeOf (.ksadd c64 9 12 13) (sketch (st [(13, 64)] [])) = cBANKOP := by decide +kernel

/-! ## Lockets and system: the worked lines of spec/21 -/

/-- Package 0x012, partition 2, with an entry at 0x10. -/
def home (e : Lrt) (s : State) : State :=
  { s.setGang 1 fun G => { G with part := 2 } with
    pkg := { s.pkg with pkgid := 0x12, pkgidSet := true },
    parts := [(2, { Part.formed 1 with lrt := (List.range 16).map (fun i => (i, { Lrt.freshEntry 1 with st := .pending })) ++ [(0x10, e)] })] }
def e5 : Lrt := Lrt.freshEntry 5
def onWay (i : Instr) (s : State) : Option (Option DWord) := ((after i s).lkres.head?).map LkRes.val

theorem test_invk : onWay (.invk c128 20 21 (v 8) 3 16) (home e5 (st [(21, 0x47)] [])) = some (some 0x0122001000000500) := by decide +kernel
theorem test_invka : onWay (.invka c128 24 20 (v 8) 4 0) (home e5 (st [(20, 0x0122000000000100)] [])) = some (some 0x0122001000000510) := by decide +kernel
theorem test_lkwait_null : onWay (.lkwait c64 22 20) (home e5 (st [(20, 0x0122000000000046)] [])) = some (some 0x410606FFFF000000) := by decide
theorem test_lkwait : onWay (.lkwait c64 22 20) (home { e5 with st := .resolved, rlen := 256 } (st [(20, 0x0122001000000500)] [])) = some (some 0x3000000010000100) := by decide
theorem test_lkwait_waits : onWay (.lkwait c64 22 20) (home { e5 with st := .pending } (st [(20, 0x0122001000000500)] [])) = some none := by decide
theorem test_lkstat : onWay (.lkstat c64 22 20) (home { e5 with st := .pending } (st [(20, 0x0122001000000500)] [])) = some (some 0x1000000010000000) := by decide
theorem test_lkrel : ((after (.lkrel c64 20) (home { e5 with st := .resolved, rlen := 256 } (st [(20, 0x0122001000000500)] []))).entry 2 16).gen = 6 := by decide
theorem test_stale : causeOf (.lkwait c64 22 20) (home { e5 with gen := 6, st := .resolved } (st [(20, 0x0122001000000500)] [])) = cSTALELOCKET := by decide +kernel
theorem test_foreign : causeOf (.lkwait c64 22 20) (home e5 (st [(20, 0x0132001000000500)] [])) = cFOREIGNLOCKET := by decide +kernel
theorem test_lkget : (copyOf (.lkget c96 .part .sp 9 4 5) (home { e5 with st := .resolved, rlen := 256, peer := 0x12 } (st [(4, 0x0122001000000500), (5, 0x40)] []))).map Copy.token = some 9 := by decide
theorem test_sysrd : sOf (.sysrd c64i 5 3) ((st [] []).setSplit 1 0 0 fun X => { X with view := { X.view with cr := [(3, 0x110)] } }) 5 = 0x110 := by decide
theorem test_syswr : crOf (.syswr c64i 6 2) (st [(6, 0x105)] []) 2 = 0x100 := by decide
theorem test_syswr_sid : causeOf (.syswr c64i 6 0) (st [(6, 0x105)] []) = cSYSREG := by decide +kernel
theorem test_fltrd : sOf (.fltrd c64i 5 1) ((st [] []).setStrand 1 0 fun S => { S with image := [(8, 0x40), (9, 2), (10, 0x40), (11, 2), (12, 0x41)] }) 5 = 0x0000004102400240 := by decide
theorem test_clasp : ((after (.clasp c64i 0x1234) (st [] [])).pkg.trig).map Trig.tag = [0x1234] := by decide

/-! ## Every instruction issues

`goes` of an instruction and a state gives `Issues` there for some context (`issues_of_goes`): the hypothesis of the statements about it. -/

def base : State := st [] []
def issueAll (l : List Instr) (s : State) : Bool := l.all fun i => goes i s
def tm : TileMem := ⟨4, 0, .sp, false, .f32⟩
def mm : Mma := ⟨false, false, false, false, false, false, 1, 2, 3, 0, 0, 63, 63, 255, 0, .rne, false⟩

theorem witness_scalar_issue : issueAll
    [.sadd c64 5 3 4, .ssub c64 5 3 4, .smul c64 5 3 4, .smulh c64 false 5 3 4, .sand c64 5 3 4, .sor c64 5 3 4, .sxor c64 5 3 4, .sshl c64 5 3 4,
     .sshr c64 5 3 4, .ssra c64 5 3 4, .smin c64 false 5 3 4, .smax c64 true 5 3 4, .sdiv c64 false 5 3 4, .srem c64 true 5 3 4,
     .scmp c64 false .lt 5 3 4, .ssel c96 5 3 4 6, .saddi c64i 5 4 1, .smovi c96i 5 1, .smovhi c96i 5 1, .sclz c64 5 3, .spopc c64 5 3,
     .sbfx c64i true 5 3 0 64, .sbfi c64i 5 3 63 1, .srdv c64i 5 (v 1) 31 false, .svote c64 .all 5 (v 1), .sredv c64 .add .i32 5 (v 1)] base = true := by
  decide +kernel
theorem witness_control_issue : issueAll
    [.ill c64, .nop c64, .bra c64i 4, .brc c64i .gt 6 4, .call c64i 31 4, .ret c64 31, .callx c64 31 (v 5), .jmpx c64 (v 5), .vbr c64i (v 3) 4,
     .join c64, .vif c64 false (v 1), .velse c64, .vendif c64, .vloop c64, .vbreak c64 false (v 1), .vcont c64 false (v 1), .vendl c64i false (v 7) 4,
     .exit c64, .flash c128 ⟨⟨0, 0⟩, ⟨0, 0⟩, ⟨0, 0⟩, ⟨0, 0⟩, 0⟩, .spawn c64 (v 8) 12, .ovlcall c96i 30 7 0, .trap c64i 1, .bkpt c64i 1, .eret c64,
     .unassignedMajor .unassigned, .unassignedMajor .future, .unassignedMajor .length] base = true := by decide +kernel
theorem witness_vector_issue : issueAll
    [.vadd c64 .i32 false 5 (v 1) (v 2), .vsub c64 .n32 true 5 (v 1) (v 2), .vmul c64 .i32 5 (v 1) (v 2), .vmulh c64 .i32 5 (v 1) (v 2),
     .vmad c96 .i32 5 (v 1) (v 2) (v 3), .vmin c64 .i32 5 (v 1) (v 2), .vmax c64 .i32 5 (v 1) (v 2), .vabs c64 .i32 false 5 (v 1),
     .vaddi c64i .i32 5 (v 1) 1, .vand c64 .i64 4 (v 0) (v 2), .vor c64 .i32 5 (v 1) (v 2), .vxor c64 .i32 5 (v 1) (v 2), .vshl c64 .i32 5 (v 1) (v 2),
     .vshr c64 .i32 5 (v 1) (v 2), .vsra c64 .i32 5 (v 1) (v 2), .vclz c64 .i32 5 (v 1), .vpopc c64 .i32 5 (v 1), .vbfx c64i .i32 5 (v 1) 31 1,
     .vbfi c64i 5 (v 1) 0 32, .vsel c96 .i32 5 (v 1) (v 2) (v 3), .vcmp c64 .lt .n32 5 (v 1) (v 2), .vmov c64 false 5 (v 1), .vmovi c96i 5 1,
     .vshuf c64 false 5 (v 1) (v 2), .vscan c96 .add .i32 true 5 (v 1), .vsegred c64 .add .i32 5 (v 1) (v 2), .vlane c64 .rank 5,
     .vrng c64 8 (v 4) 9] base = true := by decide +kernel
theorem witness_float_issue : issueAll
    [.vfadd c64 .cr 5 (v 1) (v 2), .vfsub c64 .cr 5 (v 1) (v 2), .vfmul c64 .cr 5 (v 1) (v 2), .vfdiv c64 .cr 5 (v 1) (v 2),
     .vffma c96 .cr false true 5 (v 1) (v 2) (v 3), .vfsqrt c64 .cr 5 (v 1), .vfmin c64 5 (v 1) (v 2), .vfmax c64 5 (v 1) (v 2),
     .vfcmp c64 .lt 5 (v 1) (v 2), .vfrcp c64 5 (v 1), .vfrsq c64 5 (v 1), .vfexp2 c64 5 (v 1), .vflog2 c64 5 (v 1), .vfrnd c96 .ru 5 (v 1),
     .vfcvt c96 .cr .e4m3 .f32 6 (v 2), .vfcls c64 5 (v 1), .vdadd c64 .cr 4 (v 2) (v 6), .vdsub c64 .cr 4 (v 2) (v 6), .vdmul c64 .cr 4 (v 2) (v 6),
     .vdfma c96 .cr false false 4 (v 2) (v 6) (v 8), .vdcvt c96 .cr .f32 .f64 6 (v 2), .vdcmp c64 .ge 6 (v 2) (v 4)] base = true := by decide +kernel
theorem witness_memory_issue : issueAll
    [.sld c96 .i16 sp 5 4 0, .sst c128 .i32 sp 4 6 0, .vld c96 .n32 sp 8 4 0, .vst c96 .i32 sp 4 (v 8) 0, .vlds c96 .n32 sp 8 4 5 0,
     .vsts c96 .i32 sp 4 (v 2) 5 0, .vldx c96 .n32 sp 8 4 (v 9) 0, .vstx c96 .n8 sp 4 (v 2) (v 9) 0, .vldt c96 .n32 .sp 16 4 6 0, .waitl c64i 1,
     .pref c96 4 0, .cflush c96 4 0, .vatom c96 .add .i32 sp false 6 4 (v 7) (v 9) 0, .vcas c96 .i32 sp 6 4 (v 7) (v 9) 0,
     .satom c96 .add .i64 sp false 5 4 6 0, .scas c96 .i64 sp 5 4 6 0, .fence c64i .ms, .bars c64i 10 0, .bara c64i 0, .barw c64i 15, .bart c64i 15,
     .clbar c64i .both 7] base = true := by decide +kernel
theorem witness_copy_issue : issueAll
    [.cpy c128 (cp .sp .sp) 9 20 21 22 1, .cpyt c128 (cp .g .g) 9 20 21 22 0 4095, .cpyg c128 (cp .sp .sp) 2 9 20 21 22 1 0,
     .cpyd c128 (cp .sp .sp) (some .e4m3) 9 20 21 22 1 0, .cstage c64, .lfence c64, .lrec c64i (v 3) 4095, .ovld c128 (cp .g .sp) 9 7 21 22 7 15,
     .cbld c128 (cp .g .sp) 9 21 255, .ckpt c64] base = true := by decide +kernel
theorem witness_tile_issue : issueAll
    [.tld c128t 1 10 63 63 tm, .tldv c128t 5 0 32 0 31 .f32, .tmma c128t 3 mm, .ttrn c128t 15 1, .tcvt c128t 4 1 .bf16 .rne, .tforce c64i 0, .tbatch c64 7,
     .twait c64 7, .tst c128t 2 tm, .trdv c128t 16 2 0 0 0 0 .f32, .tdrop c64i 15, .tfence c64, .wld c128t 20 3 4 11 0 .bf16 false 0, .wswap c64i 3,
     .tplan c64i 5 3, .wver c64i 6 0] base = true := by decide +kernel
theorem witness_bank_issue : issueAll
    [.bred c96 .max .i32 4 (v 8) (v 9), .bxadd c96 9 4 (v 8) (v 10), .bxrd c96 true true 2 4 (v 8), .bxclr c96 9 4 (v 8), .baxpy c128 9 4 5 6 7 16,
     .bewu c128 .moment 9 4 5 6 7 8 16, .ksinit c128 9 12 13 0xFC 1 8, .ksupd c96 none 9 12 (v 4) (v 6), .ksqry c96 false 7 12 (v 4),
     .ksadd c64 9 12 13] base = true := by decide +kernel
theorem witness_system_issue : issueAll
    [.lkrel c64 20, .lkstat c64 22 20, .lkwait c64 22 20, .invk c128 20 21 (v 8) 3 16, .invka c128 24 20 (v 8) 4 64, .lkget c96 .part .sp 9 4 5,
     .sysrd c64i 5 3, .syswr c64i 6 2, .fltrd c64i 5 15, .clasp c64i 1] base = true := by decide +kernel

theorem witness_issues : ∃ k, Issues (.sadd c64 5 3 4) base k := issues_of_goes (by decide)

/-! ## States that meet the other hypotheses, clause by clause

One theorem for each statement with hypotheses beyond that its instruction issues; a clause's witness stands at a boundary of its range. -/

/-- What an instruction reads where it issues. -/
def ctx (i : Instr) (s : State) : Ctx :=
  match gate i s with
  | .go k => k
  | _ => plainCtx i s
/-- An instruction issues, and its context and state meet a condition. -/
def with_ (i : Instr) (s : State) (P : Ctx → State → Bool) : Bool := goes i s && P (ctx i s) s

def isOk {ε α : Type} (x : Except ε α) : Bool :=
  match x with
  | .ok _ => true
  | .error _ => false
def isErr {ε α : Type} (x : Except ε α) : Bool := !(isOk x)

theorem issues_of_with {i : Instr} {s : State} {P : Ctx → State → Bool} (h : with_ i s P = true) : ∃ k, Issues i s k ∧ P k s = true := by
  unfold with_ at h
  rw [Bool.and_eq_true] at h
  obtain ⟨k, hk⟩ := issues_of_goes h.1
  refine ⟨k, hk, ?_⟩
  have := h.2
  rwa [ctx, hk.2] at this

/-- Page tables that map the first GiB to the same addresses of HBM, for reading and writing. -/
def identity (m : Mem) : Mem := (m.writeN 0 (leBytes 16 0x400001)).writeN 0x400000 (leBytes 16 0x1D)
/-- The test gang's partition with these tables. -/
def mapped (s : State) : State := { s with mem := identity s.mem, parts := [(0, { Part.formed 1 with ptbase := 1 })] }

theorem witness_DecodeOfEncode :
    (Instr.sadd c64 5 3 4).com.isSome ∧ WellFormed (.sadd c64 5 3 4) ∧ 24 + (encodeBytes (.sadd c64 5 3 4)).length ≤ 32 ∧
      WellFormed (.cpyt c128 (cp .g .g) 9 20 21 22 0 4095) ∧ 16 + (encodeBytes (.cpyt c128 (cp .g .g) 9 20 21 22 0 4095)).length ≤ 32 := by decide

theorem unheld_base : Unheld base := by
  refine ⟨by decide, ?_, by decide⟩
  have h : (base.strand base.cur.g base.cur.t).eret = none := by decide
  intro e he
  rw [h] at he
  cases he

theorem witness_WhenAnInstructionIssues :
    base.canIssue = true ∧ Unheld base ∧ operandsOf (.sadd c64 5 3 4) base = none ∧ ¬Scoreboarded (.sadd c64 5 3 4) base ∧
      Landed (.sadd c64 5 3 4) base ∧ Unmarked (.sadd c64 5 3 4) base ∧ ¬WritesLiveIn (.sadd c64 5 3 4) base := by
  refine ⟨by decide, unheld_base, by decide, by unfold Scoreboarded; decide, ⟨by decide, by decide⟩, ⟨by decide, by decide⟩, ?_⟩
  rintro ⟨h, -⟩
  exact absurd h (by decide)

theorem witness_held_by_stall : (base.split base.cur.g base.cur.t base.cur.x).readyAt < 1 ∧
    ({ base with cycle := 0 }.setSplit 1 0 0 fun X => { X with readyAt := 1 }).cycle < (({ base with cycle := 0 }.setSplit 1 0 0 fun X => { X with readyAt := 1 }).split 1 0 0).readyAt := by
  decide
theorem witness_scoreboarded : Scoreboarded (.sadd c64 5 3 4) (base.setView 1 0 0 fun V => { V with busy := [5] }) := by unfold Scoreboarded; decide
theorem witness_operand : operandsOf (.vmovi c96i 255 0) base = none ∧ operandsOf (.bara c64i 0) (base.setGang 1 fun G => { G with lrec := { G.lrec with nbar := 0 } }) ≠ none := by
  decide
theorem witness_marked : ¬Unmarked (.sadd c64 5 3 4) (base.setView 1 0 0 fun V => { V with marks := [(4, { addr := 1, detail := 2 })] }) := by
  unfold Unmarked
  decide
/-- In the replay window of a FLASH with s5 as a live-in, cr.CHK.LIVEIN set. -/
def window5 : State := (base.setStrand 1 0 fun S => { S with flash := some { pc := 0, next := 16, vset := [], sset := [5], recipe := 0, copies := [] } }).setView 1 0 0
  fun V => { V with cr := [(6, 2)] }
theorem witness_livein : WritesLiveIn (.sadd c64 5 3 4) window5 := by
  refine ⟨by decide, by decide, by decide, { pc := 0, next := 16, vset := [], sset := [5], recipe := 0, copies := [] }, by decide, by decide⟩

theorem witness_HandlerModeEnteredAndLeft :
    (handled base).canIssue = true ∧ ((handled base).strand 1 0).eret = none ∧ resumable cBREAK = true ∧ ((handled base).gang 1).hlen ≠ 0 ∧
      goes (.eret c64) (inHandler base) = true ∧ ((inHandler base).strand 1 0).eret ≠ none := by decide +kernel
theorem witness_OtherTrapsFault :
    ((inHandler base).strand 1 0).eret.isSome ∧ (base.strand 1 0).eret = none ∧ resumable cILLEGAL = false ∧ (base.gang 1).hlen = 0 ∧
      (base.gangs.get? 1).isSome ∧ base.mates 1 = [] ∧ (base.gang 1).suspends = false ∧
      ((base.setGang 1 fun G => { G with flags := 4 }).gang 1).suspends = true := by decide +kernel
theorem witness_VbrByItsLanes :
    with_ (.vbr c64i (v 3) 4) base (fun k _ => laneSet (fun n => k.on n && k.v (v 3) n != 0) == 0) ∧
      with_ (.vbr c64i (v 3) 4) (st [] [(3, all 1)]) (fun k _ => laneSet (fun n => k.on n && k.v (v 3) n != 0) == k.act) ∧
      with_ (.vbr c64i (v 3) 4) (st [] [(3, fun n => if n = 31 then 1 else 0)]) (fun k s => decide ((s.strand k.g k.t).liveSplits.length ≤ 1)) ∧
      with_ (.vbr c64i (v 3) 4) (twoSplits .run 0x40 (st [] [(3, fun n => if n = 0 then 1 else 0)])) (fun k s => decide ((s.strand k.g k.t).liveSplits.length > 1)) := by
  decide +kernel
/-- A dispatch table of two entries at 0x1000: TARGET 0x40 and 0x80 (R84). -/
def tabled (n : Nat) (idx : Nat → Word) : State :=
  ((mapped (st [] [(5, idx)])).setView 1 0 0 fun V => { V with cr := [(4, 0x1000), (5, BitVec.ofNat 64 n)] }).putN 0x1000 [0x40, 0, 1, 0, 0, 0, 0, 0, 0x80, 0, 1, 0, 0, 0, 0, 0]
def dispatched (i : Instr) (s : State) (n : Nat) : Bool :=
  with_ i s fun k s => match k.dispatch false (v 5) s with
    | .ok (es, _) => decide ((distinct (es.map fun e => e.2.1)).length = n)
    | .error _ => false
theorem witness_TableCalls :
    with_ (.jmpx c64 (v 5)) (tabled 1 (all 1)) (fun k s => isErr (k.dispatch false (v 5) s)) ∧ goes (.jmpx c64 (v 5)) (stOn 0 [] []) ∧
      dispatched (.callx c64 31 (v 5)) (tabled 2 (all 1)) 1 ∧ dispatched (.callx c64 31 (v 5)) (tabled 2 fun n => if n = 31 then 1 else 0) 2 ∧
      dispatched (.jmpx c64 (v 5)) (tabled 2 fun n => if n = 31 then 1 else 0) 2 := by decide +kernel
/-- The accesses of a dispatch table's read by the lanes named. -/
def tableAccs (i : Instr) (s : State) : List Acc :=
  let k := ctx i s
  match s.checkAll k.G .g .n64 (.scattered false) false true 8 unstrided (k.lanes.map fun n => (n, k.cr crDTBASE + BitVec.ofNat 64 (8 * (k.v (v 5) n).toNat))) with
  | .ok l => l
  | .error _ => []
theorem witness_TableCalls_complete :
    let s := tabled 2 (all 1)
    let k := ctx (.jmpx c64 (v 5)) s
    EntriesGood k false (v 5) s (tableAccs (.jmpx c64 (v 5)) s) ∧ (∀ n ∈ k.lanes, ∀ m ∈ k.lanes, k.v (v 5) n = k.v (v 5) m) ∧
      (∀ x ∈ tableAccs (.jmpx c64 (v 5)) s, BitVec.ofNat 16 (s.readNat k.g k.t k.x false x.pa 8) = 0x80) := by
  unfold EntriesGood
  decide +kernel
theorem test_jmpx : pcOf (.jmpx c64 (v 5)) (tabled 2 (all 1)) = 0x80 := by decide +kernel
theorem test_callx_divides : (splitOf (.callx c64 31 (v 5)) (tabled 2 fun n => if n = 31 then 1 else 0) 1).mask = 0x80000000 := by decide +kernel
theorem witness_RejoiningAndLeaving :
    goes (.join c64) (twoSplits .run 0x40 (stAt 0x180 [] [])) ∧ goes (.join c64) (twoSplits .join 0x40 (stAt 0x180 [] [])) ∧
      goes (.join c64) (twoSplits .join 0x180 (stAt 0x180 [] [])) ∧
      ((twoSplits .join 0x180 (stAt 0x180 [] [])).strand 1 0).pendingWrites 0 = false ∧ (base.strand 1 0).liveSplits = [0] := by decide +kernel
/-- Two splits at the JOIN of a dispatch record. -/
def atRecord (defer : Word) : State :=
  (twoSplits .join 0x180 (stAt 0x180 [] [])).setStrand 1 0 fun S => { S with disp := some { cpc := 0x178, defer := defer, held := 0 } }
theorem witness_RejoiningAndLeaving_record :
    goes (.join c64) (atRecord 0) ∧ goes (.join c64) (atRecord 0x80000000) ∧ ((atRecord 0).strand 1 0).disp = some { cpc := 0x178, defer := 0, held := 0 } ∧
      (0x180 : BitVec 16) = 0x178 + 8#16 ∧ ((atRecord 0).strand 1 0).liveSplits = [0, 1] ∧ ((atRecord 0).strand 1 0).pendingWrites 0 = false ∧
      (((counted [(31, 255)] (atRecord 0x80000000)).strand 1 0).counters.getD 31 0) = 255 ∧
      goes (.exit c64) (twoSplits .join 0x180 (stAt 0x180 [] [])) ∧ ((twoSplits .join 0x180 (stAt 0x180 [] [])).strand 1 0).disp = none := by decide +kernel
theorem test_join_record_ends : ((after (.join c64) (atRecord 0)).strand 1 0).disp = none := by decide +kernel
theorem test_exit_merges_the_joined : (splitOf (.exit c64) (twoSplits .join 0x180 (stAt 0x180 [] [])) 1).pc = 0x188 := by decide +kernel
theorem witness_FlashSetsItsState :
    (base.strand 1 0).eret = none ∧ (base.strand 1 0).converged = true ∧ (base.strand 1 0).graph = [] ∧ (base.gang 1).phase = .running := by decide +kernel
theorem witness_SpawnDeposits :
    ((base.core 0).bins.find? fun q => q.2.gang == 1 && q.2.entry == 0) = none ∧ (base.core 0).bins.get? 0 = none ∧
      (base.split 1 0 0).todo = none ∧
      ((base.setCore 0 fun C => { C with bins := [(7, { gang := 1, entry := 0, target := 0, vblk := 1, threads := List.replicate 32 [], first := 0, spwt := 0, due := false, fullAt := none, cr := [], by_ := [] })] }).core 0).bins.find?
        (fun q => q.2.gang == 1 && q.2.entry == 0) ≠ none ∧
      with_ (.spawn c64 (v 5) 12) (tabled 1 (all 0)) (fun k s => match k.dispatch true (v 5) s with
        | .ok (es, accs) => (State.deposits k (es.map fun e => ({ idx := e.2.1, target := e.2.2.target, vblk := e.2.2.vblk, args := [k.S.lane 12 e.1, k.S.lane 13 e.1, k.S.lane 14 e.1, k.S.lane 15 e.1] } : Thread)) ((s.noteAccs k.G.part accs).commit k.g k.t)).1.isEmpty
        | .error _ => false) := by decide +kernel
theorem witness_SpawnDeposits_complete :
    let s := tabled 1 (all 0)
    let k := ctx (.spawn c64 (v 5) 12) s
    EntriesGood k true (v 5) s (tableAccs (.spawn c64 (v 5) 12) s) ∧ (s.core k.G.core).bins = [] ∧ (distinct (k.lanes.map fun n => (k.v (v 5) n).toNat)).length ≤ 8 := by
  unfold EntriesGood
  decide +kernel
theorem test_spawn_deposits : ((after (.spawn c64 (v 5) 12) (tabled 1 (all 0))).core 0).bins.map (fun b => b.2.threads.length) = [32] := by decide +kernel
/-- Eight bins of another gang, the sixth the oldest. -/
def crowded : State := base.setCore 0 fun C => { C with bins := (List.range 8).map fun n =>
  (n, { gang := 2, entry := n, target := 0, vblk := 1, threads := [], first := (n + 3) % 8, spwt := 0, due := false, fullAt := none, cr := [], by_ := [] }) }
def oneThread : Thread := { idx := 0, target := 0, vblk := 1, args := [1, 2, 3, 4] }
theorem witness_SpawnDeposits_crowded :
    (crowded.core 0).bins.find? (fun q => q.2.gang == 1 && q.2.entry == 0) = none ∧ ∀ m ∈ List.range 8, ((crowded.core 0).bins.get? m).isSome = true := by decide +kernel
theorem test_oldest_bin_due : ((crowded.deposit (ctx (.spawn c64 (v 5) 12) crowded) oneThread).2.core 0).bins.filterMap (fun b => if b.2.due then some b.1 else none) = [5] := by
  decide +kernel
theorem witness_RoundingToAFormat :
    FFmt.f32 ∈ [FFmt.f64, .f32, .f16, .bf16] ∧ (0x3F800000 : Nat) < FFmt.f32.maxFin ∧
      Machine.Num.cmp (.fin false 1 0) (Machine.Num.decode .f32 0x3F800000) = 0 ∧
      Machine.Num.cmp (Machine.Num.decode .f32 0x3F800000) (.fin false (2 ^ 24 + 1) (-24)) = -1 ∧
      Machine.Num.cmp (.fin false (2 ^ 24 + 1) (-24)) (Machine.Num.decode .f32 0x3F800001) = -1 ∧
      Machine.Num.cmp (Machine.Num.decode .f32 0) (.fin false 1 (-150)) = -1 ∧ Machine.Num.cmp (.fin false 1 (-150)) (Machine.Num.decode .f32 1) = -1 ∧
      Machine.Num.cmp (Machine.Num.decode .f32 FFmt.f32.maxFin) (.fin false 1 128) = -1 := by decide +kernel
theorem witness_CrossbarPatterns : (5 : Nat) = 1 * 2 ^ ((1 : Fin 5).val + 1) + 1 ∧ (1 : Nat) < 2 ^ ((1 : Fin 5).val + 1) := by decide
theorem witness_ReductionsAndScans :
    Ty.isT .i64 = true ∧ with_ (.sredv c64 .add .f32 5 (v 1)) base (fun k _ => enabledOf k (reduce .add .f32 (k.mode .cr) (k.draw 0) (k.lanes.map fun n => k.val .f32 (v 1) n)).flags == 0) ∧
      with_ (.sredv c64 .add .f32 5 (v 1)) ((stOn 3 [] [(1, fun n => if n = 0 then 0x7F800000 else 0xFF800000)]).setView 1 0 0 fun V => { V with cr := [(2, 0x1F00)] })
        (fun k _ => enabledOf k (reduce .add .f32 (k.mode .cr) (k.draw 0) (k.lanes.map fun n => k.val .f32 (v 1) n)).flags != 0) := by decide +kernel

/-- Checked accesses of a memory instruction meet a condition. -/
def okAnd {ε α : Type} (x : Except ε α) (P : α → Bool) : Bool :=
  match x with
  | .ok a => P a
  | .error _ => false

def ldChk (ty : Ty) (space : Space) (k : Ctx) (s : State) : Except Trap (List Acc) :=
  let as := k.unitAddrs s space ty (k.s 4)
  s.checkAll k.G space ty .load false true (tyBytes ty) as.2 as.1

def oneLanding : Landing :=
  { id := 9, gang := 1, strand := 0, gen := 0, split := 0, dest := .v, sval := 0, vval := [(160, 7)], regs := [5], mark := none, flags := 0, wait := none }
theorem witness_Loads :
    with_ (.vld c96 .n32 sp 8 4 0) (stOn 3 [(4, 0x40)] [])
        (fun k s => okAnd (ldChk .n32 .sp k s) fun accs => s.canLoad k.g k.t 1 && !(k.bankWaits s accs) && (s.strand k.g k.t).posted.isEmpty &&
          accs.all fun x => x.leaf.all fun l => l.fmt == 0) ∧
      with_ (.vld c96 .n32 sp 8 4 0) (stOn 3 [(4, 0x42)] []) (fun k s => isErr (ldChk .n32 .sp k s)) ∧
      with_ (.vld c96 .n32 sp 8 4 0) ((stOn 3 [(4, 0x40)] []).setCore 0 fun C => { C with landing := List.replicate 256 oneLanding })
        (fun k s => okAnd (ldChk .n32 .sp k s) fun _ => !(s.canLoad k.g k.t 1)) ∧
      with_ (.sld c96 .i16 sp 5 4 0) (st [(4, 0x40)] [])
        (fun k s => okAnd (s.checkAll k.G .sp .i16 .scalar false true 2 unstrided [(0, k.s 4)]) fun accs => accs.length == 1 && s.canLoad k.g k.t 1 && !(k.bankWaits s accs)) ∧
      with_ (.vldt c96 .n32 .sp 16 4 6 0) (stOn 4 [(4, 0x1000), (6, 0x80)] [])
        (fun k s => okAnd (s.checkAll k.G .sp .n32 (.scattered false) false true 4 unstrided
          ((k.lanes.flatMap fun r => (List.range 32).map fun j => (r, j)).map fun q => (q.1, k.s 4 + BitVec.ofNat 64 q.1 * k.s 6 + BitVec.ofNat 64 (q.2 * 4))))
          fun accs => s.canLoad k.g k.t 32 && !(k.bankWaits s accs)) := by decide +kernel

/-- A vector load, and a scalar one, that the event named by State.cur returns. -/
def landing (L : Landing) : State :=
  { ((base.setStrand 1 0 fun S => { S with olc := 1, vbusy := [5] }).setCore 0 fun C => { C with landing := [L] }) with cur := { g := 0, t := 9, x := 0 } }
theorem witness_LoadReturns :
    ((landing oneLanding).core 0).landing.find? (fun l => l.id == 9) = some oneLanding ∧ oneLanding.wait = none ∧
      ((landing oneLanding).strand 1 0).gen = oneLanding.gen ∧ ((landing oneLanding).strand 1 0).freed = false ∧
      ((landing oneLanding).gangs.get? 1).isSome ∧ (((landing oneLanding).gang 1).strands.get? 0).isSome ∧
      (((landing { oneLanding with dest := .s 6 }).strand 1 0).splits.get? 0).isSome ∧ ((landing { oneLanding with gen := 1 }).strand 1 0).gen ≠ 1 := by decide +kernel
theorem test_load_returns : ((after .loadReturn (landing oneLanding)).strand 1 0).lane 5 0 = 7 := by decide +kernel

def stChk (k : Ctx) (s : State) : Except Trap (List Acc) :=
  let as := k.unitAddrs s .sp .i32 (k.s 4)
  s.checkAll k.G .sp .i32 .store true false 4 as.2 as.1
theorem witness_Stores :
    with_ (.vst c96 .i32 sp 4 (v 8) 0) (stOn 3 [(4, 0x40)] [])
        (fun k s => okAnd (stChk k s) fun accs => !(k.bankWaits s accs || s.captureHolds k.G.part accs) &&
          decide (¬(5 ≤ accsFmt accs ∧ accsFmt accs ≤ 7)) && accs.all fun x => x.leaf.all fun l => l.mtype != 1 && l.fmt == 0) ∧
      with_ (.vst c96 .i32 sp 4 (v 8) 0) (stOn 3 [(4, 0x41)] []) (fun k s => isErr (stChk k s)) ∧
      with_ (.sst c128 .i32 sp 4 6 0) (st [(4, 262140)] [])
        (fun k s => okAnd (s.checkAll k.G .sp .i32 .scalar true false 4 unstrided [(0, k.s 4)]) fun accs => accs.length == 1 && !(k.bankWaits s accs || s.captureHolds k.G.part accs)) ∧
      with_ (.lrec c64i (v 3) 4095) base (fun k s => decide (64 * 4095 + 64 ≤ (s.gang k.g).lrec.spad)) ∧
      with_ (.lrec c64i (v 3) 1) (base.setGang 1 fun G => { G with lrec := { G.lrec with spad := 64 } }) (fun k s => decide ((s.gang k.g).lrec.spad < 64 * 1 + 64)) := by
  decide +kernel
/-- The strand with the first bytes of a line waiting to be performed, each stored to a write-combining page (R122). -/
def merging (n : Nat) : State := base.setStrand 1 0 fun S =>
  { S with posted := (List.range n).map fun i => { addr := 0x40 + i, bytes := [BitVec.ofNat 8 i], seen := [0], comb := true } }
def lineFull (S : Strand) : Bool := (List.range 64).all fun i => S.posted.any fun m => m.comb && m.covers (0x40 + i)
theorem witness_MergedStores :
    lineFull ((merging 63).strand 1 0) = false ∧ lineFull ((merging 64).strand 1 0) = true ∧ (base.gangs.get? 1).isSome ∧ ((base.gang 1).strands.get? 0).isSome ∧
      base.posts 2 0x40 = false ∧ base.posts 0 bankBase = false ∧
      goes (.fence c64i .ms) (merging 63) ∧ goes (.fence c64i .part) (merging 63) ∧ ((merging 63).core 0).bank = [] ∧
      with_ (.cflush c96 4 0) (st [(4, 0x1000)] []) (fun k s => isErr (s.flushLeaf k.G.part (k.s 4))) ∧
      with_ (.cflush c96 4 0) (mapped (st [(4, 0x1000)] [])) (fun k s => isOk (s.flushLeaf k.G.part (k.s 4))) := by decide +kernel
theorem test_line_performed : (((merging 63).storeAt 1 0 0 1 0x7F [0x55]).drainFull 1 0 [0x40]).getN 0x7D 3 = [0x3D, 0x3E, 0x55] := by decide +kernel
theorem test_fence_performs : (after (.fence c64i .part) (merging 63)).getN 0x7D 2 = [0x3D, 0x3E] := by decide +kernel
theorem witness_AddressChecksAndWalk :
    (3 : DWord).toNat % 4 ≠ 0 ∧ (262140 : DWord).toNat + 4 ≤ (base.gang 1).lrec.spad ∧ (base.gang 1).lrec.spad < (262144 : DWord).toNat + 4 ∧
      (base.window (base.gang 1)).2 < (2 ^ 26 : DWord).toNat + 4 ∧ 2 ^ 23 ≤ (0x800000 : DWord).toNat ∧ isErr (base.translate 0 0x1000) = true ∧
      ((base.part 0).ptbase).getLsbD 0 = false ∧ hbmOwned [1] 0 (tableBytes 0) = false ∧ hbmOwned [0] 0 (tableBytes 0) = true ∧
      isOk (walkFrom (identity State.reset.mem) [0] 0x3FFFFFFF 4 0 0) = true ∧ isErr (walkFrom (identity State.reset.mem) [0] 0x40000000 4 0 0) = true := by decide +kernel

theorem witness_Atomics :
    Ty.isT .i32 = true ∧ (base.strand 1 0).posted = [] ∧
      with_ (.vatom c96 .add .i32 sp false 6 4 (v 7) (v 9) 0) (stOn 3 [(4, 0x40)] [(9, fun n => BitVec.ofNat 32 (4 * n))])
        (fun k s => okAnd (s.checkAll k.G .sp .i32 .atomic true false 4 unstrided (k.lanes.map fun n => (n, k.s 4 + (k.v (v 9) n).signExtend 64)))
          fun accs => s.canLoad k.g k.t 1 && !(k.bankWaits s accs) && !(s.captureHolds k.G.part accs) && decide (accs.Pairwise fun x y => x.pa + 4 ≤ y.pa ∨ y.pa + 4 ≤ x.pa)) ∧
      with_ (.scas c96 .i64 sp 5 4 6 0) (st [(4, 0x40)] [])
        (fun k s => okAnd (s.checkAll k.G .sp .i64 .scalar true false 8 unstrided [(0, k.s 4)]) fun accs => accs.length == 1 && s.canLoad k.g k.t 1 && !(k.bankWaits s accs)) ∧
      with_ (.vatom c96 .add .i32 sp false 6 4 (v 7) (v 9) 0) (stOn 3 [(4, 0x41)] [])
        (fun k s => isErr (s.checkAll k.G .sp .i32 .atomic true false 4 unstrided (k.lanes.map fun n => (n, k.s 4 + (k.v (v 9) n).signExtend 64)))) := by decide +kernel
theorem witness_Atomics_traps :
    with_ (.vcas c96 .i32 sp 6 4 (v 7) (v 9) 0) (stOn 3 [(4, 0x41)] [])
        (fun k s => isErr (s.checkLanes k.G .sp .i32 .atomic true false 4 unstrided (k.lanes.map fun n => (n, k.s 4 + (k.v (v 9) n).signExtend 64)))) ∧
      with_ (.scas c96 .i64 sp 5 4 6 0) (st [(4, 0x40)] [])
        (fun k s => okAnd (s.checkLanes k.G .sp .i64 .scalar true false 8 unstrided [(0, k.s 4)]) fun accs => (hostAccs accs).isEmpty) := by decide +kernel
/-- A page of host memory, whose atomics are those of PCI Express (R123); whether a completer answers there is open (DESIGN CHOICE, log entry 14). -/
def hostLeaf : Leaf := { pte := 0x1D + 2 ^ 55, bits := 30, slot := 0x400000, va := 0x40 }
theorem witness_Atomics_host : hostLeaf.target = 1 ∧ hostAccs [{ lane := 0, addr := 0x40, pa := hostLeaf.pa, leaf := some hostLeaf }] ≠ [] := by decide

def barred (n : Nat) (B : Bar) (s : State) : State := s.setGang 1 fun G => { G with bars := [(n, B)] }
theorem witness_NamedBarriers :
    goes (.bars c64i 10 15) (st [(10, 1)] []) ∧ goes (.bars c64i 10 15) (st [(10, 64)] []) ∧ goes (.bars c64i 10 15) (st [(10, 0)] []) ∧
      goes (.bars c64i 10 3) (barred 3 { count := 3, arr := 2, phase := 0, who := [1, 2] } (st [(10, 2)] [])) ∧
      goes (.bara c64i 3) (barred 3 { count := 2, arr := 0, phase := 5, who := [] } base) ∧
      goes (.bara c64i 3) (barred 3 { count := 2, arr := 1, phase := 5, who := [1] } base) ∧
      goes (.barw c64i 3) ((barred 3 { count := 2, arr := 0, phase := 6, who := [] } base).setSplit 1 0 0 fun X => { X with barP := [(3, 5)] }) := by decide +kernel
def arriving : State := { base with groups := [(2, { gangs := [1], bars := [], inflight := [(1, 0, 0, 7)], release := [6] })], cur := { g := 2, t := 7, x := 0 } }
theorem witness_ClusterBarriers_complete : (base.strand 1 0).isLaunch = true ∧
    ∀ h ∈ (base.group ((base.gang 1).group.getD 0)).gangs, clusterOfCore (base.gang h).core = clusterOfCore (base.gang 1).core := by decide +kernel
/-- A split waits at cluster barrier 6 for a phase before the present one. -/
def overtakenWait : State :=
  { (base.setSplit 1 0 0 fun X => { X with st := .wait, wait := some (.clbar 6), barP := [(22, 0)] }) with
    groups := [(2, { gangs := [1], bars := [(6, { count := 0, arr := 0, phase := 1, who := [] })], inflight := [], release := [6] })], cur := { g := 2, t := 6, x := 0 } }
theorem test_clbar_release : ((after .clusterBarrierRelease overtakenWait).split 1 0 0).st = .run := by decide +kernel
theorem witness_ClusterBarriers :
    goes (.clbar c64i .arrive 0) base ∧ (base.strand 1 0).isLaunch = true ∧
      goes (.clbar c64i .wait 7) (base.setStrand 1 0 fun S => { S with role := 3, entry := some 0 }) ∧
      ((base.setStrand 1 0 fun S => { S with role := 3, entry := some 0 }).strand 1 0).isLaunch = false ∧ (arriving.groups.get? 2).isSome ∧
      (arriving.group 2).inflight.find? (fun q => q.2.2.2 == 7) = some (1, 0, 0, 7) ∧ ({ arriving with cur := { g := 2, t := 6, x := 0 } } : State).cur.t ∈ (arriving.group 2).release := by
  decide +kernel

theorem witness_CopiesAreQueued :
    with_ (.cpy c128 (cp .sp .sp) 9 20 21 22 4) (st [(20, 0x80), (21, 0x44), (22, 4)] []) (fun k s =>
        [s.copyBounds (s.gang k.g) .sp 0x80 4, s.copyBounds (s.gang k.g) .sp 0x44 4].all Option.isNone && (s.core k.G.core).copies.isEmpty) ∧
      with_ (.cpy c128 (cp .sp .sp) 9 20 21 22 4) (st [(20, 0x40000), (21, 0x44), (22, 4)] []) (fun k s => (s.copyBounds (s.gang k.g) .sp 0x40000 4).isSome) ∧
      with_ (.lkget c96 .part .sp 9 4 5) (home { e5 with st := .resolved, peer := 0x13 } (st [(4, 0x0122001000000500), (5, 0x40)] []))
        (fun k s => (s.entry k.G.part (lkIdx (k.s 4))).peer != s.pkg.pkgid && !(lkNull (k.s 4))) ∧
      goes (.lkget c96 .part .sp 9 4 5) (home e5 (st [(4, 0x0132001000000500), (5, 0x40)] [])) := by decide +kernel
theorem witness_CopiesAreQueued_complete :
    (base.core 0).copies = [] ∧
      with_ (.cpyt c128 (cp .g .g) 9 20 21 22 0 4095) (st [(22, 4)] []) (fun _ s => decide (64 * 4095 + 64 ≤ (s.gang 1).lrec.spad)) ∧
      with_ (.cpyg c128 (cp .sp .sp) 2 9 20 21 22 3 0) (st [(20, 0x80), (21, 0x40), (22, 3)] []) (fun k s =>
        decide (4 * 0 + 4 * 3 ≤ (s.gang k.g).lrec.spad) && (s.copyBounds (s.gang k.g) .sp 0x80 12).isNone) ∧
      with_ (.cpyd c128 (cp .sp .sp) (some .e4m3) 9 20 21 22 2 0) (st [(20, 0x80), (21, 0x41), (22, 2)] []) (fun k s =>
        (s.copyBounds (s.gang k.g) .sp 0x80 4).isNone && (s.copyBounds (s.gang k.g) .sp 0x41 2).isNone) ∧
      with_ (.ovld c128 (cp .g .sp) 9 7 21 22 7 2) (st [(7, 0x2000), (22, 0x500)] []) (fun k s =>
        (s.copyBounds (s.gang k.g) .sp 0 0x500).isNone && decide (0x2000 + 256 * ((0x500 + 255) / 256) ≤ 65536 - 256 * (s.gang k.g).hlen)) ∧
      with_ (.cbld c128 (cp .g .sp) 9 21 255) (st [(21, 262112)] []) (fun k s => (s.copyBounds (s.gang k.g) .sp 262112 32).isNone) ∧
      with_ (.lkget c96 .part .sp 9 4 5) (home { e5 with st := .resolved, rlen := 256, peer := 0x12 } (st [(4, 0x0122001000000500), (5, 0x40)] []))
        (fun k s => (locketChecks s k (k.s 4)).all Option.isNone && (s.core k.G.core).copies.isEmpty) := by decide +kernel
theorem witness_StagesAndLaps :
    with_ (.cstage c64) base (fun k s => (((s.setGang k.g fun G => { G with stage := G.stage + 1 }).commit k.g k.t).replays k.g k.t k.x k.pc 1).isSome) ∧
      (base.gang 1).lrec.sched = [] ∧ (base.gang 1).wloads = [] ∧ goes (.ckpt c64) (twoSplits .run 0x40 base) ∧ ((twoSplits .run 0x40 base).strand 1 0).converged = false ∧
      goes (.ckpt c64) (inHandler base) ∧ (base.strand 1 0).pending = [] ∧ (base.strand 1 0).carried = [] ∧ (base.strand 1 0).tregs = [] ∧
      (∀ t ∈ (base.gang 1).liveLaunch, t = 0 ∨ t ∈ (base.gang 1).lapAt) ∧
      ((base.setGang 1 fun G => { G with pmode := 1, ckptn := 1 }).gang 1).pmode = 1 ∧ (0 + 1 : Word).toNat % max 1 1 = 0 := by decide +kernel

theorem witness_TileNodes :
    RoomFor (base.strand 1 0) (some 15) [] ∧ RoomFor ((tiled 1 smallTile base).strand 1 0) (some 3) [1] ∧
      goes (.ttrn c128t 3 1) (tiled 1 { smallTile with st := .poisoned } base) ∧ ((tiled 1 { smallTile with st := .poisoned } base).strand 1 0).treg 1 = { smallTile with st := .poisoned } ∧
      (twoSplits .run 0x40 base).canIssue = true ∧ operandsOf (.ttrn c128t 3 1) (twoSplits .run 0x40 base) = none ∧
      ((twoSplits .run 0x40 base).strand 1 0).converged = false := by
  refine ⟨?_, ?_, by decide +kernel, by decide +kernel, by decide +kernel, by decide +kernel, by decide +kernel⟩
  · unfold RoomFor
    refine ⟨by decide +kernel, by decide +kernel, ?_, by decide +kernel, by decide +kernel, by decide +kernel⟩
    rintro r ⟨⟩
    decide +kernel
  · unfold RoomFor
    refine ⟨by decide +kernel, by decide +kernel, ?_, by decide +kernel, by decide +kernel, by decide +kernel⟩
    rintro r ⟨⟩
    decide +kernel
/-- The strand with a transposition named by register 3. -/
def pendingTile : State := { after (.ttrn c128t 3 1) (tiled 1 smallTile base) with cycle := 1 }
theorem witness_ForcesAndBatches :
    goes (.tforce c64i 3) pendingTile ∧ ((pendingTile.strand 1 0).treg 3).st = .pending 0 ∧ ((pendingTile.strand 1 0).graph.get? 0).isSome ∧
      (pendingTile.core 0).forces = [] ∧ ((tiled 1 smallTile base).strand 1 0).treg 1 = smallTile ∧ (base.strand 1 0).converged = true ∧
      latestBatch (({ base with cycle := 0 }.setStrand 1 0 fun S => { S with batchNo := 5 }).strand 1 0).batchNo 5 = some 5 ∧ latestBatch 5 0 = none ∧
      (base.strand 1 0).pinned 15 = [] ∧ (base.strand 1 0).readIds 15 = [] := by decide +kernel
theorem witness_TileReads :
    goes (.tst c128t 2 ⟨4, 0x4000, .sp, false, .f32⟩) (tiled 2 smallTile base) ∧ ((tiled 2 smallTile base).strand 1 0).carried = [] ∧
      smallTile.st = .value ∧ smallTile.src = none ∧
      with_ (.tst c128t 2 ⟨4, 0x4000, .sp, false, .f32⟩) (tiled 2 smallTile base) (fun k s => okAnd (k.tstEls s (fun _ => []) ⟨4, 0x4000, .sp, false, .f32⟩ smallTile.tile)
        fun l => !(s.captureHolds k.G.part (l.map TEl.acc)) && ((l.map TEl.acc).all fun x => x.leaf.all fun l => l.mtype != 1) && enabledOf k 0x1F == 0) ∧
      with_ (.tst c128t 2 ⟨4, 0x40000, .sp, false, .f32⟩) (tiled 2 smallTile base) (fun k s => isErr (k.tstEls s (fun _ => []) ⟨4, 0x40000, .sp, false, .f32⟩ smallTile.tile)) ∧
      base.landingRoom 1 (imageRegs false 64 64) = true ∧
      (base.setCore 0 fun C => { C with landing := List.replicate 256 oneLanding }).landingRoom 1 1 = false ∧
      goes (.trdv c128t 16 2 0 1 0 2 .f32) (tiled 2 smallTile base) ∧ goes (.trdv c128t 16 2 63 0 63 0 .bf16) (tiled 2 { smallTile with st := .poisoned } base) := by
  decide +kernel
theorem witness_TileReads_forced :
    goes (.tst c128t 3 ⟨4, 0x4000, .sp, false, .f32⟩) pendingTile ∧ goes (.trdv c128t 16 3 0 0 63 0 .f32) pendingTile ∧ (pendingTile.strand 1 0).converged = true ∧
      ((pendingTile.strand 1 0).treg 3).st = .pending 0 ∧ (((pendingTile.strand 1 0).graph.get? 0).map fun N => (N.rows, N.cols)) = some (3, 2) ∧
      (pendingTile.strand 1 0).carried = [] ∧ (pendingTile.core 0).forces = [] := by decide +kernel
theorem test_tst_forces : ((after (.tst c128t 3 ⟨4, 0x4000, .sp, false, .f32⟩) pendingTile).core 0).forces.map (fun F => F.tile) = [3] := by decide +kernel
theorem witness_WeightSlots :
    ((base.gang 1).back 3).loading = false ∧ RoomFor (base.strand 1 0) none [] ∧ ((after (.wld c128t 20 1 4 11 0 .bf16 false 0) base).gang 1).back 1 ≠ Plane.zero ∧
      (((after (.wld c128t 20 1 4 11 0 .bf16 false 0) base).gang 1).back 1).loading = true ∧ (base.strand 1 0).slotReaders 3 = [] ∧ (base.core 0).forces = [] ∧
      (((loaded 1 6 base).gang 1).back 1).pois = false ∧
      ((base.setGang 1 fun G => { G with planes := [(3, { Plane.zero with pois := true, fault := some { cause := 0x20, sub := 2, addr := 0, opc := 0 } })] }).gang 1).back 1 =
        { Plane.zero with pois := true, fault := some { cause := 0x20, sub := 2, addr := 0, opc := 0 } } := by
  refine ⟨by decide +kernel, ?_, by decide +kernel, by decide +kernel, by decide +kernel, by decide +kernel, by decide +kernel, by decide +kernel⟩
  unfold RoomFor
  refine ⟨by decide +kernel, by decide +kernel, by nofun, by decide +kernel, by decide +kernel, by decide +kernel⟩

theorem witness_BankCommandsIssue :
    goes (.bxclr c96 9 4 (v 8)) (banked (stOn 1 [] [])) ∧ BankLanesFit (banked (stOn 1 [] [])) (ctx (.bxclr c96 9 4 (v 8)) (banked (stOn 1 [] []))) 4 (v 8) 64 ∧
      (banked base).canLoad 1 0 2 = true ∧ goes (.bxclr c96 9 4 (v 8)) (banked (stOn 1 [(4, 131072)] [])) ∧ goes (.bxclr c96 9 4 (v 8)) (banked (stOn 1 [(4, 1)] [])) ∧
      with_ (.baxpy c128 9 4 5 6 7 16) (banked (st [(5, 64), (7, 16)] [])) (fun k s =>
        [alignCheck 4 (k.s 4), alignCheck 4 (k.s 5), boundCheck (s.window k.G).2 64 (k.s 4), boundCheck (s.window k.G).2 64 (k.s 5)].all Option.isNone) ∧
      with_ (.bewu c128 .moment 9 4 5 6 7 8 1) (banked (st [(5, 0), (7, 1), (8, 131040)] [])) (fun k s =>
        [alignCheck 16 (k.s 5), alignCheck 32 (k.s6 8), boundCheck (s.window k.G).2 16 (k.s 5), boundCheck (s.window k.G).2 32 (k.s6 8)].all Option.isNone) := by
  unfold BankLanesFit
  decide +kernel
theorem witness_BankCommandsIssue_complete :
    with_ (.baxpy c128 9 4 5 6 7 16) (banked (st [(5, 64), (7, 16)] [])) (fun k _ => decide ((k.s 4).toNat + 4 * 16 ≤ (k.s 5).toNat ∧ (k.s6 7).toNat ≤ 16)) ∧
      with_ (.bewu c128 .clamp 9 4 5 6 7 8 16) (banked (st [(5, 64), (6, 0), (7, 16), (8, 0x3F800000)] [])) (fun k _ =>
        !(clampBad ((k.s 6).extractLsb' 0 32).toNat ((k.s6 8).extractLsb' 0 32).toNat)) ∧
      BankLanesFit (banked (stOn 1 [] [])) (ctx (.bred c96 .max .i32 4 (v 8) (v 9)) (banked (stOn 1 [(4, 131068)] []))) 4 (v 8) 4 := by
  unfold BankLanesFit
  decide +kernel
theorem witness_SketchCommandsIssue_complete :
    let s := putBk 4096 [0x78, 0x56, 0x34, 0x12, 1, 8, 0xFC, 0] (sketch (st [(13, 4096)] []))
    let k := ctx (.ksadd c64 9 12 13) s
    let hdr := fun (o : DWord) => s.bkRead k.G.part ((s.window k.G).1 + o.toNat) 64
    let end_ := fun (o : DWord) => o.toNat + (64 + (skHdrOf (hdr o)).dep * 2 ^ (skHdrOf (hdr o)).w * 8)
    hdr (k.s 12) = hdr (k.s 13) ∧ end_ (k.s 12) ≤ (k.s 13).toNat ∧ end_ (k.s 13) ≤ (s.window k.G).2 ∧
      s.bankBusy k.g (banksOf (s.settings k.G.part) ((s.window k.G).1 + (k.s 13).toNat, 64)) = false := by decide +kernel
theorem witness_SketchCommandsIssue :
    with_ (.ksinit c128 9 12 13 0xFC 1 8) (banked (st [(12, 131072 - 64 - 2048)] [])) (fun k s => (alignCheck 64 (k.s 12)).isNone && decide ((k.s 12).toNat + (64 + 1 * 2 ^ 8 * 8) ≤ (s.window k.G).2)) ∧
      with_ (.ksupd c96 (some 0) 9 12 (v 4) (v 6)) (sketch base) (fun k s =>
        skValid (s.bkRead k.G.part ((s.window k.G).1 + (k.s 12).toNat) 64) && !(s.bankBusy k.g (banksOf (s.settings k.G.part) ((s.window k.G).1, 64)))) ∧
      with_ (.ksqry c96 false 7 12 (v 4)) (sketch base) (fun k s => s.canLoad k.g k.t 1) ∧
      with_ (.ksadd c64 9 12 13) (putBk 4096 [0x78, 0x56, 0x34, 0x12, 1, 8, 0xFC, 0] (sketch (st [(13, 4096)] []))) (fun k s =>
        skValid (s.bkRead k.G.part ((s.window k.G).1 + (k.s 13).toNat) 64)) ∧
      with_ (.ksupd c96 (some 0) 9 12 (v 4) (v 6)) (after (.ksinit c128 9 12 13 0xFC 1 8) (banked base)) (fun _ _ => true) = false ∧
      goes (.ksupd c96 (some 0) 9 12 (v 4) (v 6)) (banked (st [(12, 32)] [])) := by decide +kernel

theorem witness_LocketsAndInvocations :
    with_ (.lkwait c64 22 20) (home { e5 with st := .pending } (st [(20, 0x0122001000000500)] [])) (fun k s => (locketChecks s k (k.s 20)).all Option.isNone) ∧
      with_ (.lkwait c64 22 20) (home e5 (st [(20, 0x0132001000000500)] [])) (fun k s => (locketChecks s k (k.s 20)).any Option.isSome) ∧
      ((home e5 base).parts.get? 2).isSome ∧ withinBudgets ((home e5 base).part 2).regions ((home e5 base).gang 1).region [0, 0, 0, 0, 0, 1] false = true ∧
      (0x10 : Nat) < Config.lrtEntries ∧ ((home e5 base).entry 2 0x10).st = .free ∧ (∀ j, j < 0x10 → ((home e5 base).entry 2 j).st ≠ .free) ∧
      ((home e5 base).peer 0x13).unreach = false ∧ (home e5 base).pkg.pkgidSet = true ∧ (home e5 base).storeUsed 2 < Config.forwardStore := by decide +kernel
theorem witness_SystemRegisters :
    goes (.sysrd c64i 5 0x2F) base ∧ goes (.sysrd c64i 5 0x30) base ∧ goes (.syswr c64i 6 9) base ∧ goes (.syswr c64i 6 0x11) (inHandler base) ∧
      base.pkg.trig = [] ∧ (after (.clasp c64i 0x1234) base).pkg.trig.length = 1 := by decide +kernel

/-! ### States of the package and its host -/

/-- Partition 2 with setting 0, function 0 bound to it, identity tables, an LRT; queue 5 of function 0 is bound, its ring at 0x10000, CIWB at 0x20000. -/
def host (slot : List Byte) : State :=
  { State.reset with
    pkg := { State.reset.pkg with layA := [(4, 0x82), (20, 0x82), (131, 2)], layActB := false, pkgid := 0x12, pkgidSet := true, mpUp := true },
    parts := [(2, { Part.formed 1 with ptbase := 1 })], mem := (identity State.reset.mem).writeN 0x10000 slot,
    queues := [(5, { Queue.reset with valid := true, func := 0, en := true, bound := some 0, pidx := 1, desc :=
      { ring := 0x10000, log2n := 4, prio := 3, region := 0, vec := 1, ciwb := 0x20000, errw := 0x20008 } })],
    cur := { g := 5, t := 0, x := 0 } }
/-- Bytes with numbers laid into them: offset, length, value. -/
def slotOf (n : Nat) (l : List (Nat × Nat × Nat)) : List Byte :=
  leBytes n (l.foldl (fun a f => a + f.2.2 * 2 ^ (8 * f.1)) 0)
def queueOf (f : Queue → Queue) (s : State) : State := s.setQueue 5 f
def at_ (g t : Nat) (s : State) : State := { s with cur := { g := g, t := t, x := 0 } }

/-- `Taken`, as a test. -/
def takes (s : State) (op p : Nat) (l : List Byte) : Bool :=
  s.mayTake s.cur.g && decide (s.fnPart (s.queue s.cur.g).func = some p) && decide (s.slotAt p s.cur.g = some l) && decide (leAt l 0 1 = op) &&
    (cmdBad l).isNone && isOk (s.writeLeaves p (s.queue s.cur.g).desc.ciwb.toNat 8)

theorem taken_of_takes {s : State} {op p : Nat} {l : List Byte} (h : takes s op p l = true) : Taken s op p l := by
  unfold takes at h
  simp only [Bool.and_eq_true, decide_eq_true_eq, Option.isNone_iff_eq_none] at h
  obtain ⟨⟨⟨⟨⟨h1, h2⟩, h3⟩, h4⟩, h5⟩, h6⟩ := h
  refine ⟨h1, h2, h3, h4, h5, ?_⟩
  cases hw : s.writeLeaves p (s.queue s.cur.g).desc.ciwb.toNat 8 with
  | ok ls => exact ⟨ls, rfl⟩
  | error e => rw [hw] at h6; cases h6

theorem witness_PackageEvents :
    State.reset.sec.fused = .manufacture ∧ (Sec.cold none [] .provisioned 2).fused = .provisioned ∧ (Sec.cold none [] .deployed 3).fused = .deployed ∧
      (Sec.cold none [] .retired 5).fused = .retired ∧ State.reset.pkg.layGo = false ∧ State.reset.pkg.hot = false ∧ State.reset.pkg.armed = true ∧
      State.reset.pkg.trig = [] ∧ (after (.claspTrigger 1 7) State.reset).pkg.trig.length = 1 ∧ State.reset.sec.unlock = none ∧
      ((after (.claspTrigger 1 7) State.reset).pkg.trig.getLast?.map Trig.at_) = some 0 ∧ ({ State.reset with cycle := 24 } : State).cycle = 0 + 24 ∧
      32000000 < (List.replicate 10 3200001).sum ∧ (List.replicate 10 2999999).sum < 30000000 := by decide +kernel
theorem test_clock_falls : (after (.powerSample 5000000) { State.reset with pkg := { State.reset.pkg with power := List.replicate 9 3100000, clock := .ghz17 } }).pkg.clock = .ghz15 := by decide +kernel
theorem test_retired_has_no_partition :
    (after (.lifecycleFuse true [] []) { host [] with sec := Sec.cold (some []) [] .deployed 3 }).parts.length = 0 := by decide +kernel
theorem test_trigger_latches : ((after .snapshotLatch { after (.claspTrigger 1 7) State.reset with cycle := 24 }).pkg.snap.map fun n => n.tag) = some 7 := by decide +kernel

theorem witness_HardwareErrors :
    1023 < Config.cores ∧ (base.gangs.get? 1).isSome ∧ (base.gang 1).resident = true ∧ (base.gang 1).core = 0 ∧ hbmBytes - 1 < hbmBytes ∧
      ¬(hbmBytes < hbmBytes ∨ bankBase ≤ hbmBytes ∧ hbmBytes < bankBase + 2 ^ 29) ∧
      ((base.setCore 7 fun C => { C with quarantined := true }).core 7).quarantined = true := by decide +kernel
theorem test_core_test_fails_once :
    ((after (.quarantinedCoreTest 7 true) (after (.quarantinedCoreTest 7 false) (base.setCore 7 fun C => { C with quarantined := true }))).core 7).quarantined = true := by
  decide +kernel
theorem test_core_error_kills : ((after (.uncorrectableCoreError 0) base).gang 1).killed = true := by decide +kernel

def fresh5 : State := { host [] with queues := [(5, { Queue.reset with valid := true, func := 0 })] }
/-- A descriptor at queue 5's place in the table at 0, with a RING. -/
def described (ring log2n : Nat) : State := fresh5.putN 0x500140 (slotOf 64 [(0, 8, ring), (8, 1, log2n), (16, 8, 0x20000), (24, 8, 0x20008)])
def enabling (ring log2n : Nat) : State := (described ring log2n).setFn 0 fun F => { F with qtbase := 0x500000 }
theorem witness_QueueRegisters :
    State.reset.pf0Open = true ∧ (State.reset.queue 4095).en = false ∧ fresh5.barOpen 0 = true ∧ fresh5.owns 0 5 = true ∧
      fresh5.owns 0 6 = false ∧ (host []).fnPart 0 = some 2 ∧ isErr (fresh5.readVa 2 0x40000000 64) = true ∧
      isOk ((enabling 0x10000 16).readVa 2 0x500140 64) = true ∧ ((host []).queue 5).en = true ∧ (host []).boundCount < Config.activeSlots ∧
      (queueOf (fun Q => { Q with bound := none }) (host [])).queueReady 5 = true ∧ ((host []).queues.map Prod.fst).Pairwise (· < ·) := by decide +kernel
theorem test_enable_good : ((after (.queueEnable 0 5) (enabling 0x10000 4)).queue 5).err = false := by decide +kernel
theorem test_enable_bad : ((after (.queueEnable 0 5) (enabling 0x10000 17)).queue 5).err = true := by decide +kernel
theorem test_enable_resets : ((after (.registerWrite 0 0x10028 3) (queueOf (fun Q => { Q with pidx := 9, err := true }) (enabling 0x10000 4))).queue 5).pidx = 0 := by decide +kernel
theorem test_mapper_binds : ((after .mapperBind (queueOf (fun Q => { Q with bound := none }) (host []))).queue 5).bound = some 0 := by decide +kernel

def launchSlot : List Byte := slotOf 64 [(0, 1, 1), (8, 8, 0x30000), (16, 4, 1)]
/-- A launch record: one role of 4 bytes of code at 0x40000, one strand of one block. -/
def launchRecord (strands : Nat) : List Byte := slotOf 256 [(2, 1, 1), (16, 8, 0x40000), (24, 4, 4), (30, 1, strands), (31, 1, 1)]
def launching (strands : Nat) : State := (host launchSlot).putN 0x30000 (launchRecord strands)
def invokeSlot : List Byte := slotOf 64 [(0, 1, 5), (8, 8, 0x50000), (16, 2, 0x2012), (18, 2, 1)]
theorem witness_CommandsStart :
    Taken (launching 1) 1 2 launchSlot ∧ isOk ((launching 1).readLaunch 2 0x30000 ((launching 1).regionCause 2 5)) = true ∧ (0 : Nat) + 1 ≤ 2 ^ 32 ∧
      isErr ((launching 33).readLaunch 2 0x30000 ((launching 33).regionCause 2 5)) = true ∧
      Taken (host (slotOf 64 [(0, 1, 2), (8, 8, 0x30000), (18, 2, 4095)])) 2 2 (slotOf 64 [(0, 1, 2), (8, 8, 0x30000), (18, 2, 4095)]) ∧
      Taken (host (slotOf 64 [(0, 1, 3), (8, 8, 0x30000)])) 3 2 (slotOf 64 [(0, 1, 3), (8, 8, 0x30000)]) ∧
      (host []).regionCause 2 5 0 = none ∧ Taken (host invokeSlot) 5 2 invokeSlot ∧
      Taken (host (slotOf 64 [(0, 1, 6), (8, 8, 0x60000), (16, 8, 80)])) 6 2 (slotOf 64 [(0, 1, 6), (8, 8, 0x60000), (16, 8, 80)]) ∧
      Taken (host (slotOf 64 [(0, 1, 7), (1, 1, 1), (24, 2, 255)])) 7 2 (slotOf 64 [(0, 1, 7), (1, 1, 1), (24, 2, 255)]) ∧
      Taken (host (slotOf 64 [(0, 1, 8)])) 8 2 (slotOf 64 [(0, 1, 8)]) := by
  refine ⟨taken_of_takes ?_, ?_, ?_, ?_, taken_of_takes ?_, taken_of_takes ?_, ?_, taken_of_takes ?_, taken_of_takes ?_, taken_of_takes ?_, taken_of_takes ?_⟩ <;> decide +kernel
def destroySlot : List Byte := slotOf 64 [(0, 1, 4), (16, 2, 4095)]
def regioned : State := (host destroySlot).setPart 2 fun P => { P with regions := P.regions.set 4095 (Region.make 0 1 (Rcb.root 1) none) }
theorem witness_CommandsStart_regions :
    Taken regioned 4 2 destroySlot ∧ regioned.regionCause 2 5 4095 = none ∧ regioned.regionGangs 2 4095 = [] ∧
      (∀ c ∈ (regioned.part 2).regions, ¬(c.1 ≠ 0 ∧ c.2.parent = 4095)) ∧ leAt (slotOf 64 [(0, 1, 9)]) 0 1 = 9 ∧
      (host (slotOf 64 [(0, 1, 9)])).slotAt 2 5 = some (slotOf 64 [(0, 1, 9)]) := by
  refine ⟨taken_of_takes ?_, ?_, ?_, ?_, ?_, ?_⟩ <;> decide +kernel
def captureSlot (area bytes : Nat) : List Byte := slotOf 64 [(0, 1, 6), (8, 8, area), (16, 8, bytes)]
/-- A region whose destruction waits for a gang, and its child. -/
def beingDestroyed : State :=
  (host destroySlot).setPart 2 fun P => { P with regions :=
    (P.regions.set 4095 { Region.make 0 1 (Rcb.root 1) none with destroying := true }).set 7 (Region.make 4095 2 (Rcb.root 1) none) }
theorem witness_CommandsStart_more :
    Taken (host (captureSlot 0x40000000 80)) 6 2 (captureSlot 0x40000000 80) ∧ ((host []).part 2).cap = none ∧ ((host []).part 2).capWait = [] ∧
      (host []).areaOk 2 { area := 0x60000, bytes := 80, used := 64, pages := 0, queue := 5, cmd := 0, first := none } = true ∧
      Taken beingDestroyed 4 2 destroySlot ∧ beingDestroyed.regionCause 2 5 4095 = none := by
  refine ⟨taken_of_takes ?_, ?_, ?_, ?_, taken_of_takes ?_, ?_⟩ <;> decide +kernel
/-- Slots that fail R27: a reserved byte, an alignment, a range. -/
theorem witness_CommandsStart_bad_slots :
    ∀ l ∈ [slotOf 64 [(0, 1, 1), (2, 1, 1), (8, 8, 0x30000), (16, 4, 1)], slotOf 64 [(0, 1, 1), (8, 8, 0x30001), (16, 4, 1)], slotOf 64 [(0, 1, 1), (8, 8, 0x30000)],
        slotOf 64 [(0, 1, 8), (1, 1, 2)], slotOf 64 [(0, 1, 7), (1, 1, 1), (24, 2, 256)]],
      (host l).mayTake 5 = true ∧ (host l).fnPart 0 = some 2 ∧ (host l).slotAt 2 5 = some l ∧ ((host l).queue 5).cmds = [] := by decide +kernel
theorem test_reserved_byte : (after .launch (host (slotOf 64 [(0, 1, 1), (2, 1, 1), (8, 8, 0x30000), (16, 4, 1)]))).getN 0x20008 2 = [1, 2] := by decide +kernel
theorem test_capture_bad_area : ((after .capture (host (captureSlot 0x40000000 80))).queue 5).cidx = 0 := by decide +kernel
theorem test_destroyed_under_child : ((after .regionDestroy beingDestroyed).queue 5).cmds = [] := by decide +kernel
theorem test_launch_walks : ((after .launch (launching 1)).gangs.map fun q => q.2.phase) = [.walk] := by decide +kernel
theorem test_launch_bad_record : ((after .launch (launching 33)).queue 5).err = true := by decide +kernel
theorem test_invoke_told : ((after .invoke (host invokeSlot)).getN 0x50000 8) = [0x20, 1, 0, 0, 0, 0, 0x22, 1] := by decide +kernel
theorem test_region_destroyed : ((after .regionDestroy regioned).part 2).regions.get? 4095 = none := by decide +kernel

def opened (k : CmdKind) : State := queueOf (fun Q => { Q with cmds := [{ id := 0, op := 7, idx := 0, tag := 9, kind := k }] }) (host [])
theorem witness_CommandsComplete :
    (opened (.signal 0x50000 7 true 255)).fnPart 0 = some 2 ∧ isOk ((opened (.signal 0x50000 7 true 255)).writeLeaves 2 0x50000 8) = true ∧
      isErr ((opened (.signal 0x50000 7 true 255)).writeLeaves 2 0x40000000 8) = true ∧ ((opened (.fence true 0x50000 1 0)).queue 5).bound.isSome ∧
      ((opened (.fence true 0x50000 1 0)).queue 5).stop = false ∧ isOk ((opened (.fence true 0x50000 1 0)).readVa 2 0x50000 8) = true ∧
      (((host []).part 2).regions.get? 0).isSome ∧ ((host []).part 2).cap = none ∧
      ((opened (.invoke 0x50000 1 0 0)).queue 5).cmds.length = 1 := by decide +kernel
theorem test_signal_writes : (after .signalWrite (opened (.signal 0x50000 7 false 0))).getN 0x50000 2 = [7, 0] := by decide +kernel
theorem test_signal_fails : ((after .signalWrite (opened (.signal 0x40000000 7 false 0))).queue 5).cmds.map (fun c => c.kind) = [.failed] := by decide +kernel
theorem test_fence_polls_again : ((after .fencePoll (opened (.fence true 0x50000 1 0))).queue 5).cmds.map (fun c => c.kind) = [.fence true 0x50000 1 1024] := by decide +kernel
def asked (bytes : Nat) : State := at_ 2 0 ((host []).setPart 2 fun P => { P with capWait := [{ area := 0x60000, bytes := bytes, used := 64, pages := 0, queue := 5, cmd := 0, first := none }] })
theorem witness_CommandsComplete_capture :
    (asked 80).areaOk 2 { area := 0x60000, bytes := 80, used := 64, pages := 0, queue := 5, cmd := 0, first := none } = true ∧
      (asked 80).areaOk 2 { area := 0x40000000, bytes := 80, used := 64, pages := 0, queue := 5, cmd := 0, first := none } = false ∧ ((asked 80).parts.get? 2).isSome := by decide +kernel

theorem witness_CommandsComplete_failed :
    let s := queueOf (fun Q => { Q with cmds := [{ id := 0, op := 6, idx := 0, tag := 9, kind := .capture }] })
      (at_ 2 0 ((host []).setPart 2 fun P => { P with capWait := [{ area := 0x40000000, bytes := 80, used := 64, pages := 0, queue := 5, cmd := 0, first := none }] }))
    ((s.queue 5).cmds.find? fun d => d.id == 0).isSome = true ∧ (after .captureStart s).getN 0x20008 8 = [6, 0x0F, 0, 0, 9, 0, 0, 0] := by decide +kernel
/-- The identity tables with their page tracked and not captured; a generation is open. -/
def capturing : State :=
  at_ 2 0 (((host []).putN 0x40000C [1]).setPart 2 fun P =>
    { P with capG := true, cap := some { area := 0x60000, bytes := 80, used := 64, pages := 0, queue := 5, cmd := 0, first := none } })
theorem witness_CommandsComplete_page : (capturing.parts.get? 2).isSome ∧ (capturing.nextUncaptured 2).isSome = true := by decide +kernel

def layoutAsks (req : Layout) : State := { State.reset with pkg := { State.reset.pkg with layReq := req, mpUp := true }, sec := Sec.cold none [] .provisioned 2 }
def goodLayout : Layout := [(0, 1), (4, 0x80), (20, 0x80)]
theorem witness_LayoutRequests :
    (layoutAsks goodLayout).pf0Open = true ∧ (layoutAsks goodLayout).pkg.layGo = false ∧ (layoutAsks goodLayout).watchdogDue = false ∧
      (layoutAsks goodLayout).layStatus goodLayout = 0 ∧ (layoutAsks [(20, 0x80)]).layStatus [(20, 0x80)] ≠ 0 ∧
      ({ State.reset with pkg := { State.reset.pkg with scrub := 0x8000 } } : State).pkg.scrub.getLsbD 15 = true := by decide +kernel
theorem test_layout_applies : (after .layctlGo (layoutAsks goodLayout)).settings 0 = [0] := by decide +kernel

def saving : State := (host []).setFn 0 fun F => { F with ctxva := 0x70000 }
theorem witness_ContextsAndResets :
    saving.barOpen 0 = true ∧ (saving.fn 0).ctx ≠ 1 ∧ (saving.markImage 0 1).isSome ∧ ((saving.setFn 0 fun F => { F with ctxva := 0x40000000 }).markImage 0 1).isNone ∧
      isOk (saving.readVa 2 0x70000 4) = true ∧ saving.presented 0 = true ∧ (saving.fn 0).flr = .off ∧
      (∀ g ∈ saving.launchedBy 0, saving.setAside g = true) ∧ (∀ g ∈ saving.gangs, ¬(g.2.queue = none ∧ g.2.fn = 0)) := by decide +kernel
theorem witness_ContextsAndResets_more :
    saving.imageAtVa 0 = none ∧
      (∀ g ∈ saving.gangsOfFn 0, (saving.gang g).killed = true) ∧ ({ saving with pkg := { saving.pkg with ucie0 := false, ucie1 := false } } : State).presented 0 = false := by
  decide +kernel
theorem test_save_begins : ((after (.contextSave 0) saving).queue 5).stop = true := by decide +kernel
theorem test_restore_ends : ((after .contextRestoreComplete (at_ 0 0 (saving.setFn 0 fun F => { F with ctx := 1, ctxOp := 2 }))).fn 0).ctx = 2 := by decide +kernel
theorem test_flr_drains : ((after (.flr 0) saving).fn 0).flr = .drain 0 := by decide +kernel

def sealed_ : State := { host [] with sec := { (Sec.cold (some [1]) [] .deployed 3) with portOpen := false } }
theorem witness_AttestationAndUnlock :
    sealed_.attOpen 0 = true ∧ (sealed_.fn 0).attStatus ≠ 1 ∧ sealed_.sec.lcs = .deployed ∧ sealed_.sec.seed ≠ none ∧ State.reset.sec.lcs = .manufacture ∧
      sealed_.pkg.mpUp = true ∧ sealed_.pkg.layGo = false ∧ ({ sealed_ with pkg := { sealed_.pkg with layGo := true } } : State).pkg.layGo = true ∧ (tblBytes (sealed_.fn 0).nonce 0 64).length = 64 ∧ (List.replicate 16 (1 : Byte)).length = 16 := by decide +kernel
theorem test_attestation_refused : ((after (.attestationGo 0) State.reset).fn 0).attStatus = 3 := by decide +kernel

theorem witness_RegisterWrites :
    State.reset.pf0Open = true ∧ State.reset.pkg.pkgidSet = false ∧ (host []).exports 0 = some 2 ∧ ((host []).parts.get? 2).isSome ∧
      ((host []).part 2).tlbBusy = false ∧ (host []).barOpen 0 = true ∧ (host []).gangNamed 0 0 = none ∧
      (0xFF00 : DWord).toNat % 65536 + 256 ≤ 65536 ∧ isOk ((host []).resolve 2 .device true false 0xFF00) = true ∧
      isErr ((host []).resolve 2 .device true false 0x40000000) = true := by decide +kernel
/-- A store of a strand of the partition waits to be performed on a page whose translation TLBINV is to drop. -/
def invalidating : State :=
  { ((base.setStrand 1 0 fun S => { S with posted := [{ addr := 0x1000, bytes := [7], seen := [0], comb := true }] }).setPart 0 fun P =>
      { P with tlbBusy := true, tlbva := 0x200, tlb := [{ vpage := 0, bits := 30, pte := 0x1D, slot := 0x400000 }] }) with cur := { g := 0, t := 0, x := 0 } }
theorem witness_RegisterWrites_tlbinv : (invalidating.part 0).tlbBusy = true ∧ invalidating.remoteOpen 0 (fun _ => true) = false ∧ (invalidating.gangs.map Prod.fst).Nodup := by decide +kernel
/-- A copy has asked another package for 8 bytes through the page that goes. -/
def asking : State := invalidating.setCore 0 fun C => { C with copies := [{ Copy.blank with gang := 1, rem :=
  [{ tag := 1, write := false, va := 0, bytes := 8, got := 0, status := 0, data := [], pkg := 0x13, part := 0, index := 0, link := 0, via := some (0, 30) }] }] }
theorem witness_RegisterWrites_waits : asking.remoteOpen 0 (fun e => decide (e.vpage = 0)) = true := by decide +kernel
theorem test_tlbinv_performs : ((after .tlbinvComplete invalidating).mem.read 0x1000, (after .tlbinvComplete invalidating).part 0 |>.tlb.length) = (7, 0) := by decide +kernel
theorem test_pkgid_once : (after (.pkgidWrite 7) (after (.pkgidWrite 0xFFF5) State.reset)).pkg.pkgid = 0xFF5 := by decide +kernel
theorem test_bar4_writes : (after (.hostBar4Access 0 0x80000 true [1, 2]) (host [])).getN 0x80000 2 = [1, 2] := by decide +kernel

theorem witness_LinksAndPeers :
    ((State.reset.pkg.links.getD 0 Link.reset).up = true ∨ (State.reset.pkg.links.getD 0 Link.reset).up = false) ∧ (13 : Nat) < 16 ∧
      ({ State.reset with pkg := { State.reset.pkg with links := [(0, { Link.reset with up := true, replays := 8 })] } } : State).pkg.links.getD 0 Link.reset = { Link.reset with up := true, replays := 8 } := by
  decide +kernel
theorem test_link_fails : ((after (.flitCrcFailure 0) { State.reset with pkg := { State.reset.pkg with links := [(0, { Link.reset with up := true, replays := 8 })] } }).pkg.links.getD 0 Link.reset).up = false := by
  decide +kernel

/-! ### Messages, gangs and engines -/

def hdr (mseq : BitVec 32) : MsgHdr :=
  { mseq := mseq, src := 0x13, spart := 1, dpart := 2, hidx := 0x10, hgen := 5, addressed := false, host := false, pidx := 7, pgen := 3, cause := 9, fidx := 0,
    alen := 0, aseq := 0, args := [], rva := 0x9000, rlen := 8 }
/-- The host's partition with an entry at 0x10 and a linked neighbour 0x13. -/
def linked (e : Lrt) (s : State) : State :=
  { (s.setPart 2 fun P => { P with lrt := [(0x10, e)] }) with
    pkg := { s.pkg with links := [(0, { Link.reset with up := true })], routes := [(0x13, 0x8000)] } }
/-- An exported function at 0x80000 that any package and partition may invoke, launching the record at 0x30000. -/
def exporting : State :=
  ((linked e5 (launching 1)).putN 0x80000 (slotOf 32 [(0, 8, 0x30000), (16, 1, 3), (17, 1, 64), (18, 1, 1), (24, 2, 0xFFFF)])).setPart 2
    fun P => { P with eftbase := 0x80000, eftctl := 0x10001 }
theorem witness_Messages :
    (hdr 0).src ≠ exporting.pkg.pkgid ∧ (hdr 0).mseq = (exporting.peer 0x13).rx ∧ (exporting.peer 0x13).early = [] ∧ (exporting.parts.get? 2).isSome ∧
      (exporting.admitInv (hdr 0)).isSome ∧ (exporting.admitInv { hdr 0 with fidx := 1 }).isNone ∧ 0 < ((hdr 1).mseq - (exporting.peer 0x13).rx).toNat ∧
      ((hdr 0x7FFFFFFF).mseq - (exporting.peer 0x13).rx).toNat < 2 ^ 31 ∧ 2 ^ 31 ≤ ((hdr 0x80000000).mseq - (exporting.peer 0x13).rx).toNat ∧
      ((linked { e5 with st := .pending } (host [])).entry 2 0x10).st = .pending ∧ ((linked { e5 with st := .pending, genA := 5 } (host [])).entry 2 0x10).genA = (hdr 0).hgen := by
  decide +kernel
/-- An invocation addressed to the proxy entry 7. -/
def addressed7 (p : LrtSt) : State :=
  (exporting.putN 0x80000 (slotOf 32 [(0, 8, 0x30000), (16, 1, 3), (17, 1, 64), (18, 1, 3), (24, 2, 0xFFFF)])).setEntry 2 7 fun _ => { Lrt.freshEntry 3 with st := p, proxy := true, peer := 0x13 }
def hdr7 : MsgHdr := { hdr 0 with addressed := true, aseq := 4 }
theorem witness_Messages_addressed :
    ((addressed7 .resolved).entry 2 7).gen = hdr7.pgen ∧ ((addressed7 .resolved).admitInv hdr7).isSome ∧ ((addressed7 .tarnished).admitInv hdr7).isSome ∧
      ((addressed7 .tarnished).entry 2 7).st = .tarnished := by decide +kernel
theorem test_addressed_counts : ((after (.invocationRequest hdr7) (addressed7 .resolved)).entry 2 7).nextSeq = 5 := by decide +kernel
theorem test_tarnished_takes_none : ((after (.invocationRequest hdr7) (addressed7 .tarnished)).peer 0x13).unacked.length = 0 := by decide +kernel
theorem test_accept : ((after (.accept (hdr 0)) (linked { e5 with st := .pending, genA := 5 } (host []))).entry 2 0x10).peerIdx = 7 := by decide +kernel
theorem test_resolve : ((after (.resolve (hdr 0)) (linked { e5 with st := .migrated, genA := 5 } (host []))).entry 2 0x10).rva = 0x9000 := by decide +kernel
theorem test_refused : ((after (.invocationRequest { hdr 0 with fidx := 1 }) exporting).peer 0x13).unacked.map (fun q => q.2.1.ty) = [5] := by decide +kernel
theorem test_invoked_gang : ((after (.invocationRequest (hdr 0)) exporting).gangs.map fun q => q.2.proxy) = [some 0] := by decide +kernel

theorem witness_RemoteCopies :
    (0 : Nat) < 224 ∧ (0xFF20 : DWord).toNat % 65536 + 224 ≤ 65536 ∧ exporting.route 0x13 = some 0 := by decide +kernel

/-- The LAUNCH's first gang, at the walk and in each phase after it. -/
def walking : State := at_ 3 0 { after .launch { launching 1 with nextId := 3 } with cycle := 0 }
def walker (f : Gang → Gang) : State := walking.setGang 3 f
theorem witness_GangAdmission :
    (walking.gangs.get? 3).isSome ∧ (walking.gang 3).phase = .walk ∧ (walking.gang 3).fresh = true ∧ (walking.gang 3).queue = some 5 ∧
      ((walking.queue 5).cmds.find? fun d => d.id == (walking.gang 3).cmd).isSome ∧ (walking.queue 5).stop = false ∧ (walking.queue 5).bound.isSome ∧ 3 < walking.nextId ∧
      (((walking.part 2).regions.get? 0).map Region.destroying) = some false ∧ withinBudgets (walking.part 2).regions 0 (walking.gang 3).lrec.demand true = true ∧
      walking.neverFits 3 1 false = false ∧ withinBudgets (walking.part 2).regions 0 (walking.gang 3).lrec.demand false = true ∧
      withinBudgets ((walking.part 2).regions.modify 0 fun R => { R with rcb := { R.rcb with budgets := [0] } }) 0 (walking.gang 3).lrec.demand true = false ∧
      withinBudgets ((walking.part 2).regions.modify 0 fun R => { R with rcb := { R.rcb with budgets := [1] }, usage := [1] }) 0 (walking.gang 3).lrec.demand false = false := by
  decide +kernel
theorem test_admitted : ((after .gangAdmission walking).gang 3).phase = .placer := by decide +kernel

def placing : State := at_ 3 0 (after .gangAdmission walking)
theorem witness_PlacementAndStart :
    (placing.gang 3).waiting = true ∧ (placing.gang 3).fresh = true ∧ (placing.gang 3).phase = .placer ∧ (placing.gang 3).queue.isSome ∧
      placing.neverFits 3 1 false = false ∧
      withinBudgets ((placing.part 2).regions.modify 0 fun R => { R with rcb := { R.rcb with budgets := [0] } }) 0 (placing.gang 3).lrec.demand true = false ∧ placing.turn 3 = true ∧ (placing.plan 3).isSome ∧
      (placing.setCore 3 fun C => { C with drain := some 9 }).turn 3 = true ∧ ((placing.setGang 3 fun G => { G with phase := .walk }).gang 3).waiting = false ∧
      (placing.setPart 2 fun P => { P with regions := P.regions.modify 0 fun R => { R with rcb := { R.rcb with tslice := 1 } } }).cycle = 0 ∧
      ({ placing with cycle := 4096 } : State).cycle = (placing.gang 3).waitFrom + 4096 := by decide +kernel
/-- The same gang wants three weight slots, and its region's only setting is in half-file mode (R101). -/
def halved (fresh : Bool) : State :=
  { placing.setGang 3 fun G => { G with lrec := { G.lrec with wslots := 3 }, fresh := fresh, phase := if fresh then .placer else .saved } with pkg := { placing.pkg with half := 0xFFFF } }
theorem witness_PlacementAndStart_barred :
    (halved false).neverFits 3 1 false = true ∧ (halved true).neverFits 3 1 false = true ∧ ((halved false).gang 3).waiting = true ∧ ((halved true).gang 3).phase = .placer := by
  decide +kernel
theorem test_barred_is_killed : ((after .gangPlacement (halved false)).gang 3).killed = true := by decide +kernel
theorem test_barred_is_dropped : (after .gangPlacement (halved true)).gangs.get? 3 = none := by decide +kernel
def loading : State := at_ 3 0 ((walking.setGang 3 fun G => { G with phase := .loading, charged := true }).putN 0x40000 [4, 0, 0, 0])
theorem witness_PlacementAndStart_load :
    (loading.gang 3).phase = .loading ∧ (loading.gang 3).suspendAt = false ∧ (loading.gang 3).fresh = true ∧ (loading.gang 3).lrec.sched = [] ∧
      (match loading.loadGang 3 with
       | .code _ _ _ => true
       | _ => false) = true ∧
      (match ((loading.setGang 3 fun G => { G with handler := 0x40000000, hlen := 1 }).loadGang 3) with
       | .fault _ _ => true
       | _ => false) = true := by decide +kernel
theorem test_placed : ((after .gangPlacement placing).gang 3).phase = .loading := by decide +kernel
theorem test_started : ((after .overlayLoadComplete loading).gang 3).phase = .running := by decide +kernel
theorem test_slice_ends : ((after .sliceExpiry { at_ 1 0 base with cycle := 65536 }).gang 1).expired = true := by decide +kernel

def leftover (f : Strand → Strand) : State := at_ 1 0 (base.setStrand 1 0 f)
def someBin : Bin :=
  { gang := 1, entry := 4, target := 0x40, vblk := 1, threads := [[1, 2, 3, 4], [5, 6, 7, 8]], first := 0, spwt := 100, due := true, fullAt := some 0, cr := [], by_ := [(0, 0)] }
def binned (b : Bin) : State := at_ 0 2 (base.setCore 0 fun C => { C with bins := [(2, b)] })
/-- The gang of the bin holds 4 blocks of its core, so that a spawned strand fits. -/
def roomy (b : Bin) : State := (binned b).setStrand 1 0 fun S => { S with vblk := 4 }
theorem witness_LeavingAndSpawning :
    (base.gang 1).charged = true ∧ ((leftover fun S => { S with exited := true }).strand 1 0).exited = true ∧ ((leftover fun S => { S with exited := true }).strand 1 0).freed = false ∧
      (leftover fun S => { S with exited := true, freed := true }).gangDone 1 = true ∧ (base.fn (base.gang 1).fn).flr = .off ∧
      (binned someBin).bin = some someBin ∧ (binned { someBin with due := false }).bin = some { someBin with due := false } ∧
      takeFree ((roomy someBin).occ 0 []).slots 0 32 1 = some [1] ∧ (firstRun ((roomy someBin).occ 0 []).blocks 0 128 1).isSome ∧
      ((roomy someBin).gang 1).half = 0 ∧ someBin.spwt ≠ 0 ∧ ((roomy someBin).binEntry someBin).vblk = 1 ∧ ({ binned someBin with cycle := 65536 } : State).cycle = 0 + 65536 := by
  decide +kernel
theorem witness_LeavingAndSpawning_suspended : (((roomy someBin).setGang 1 fun G => { G with phase := .suspended }).gang 1).phase = .suspended := by decide +kernel
theorem test_strand_released : ((after .strandRelease (leftover fun S => { S with exited := true })).strand 1 0).freed = true := by decide +kernel
theorem test_gang_leaves : (after .gangExit (leftover fun S => { S with exited := true, freed := true })).gangs.get? 1 = none := by decide +kernel
theorem test_bin_launches : ((after .spawnBinLaunch (roomy someBin)).strand 1 1).lane 3 1 = 8 := by decide +kernel
theorem test_granule_refills :
    ((after .granuleRefill { base.setGang 1 fun G => { G with evicted := [0], code := [(0, 4)] } with cur := { g := 1, t := 0, x := 0 } }).gang 1).evicted = [] := by decide +kernel
theorem test_bin_vacant : ((after .spawnBinLaunch (roomy someBin)).strand 1 1).vacant = 0xFFFFFFFC := by decide +kernel

def phased (p : Phase) : State := at_ 1 0 (base.setGang 1 fun G => { G with phase := p })
/-- A strand that has been rewound to its initial point. -/
def rewoundGang : State := at_ 1 0 ((base.setGang 1 fun G => { G with phase := .stopping 0 true }).setStrand 1 0 fun S => { S with atFlash := true })
theorem witness_Preemption :
    (phased (.stopping 0 false)).arriving 1 = false ∧ rewoundGang.savable 1 = true ∧ (phased (.stopping 0 true)).savable 1 = false ∧ (phased .checkpointing).drained 1 = true ∧
      ((phased .loading).gang 1).fresh = false ∧ ((phased .loading).gang 1).rewound = [] ∧ ((phased .loading).gang 1).savedBins = [] ∧
      (((phased .loading).gang 1).strands.map Prod.fst).Nodup ∧ ((phased .loading).gang 1).suspendAt = false ∧
      ({ phased (.stopping 0 true) with cycle := 2 ^ 20 } : State).cycle = 0 + 2 ^ 20 := by decide +kernel
/-- Gang 1 has had its slice and holds the weight slots of the only core in service; gang 9, of a region of priority 5, waits for one. -/
def contested : State :=
  at_ 9 0 { base with
    parts := [(0, { Part.formed 1 with regions := (Part.formed 1).regions.set 1 (Region.make 0 1 { Rcb.root 1 with prio := 5 } none) })],
    cycle := 1024, cores := (List.range 127).map fun i => (i + 1, { Core.reset with quarantined := true }),
    gangs := [(1, { base.gang 1 with expired := true, lrec := { (base.gang 1).lrec with wslots := 4 } }),
              (9, { Gang.empty with phase := .placer, region := 1, arrival := 1, group := some 9, lrec :=
                { (base.gang 1).lrec with wslots := 1, nbar := 0, spad := 0, roles := [{ ovl := 0, ovlLen := 16, entry := 0, strands := 1, vblk := 1, tiles := 0 }] } })],
    groups := [(2, { gangs := [1], bars := [], inflight := [], release := [] }), (9, { gangs := [9], bars := [], inflight := [], release := [] })] }
theorem witness_Preemption_trigger :
    (contested.gang 9).waiting = true ∧ (contested.gang 9).waitFrom + 1024 ≤ contested.cycle ∧ contested.mayServe 9 = true ∧ contested.preemptSet 9 = some [1] := by decide +kernel
/-- The same with gang 1 still loading (R82, R83). -/
def contestedLoading : State := contested.setGang 1 fun G => { G with phase := .loading, fresh := true }
theorem witness_Preemption_loading :
    contestedLoading.preemptSet 9 = some [1] ∧ (contestedLoading.gang 1).pmode ≠ 1 ∧ (contestedLoading.gang 1).fresh = true ∧ contestedLoading.mayServe 9 = true := by decide +kernel
theorem test_loading_goes_back : ((after .preemptionTrigger contestedLoading).gang 1).phase = .placer := by decide +kernel
theorem witness_Preemption_whole :
    rewoundGang.unitOf 1 = [1] ∧ (∀ x ∈ (rewoundGang.gang 1).strands, x.2.atFlash = true) ∧ (phased (.stopping 0 true)).unitOf 1 = [1] := by decide +kernel
theorem test_saved : ((after .gangSave rewoundGang).gang 1).phase = .saving := by decide +kernel
theorem test_save_done : ((after .gangSaveComplete (phased .saving)).gang 1).phase = .saved := by decide +kernel
theorem test_checkpointed : (after .checkpoint (phased .checkpointing)).ckpts.length = 1 := by decide +kernel

/-- A scratchpad copy of 4 units of 2 bytes from 0x40 to 0x48, active. -/
def oneCopy : Copy := { Copy.blank with id := 9, gang := 1, kind := .cpy, dsp := .sp, ssp := .sp, dst := 0x48, src := 0x40, valid := 4, want := 4, unit := 2, token := 7, st := .active, cls := .local_ }
def copying (k : Copy) : State := at_ 0 9 (base.setCore 0 fun C => { C with copies := [k] })
def forced : State := at_ 0 0 (after (.tforce c64i 3) pendingTile)
theorem witness_CoreEvents :
    (copying oneCopy).copyOf 0 9 = some oneCopy ∧ oneCopy.bad = none ∧ oneCopy.sched = none ∧ oneCopy.nb = none ∧ oneCopy.moved = 0 ∧
      (base.gang 1).spUnit * 1024 + (base.gang 1).lrec.spad ≤ 2 ^ 18 ∧ oneCopy.src.toNat + 8 ≤ oneCopy.dst.toNat ∧ base.mem.poisoned (spAddr 0 0x40) 8 = false ∧
      ((base.strand 1 0).splits.get? 0).isSome ∧ (base.strand 1 0).gen = oneCopy.gen ∧
      ((copying { oneCopy with st := .queued }).core 0).mayStart { oneCopy with st := .queued } = true ∧
      (forced.core 0).engine = none ∧ (forced.core 0).forces.length = 1 ∧ (after .evaluationStart forced |>.core 0).engine.isSome ∧
      (((after (.wld c128t 20 1 4 11 0 .bf16 false 0) base).gang 1).wloads.find? fun L => L.slot == 1).isSome ∧
      ((after (.lkstat c64 22 20) (home { e5 with st := .pending } (st [(20, 0x0122001000000500)] []))).lkres.length = 1) ∧
      (let s := after (.bxclr c96 9 4 (v 8)) (banked (stOn 1 [] []))
       ∀ w ∈ (s.core 0).bank, s.mayApply 0 w = true ∧ s.mayFetch 0 w = false ∧ w.cur < w.total) ∧
      (((host []).part 2).pfWait = [] ∧ isOk ((host []).readVa 2 0x90000 64) = true) := by decide +kernel
theorem test_copy_moves : (after .copyComplete ((copying oneCopy).putN (spAddr 0 0x40) [1, 2, 3, 4, 5, 6, 7, 8, 9])).getN (spAddr 0 0x48) 9 = [1, 2, 3, 4, 5, 6, 7, 8, 0] := by decide +kernel
theorem test_evaluates : (((after .evaluationComplete (at_ 0 0 (after .evaluationStart forced))).strand 1 0).treg 3).tile.rows = 3 := by decide +kernel

def bankWorks (i : Instr) (s : State) : State :=
  let t := after i s
  at_ 0 (((t.core 0).bank.head?).elim 0 BankWork.id) t
theorem witness_BankRequests :
    let s := bankWorks (.bxadd c96 9 4 (v 8) (v 10)) (banked (stOn 1 [] []))
    let r := bankWorks (.bred c96 .max .i32 4 (v 8) (v 9)) (banked (stOn 1 [(4, 131068)] []))
    let meets := fun (s : State) n (w : BankWork) => s.mayApply 0 w && !(s.mayFetch 0 w) && decide ((laneAt w 0).addr + n ≤ (s.settings w.part).length * 2 ^ 25) &&
      !(s.bkPoisoned w.part (laneAt w 0).addr n)
    (s.bankWork 0 s.cur.t).any (fun w => meets s 64 w && w.kind == .bxadd) = true ∧
      (r.bankWork 0 r.cur.t).any (fun w => meets r 4 w && w.kind == .bred .max .i32) = true := by decide +kernel
theorem witness_BankRequests_sketch :
    let s := bankWorks (.ksupd c96 (some 0) 9 12 (v 4) (v 6)) (sketch (stOn 1 [] []))
    let r := bankWorks (.bxrd c96 true false 2 4 (v 8)) (banked (stOn 1 [] []))
    let q := bankWorks (.ksadd c64 9 12 13) (putBk 4096 [0x78, 0x56, 0x34, 0x12, 1, 8, 0xFC, 0] (sketch (st [(13, 4096)] [])))
    (s.bankWork 0 s.cur.t).any (fun w => s.mayApply 0 w && !(s.mayFetch 0 w) && decide (w.cur % 2 ≠ 1)) = true ∧
      (r.bankWork 0 r.cur.t).any (fun w => r.mayApply 0 w && !(r.mayFetch 0 w)) = true ∧
      (q.bankWork 0 q.cur.t).any (fun w => q.mayFetch 0 w && !(q.mayApply 0 w) && w.range.isSome) = true := by decide +kernel

/-- The state of a bank command after some of its visits. -/
def visited (n : Nat) (i : Instr) (s : State) : State := (List.range n).foldl (fun a _ => after .bankRequest a) (bankWorks i s)
/-- The state with every command's operand visits counted up to n. -/
def fetchedBy (n : Nat) (s : State) : State := s.setCore 0 fun C => { C with bank := C.bank.map fun w => { w with fetched := n } }
def mayGo (s : State) (P : BankWork → Bool) : Bool := (s.bankWork 0 s.cur.t).any fun w => s.mayApply 0 w && !(s.mayFetch 0 w) && P w
def poisonedBk (s : State) : State := { s with mem := { s.mem with poison := [bankAddr [0] 0] } }
theorem witness_BankRequests_ranges :
    mayGo (visited 1 (.baxpy c128 9 4 5 6 7 16) (banked (st [(5, 64), (7, 16)] []))) (fun w => decide (64 + 4 * w.count ≤ 2 ^ 25) && (w.carry.getD 0 none).isSome) ∧
      mayGo (bankWorks (.bewu c128 .clamp 9 4 5 6 7 8 16) (banked (st [(5, 64), (6, 0), (7, 16), (8, 0x3F800000)] []))) (fun w => w.kind == .bewu .clamp 0 0x3F800000 0 64) ∧
      mayGo (visited 1 (.bewu c128 .moment 9 4 5 6 7 8 1) (banked (st [(5, 0), (7, 1), (8, 131040)] []))) (fun w => decide (16 * w.count ≤ 2 ^ 25)) ∧
      mayGo (bankWorks (.ksinit c128 9 12 13 0xFC 1 8) (banked base)) (fun w => w.cur == 0) ∧
      mayGo (bankWorks (.ksqry c96 false 7 12 (v 4)) (sketch (stOn 1 [] []))) (fun w => w.cur == 0 && (laneAt w 0).lane == 0) ∧
      mayGo (fetchedBy 33 (visited 1 (.ksadd c64 9 12 13) (putBk 4096 [0x78, 0x56, 0x34, 0x12, 1, 8, 0xFC, 0] (sketch (st [(13, 4096)] []))))) (fun w => w.cur == 0) ∧
      mayGo (bankWorks (.bred c96 .min .f32 4 (v 8) (v 9)) (banked (stOn 1 [] []))) (fun w => w.kind == .bred .min .f32) ∧
      mayGo (poisonedBk (bankWorks (.bxrd c96 true false 2 4 (v 8)) (banked (stOn 1 [] [])))) (fun w => w.outMark.isEmpty) := by decide +kernel
/-- A keep-alive waits for a slot of link 0. -/
def oneSlot : State := { State.reset with pkg := { State.reset.pkg with links := [(0, { Link.reset with up := true })], out := [.keepAlive 0 0x13] } }
theorem test_slot_sends : ((64 : Nat), ((({ oneSlot with pkg := { oneSlot.pkg with links := [(0, { Link.reset with up := true, slot := 64 })] } } : State).slot 0).pkg.sent.length)) = (64, 1) := by
  decide +kernel
theorem witness_AStepRunsTheDecodedInstruction :
    base.dueStim = none ∧ base.acts = [.split { g := 1, t := 0, x := 0 }] ∧ base.portFree { g := 1, t := 0, x := 0 } = true ∧
      (oneSlot.acts = [.slot 0] ∧ oneSlot.dueStim = none) ∧ ({ base with pkg := { base.pkg with scrub := 1 } } : State).acts.length = 2 ∧
      decode 0 ((State.reset.withFetchWord 64 4).gang 1 |>.fetch 0) = .ok (.nop c64) ∧
      ({ State.reset with stim := [{ due := 0, ev := .coldReset }] } : State).dueStim.isSome := by decide +kernel
/-- Two strands of one gang, each at a word that is no instruction. -/
def twoAtIll : State :=
  (State.reset.withFetchWord 64 0).setGang 1 fun G => { G with strands := G.strands ++ G.strands.map fun t => (1, { t.2 with slot := 1, vbase := 16 }) }
theorem witness_strands_that_fault_together :
    twoAtIll.wouldFault { g := 1, t := 0, x := 0 } = true ∧ twoAtIll.wouldFault { g := 1, t := 1, x := 0 } = true := by decide +kernel
theorem witness_no_fault_together :
    base.wouldFault { g := 1, t := 0, x := 0 } = false := by decide +kernel
theorem witness_EveryStepKeepsMemoryCanonical : base.mem.wf = true ∧ ∃ t, step base = .next t := ⟨by decide +kernel, _, rfl⟩

end Sys2Proof.Tests
end

section
/-! # Control flow and scalar division: rules of the shared operations, and the statements settled with them -/

namespace Sys2Proof.Machine

open Sys2Proof

/-! ## What an instruction that issues reads and where it stands -/

theorem Issues.gang_listed {i : Instr} {s : State} {k : Ctx} (h : Issues i s k) : (s.gangs.get? k.g).isSome := by
  obtain ⟨hg, -⟩ := gate_go h.2
  exact hg ▸ (canIssue_listed h.1).1

theorem Issues.strand_listed {i : Instr} {s : State} {k : Ctx} (h : Issues i s k) : ((s.gang k.g).strands.get? k.t).isSome := by
  obtain ⟨hg, ht, -⟩ := gate_go h.2
  obtain ⟨-, hs, -⟩ := canIssue_listed h.1
  exact hg ▸ ht ▸ hs

theorem Issues.split_listed {i : Instr} {s : State} {k : Ctx} (h : Issues i s k) : ((s.strand k.g k.t).splits.get? k.x).isSome := by
  obtain ⟨hg, ht, hx, -⟩ := gate_go h.2
  obtain ⟨-, -, hs, -⟩ := canIssue_listed h.1
  exact hg ▸ ht ▸ hx ▸ hs

theorem Issues.split_runs {i : Instr} {s : State} {k : Ctx} (h : Issues i s k) : (s.split k.g k.t k.x).st = .run := by
  obtain ⟨hg, ht, hx, -⟩ := gate_go h.2
  obtain ⟨-, -, -, hs⟩ := canIssue_listed h.1
  exact hg ▸ ht ▸ hx ▸ hs

theorem Issues.now_eq {i : Instr} {s : State} {k : Ctx} (h : Issues i s k) : k.now = s.cycle := by
  obtain ⟨-, -, -, -, -, -, -, -, -, hn⟩ := gate_go h.2
  exact hn

/-- Early reads (R168) change only the words that an instruction reads of its strand's vector registers. -/
theorem Issues.strand_eq {i : Instr} {s : State} {k : Ctx} (h : Issues i s k) : k.S = { s.strand k.g k.t with v := k.S.v } := by
  obtain ⟨hg, ht, -⟩ := gate_go h.2
  exact hg ▸ ht ▸ (gate_go_strand h.2).1

/-- Of its split, early reads change only the view that an instruction reads. -/
theorem Issues.split_eq {i : Instr} {s : State} {k : Ctx} (h : Issues i s k) : k.X = { s.split k.g k.t k.x with view := k.X.view } := by
  obtain ⟨hg, ht, hx, -⟩ := gate_go h.2
  exact hg ▸ ht ▸ hx ▸ (gate_go_strand h.2).2

theorem Issues.mask_eq {i : Instr} {s : State} {k : Ctx} (h : Issues i s k) : k.X.mask = (s.split k.g k.t k.x).mask :=
  (congrArg Split.mask h.split_eq :)

theorem Issues.vacant_eq {i : Instr} {s : State} {k : Ctx} (h : Issues i s k) : k.S.vacant = (s.strand k.g k.t).vacant :=
  (congrArg Strand.vacant h.strand_eq :)

theorem Issues.counters_eq {i : Instr} {s : State} {k : Ctx} (h : Issues i s k) : k.S.counters = (s.strand k.g k.t).counters :=
  (congrArg Strand.counters h.strand_eq :)

theorem Issues.liveSplits_eq {i : Instr} {s : State} {k : Ctx} (h : Issues i s k) :
    k.S.liveSplits = (s.strand k.g k.t).liveSplits := by
  rw [h.strand_eq]
  rfl

theorem Issues.act_eq {i : Instr} {s : State} {k : Ctx} (h : Issues i s k) :
    k.act = (s.strand k.g k.t).active (s.split k.g k.t k.x) := by
  obtain ⟨hg, ht, hx, -, -, -, -, -, ha, -⟩ := gate_go h.2
  exact hg ▸ ht ▸ hx ▸ ha

/-- A trap that an instruction raises is taken at its own PC (R104). -/
theorem Issues.trap_raises {i : Instr} {s : State} {k : Ctx} (h : Issues i s k) (tr : Trap) : Raises s (k.trap tr s) i tr := by
  obtain ⟨hg, ht, hx, -, hpc, hnext, -⟩ := gate_go h.2
  rw [Raises, Ctx.trap, hg, ht, hx, hnext, hpc]

/-! ## Going on at a PC (R297) -/

/-- BranchTarget (R278) as a number. -/
theorem branchTarget_eq (pc off : BitVec 16) : branchTarget pc off = BitVec.ofInt 16 (pc.toNat + 4 * off.toInt) := by
  rw [BitVec.ofInt_add, BitVec.ofInt_mul, BitVec.ofInt_toInt, BitVec.ofInt_natCast, BitVec.ofNat_toNat, BitVec.setWidth_eq]
  rfl

theorem Issues.goto_goes {i : Instr} {s : State} {k : Ctx} (h : Issues i s k) (pc : BitVec 16) : Goes s (k.goto pc s) k pc := by
  refine ⟨by rw [Ctx.goto, h.now_eq], ?_, fun _ => rfl⟩
  rw [Ctx.goto, State.setSplit_split s _ _ _ _ h.gang_listed h.strand_listed h.split_listed]

/-! ## Writing a scalar (R313) -/

section Scalar

variable (v : View) (chk : Bool) (now lat n : Nat) (x : DWord)

theorem View.flyScalar_zero : v.flyScalar chk now lat 0 x = v := rfl

theorem View.flyScalar_scalar_self : (v.flyScalar chk now lat n x).scalar n = if n = 0 then 0 else x := by
  by_cases hn : n = 0
  · simp [hn, View.scalar]
  · simp [View.flyScalar, View.putScalar, View.scalar, hn]

theorem View.flyScalar_scalar_ne {r : Nat} (hr : r ≠ n) : (v.flyScalar chk now lat n x).scalar r = v.scalar r := by
  by_cases hn : n = 0
  · rw [hn, View.flyScalar_zero]
  · simp [View.flyScalar, View.putScalar, View.scalar, hn, Tbl.getD_set_ne _ _ _ hr]

@[simp] theorem View.flyScalar_cr : (v.flyScalar chk now lat n x).cr = v.cr := by
  by_cases hn : n = 0 <;> simp [View.flyScalar, View.putScalar, hn]

@[simp] theorem View.flyScalar_busy : (v.flyScalar chk now lat n x).busy = v.busy := by
  by_cases hn : n = 0 <;> simp [View.flyScalar, View.putScalar, hn]

theorem View.flyScalar_marks_ne {r : Nat} (hr : r ≠ n) : (v.flyScalar chk now lat n x).marks.get? r = v.marks.get? r := by
  by_cases hn : n = 0
  · rw [hn, View.flyScalar_zero]
  · simp [View.flyScalar, View.putScalar, hn, Tbl.get?_erase_ne _ hr]

end Scalar

/-- A fixed-latency scalar write and the step to a PC change one scalar of the split's view, and nothing else. -/
theorem Issues.setS_written {i : Instr} {s : State} {k : Ctx} (h : Issues i s k) (lat : Nat) (d : BitVec 8) (x : DWord) (pc : BitVec 16) :
    ScalarWritten s (k.goto pc (k.setS lat d x s)) k pc d x := by
  have hstep : k.goto pc (k.setS lat d x s) = s.setSplit k.g k.t k.x fun X =>
      { X with view := X.view.flyScalar k.chk k.now lat d.toNat x, pc := pc, readyAt := s.cycle + 1 + k.stall, yld := k.yld } := by
    rw [Ctx.goto, Ctx.setS, State.setView, State.setSplit_setSplit, h.now_eq]
  have hsplit := State.setSplit_split s k.g k.t k.x (fun X =>
      { X with view := X.view.flyScalar k.chk k.now lat d.toNat x, pc := pc, readyAt := s.cycle + 1 + k.stall, yld := k.yld })
      h.gang_listed h.strand_listed h.split_listed
  have hd : d.toNat = 0 ↔ d = 0 := by bv_omega
  unfold ScalarWritten
  rw [hstep, hsplit]
  refine ⟨State.setSplit_const .., rfl, ?_, fun r hr => View.flyScalar_scalar_ne _ _ _ _ _ _ hr, View.flyScalar_cr .., View.flyScalar_busy ..,
    fun r hr => View.flyScalar_marks_ne _ _ _ _ _ _ hr, fun _ => rfl⟩
  simp only [View.flyScalar_scalar_self, hd]

/-- An instruction whose body is a scalar write writes that scalar (R313). -/
theorem writesScalar_of_exec {i : Instr} {lat : Nat} {d : BitVec 8} {f : Ctx → DWord}
    (hexec : ∀ s, exec i s = issue i (fun k => k.intS lat d (f k)) s) : WritesScalar i d f :=
  fun _ k h => ⟨_, (hexec _).trans (issue_go _ h), h.setS_written lat d (f k) k.next⟩

/-! ## Quotients and remainders (R315) -/

theorem divQ_signed (x y : DWord) : divQ false x y =
    if y = 0 then 0xFFFFFFFFFFFFFFFF else if x.toInt = -2 ^ 63 ∧ y.toInt = -1 then BitVec.ofInt 64 (-2 ^ 63)
    else BitVec.ofInt 64 (x.toInt.tdiv y.toInt) := by
  by_cases hc : x.toInt = -2 ^ 63 ∧ y.toInt = -1
  · simp [divQ, hc]
  · rw [divQ, if_neg hc]
    rfl

theorem divR_signed (x y : DWord) : divR false x y =
    if y = 0 then x else if x.toInt = -2 ^ 63 ∧ y.toInt = -1 then 0
    else BitVec.ofInt 64 (x.toInt - x.toInt.tdiv y.toInt * y.toInt) := by
  by_cases hc : x.toInt = -2 ^ 63 ∧ y.toInt = -1
  · simp [divR, hc]
  · rw [divR, if_neg hc, Int.tmod_def, Int.mul_comm]
    rfl

theorem divQ_unsigned (x y : DWord) : divQ true x y = if y = 0 then 0xFFFFFFFFFFFFFFFF else BitVec.ofNat 64 (x.toNat / y.toNat) :=
  rfl

theorem divR_unsigned (x y : DWord) : divR true x y = if y = 0 then x else BitVec.ofNat 64 (x.toNat - x.toNat / y.toNat * y.toNat) := by
  rw [divR, Nat.mod_eq_sub_div_mul]
  rfl

/-- Settles O4: each form writes divQ or divR of its sources, which is the result of R315 case by case; -2^63 by -1 wraps to itself, with
remainder 0. -/
theorem scalarDivision : Obligations.ScalarDivision := by
  unfold Obligations.ScalarDivision
  intro c d a b
  simp only [← divQ_signed, ← divR_signed, ← divQ_unsigned, ← divR_unsigned]
  exact ⟨writesScalar_of_exec fun _ => rfl, writesScalar_of_exec fun _ => rfl, writesScalar_of_exec fun _ => rfl,
    writesScalar_of_exec fun _ => rfl⟩

/-! ## Dividing a strand (R302, R303) -/

theorem firstFrom_eq_some {p : Nat → Bool} {fuel n e : Nat} (hn : n ≤ e) (he : e < n + fuel) (hp : p e = true)
    (hlow : ∀ m, n ≤ m → m < e → p m = false) : firstFrom p fuel n = some e := by
  induction fuel generalizing n with
  | zero => omega
  | succ fuel ih =>
    rcases Nat.eq_or_lt_of_le hn with rfl | hlt
    · simp [firstFrom, hp]
    · have hnot : p n = false := hlow n le_rfl hlt
      simpa [firstFrom, hnot] using ih hlt (by omega) fun m hm => hlow m (by omega)

theorem Strand.freeSplit_eq_some {S : Strand} {e : Nat} (he : e < 4) (hdead : (S.splits.getD e Split.none).st.live = false)
    (hlive : ∀ m, m < e → (S.splits.getD m Split.none).st.live = true) : S.freeSplit = some e :=
  firstFrom_eq_some (Nat.zero_le e) (by omega) (by simp [hdead]) fun m _ hm => by simp [hlive m hm]

theorem mem_insertNat {x y : Nat} {l : List Nat} : y ∈ insertNat x l ↔ y = x ∨ y ∈ l := by
  induction l with
  | nil => simp [insertNat]
  | cons z r ih =>
    unfold insertNat
    split
    · simp
    · split
      · rename_i hz
        simp [hz]
      · simp only [List.mem_cons, ih]
        tauto

theorem mem_foldl_insertNat {y : Nat} (l a : List Nat) : y ∈ l.foldl (fun a x => insertNat x a) a ↔ y ∈ l ∨ y ∈ a := by
  induction l generalizing a with
  | nil => simp
  | cons x r ih =>
    simp only [List.foldl_cons, ih, mem_insertNat, List.mem_cons]
    tauto

theorem mem_distinct {y : Nat} {l : List Nat} : y ∈ distinct l ↔ y ∈ l := by
  simp [distinct, mem_foldl_insertNat]

/-- A store in the program of the split that divides is in those of the new splits too. -/
def Posted.sharedWith (x : Nat) (new : List Nat) (m : Posted) : Posted :=
  if m.seen.contains x then { m with seen := distinct (m.seen ++ new) } else m

theorem Strand.share_posted (S : Strand) (x : Nat) (new : List Nat) : (S.share x new).posted = S.posted.map (Posted.sharedWith x new) := rfl

@[simp] theorem Posted.sharedWith_addr (x : Nat) (new : List Nat) (m : Posted) : (m.sharedWith x new).addr = m.addr := by
  unfold Posted.sharedWith
  split <;> rfl

@[simp] theorem Posted.sharedWith_bytes (x : Nat) (new : List Nat) (m : Posted) : (m.sharedWith x new).bytes = m.bytes := by
  unfold Posted.sharedWith
  split <;> rfl

theorem Posted.mem_sharedWith_seen {x y : Nat} {new : List Nat} {m : Posted} :
    y ∈ (m.sharedWith x new).seen ↔ y ∈ m.seen ∨ x ∈ m.seen ∧ y ∈ new := by
  unfold Posted.sharedWith
  by_cases hx : x ∈ m.seen <;> simp [hx, mem_distinct]

/-- Split y reads of the shared stores what split x read before, where it has exactly x's stores in its program. -/
theorem Strand.sees_of_shared {S R : Strand} {x y w : Nat} {new : List Nat} (hR : R.posted = S.posted.map (Posted.sharedWith w new))
    (hseen : ∀ m ∈ S.posted, y ∈ (m.sharedWith w new).seen ↔ x ∈ m.seen) (a : Nat) : R.sees y a = S.sees x a := by
  have hfilter : S.posted.filter (fun m => (m.sharedWith w new).seen.contains y && (m.sharedWith w new).covers a) =
      S.posted.filter fun m => m.seen.contains x && m.covers a := by
    refine List.filter_congr fun m hm => ?_
    have hc : (m.sharedWith w new).seen.contains y = m.seen.contains x := by
      rw [Bool.eq_iff_iff, List.contains_iff_mem, List.contains_iff_mem]
      exact hseen m hm
    simp only [hc, Posted.covers, Posted.sharedWith_addr, Posted.sharedWith_bytes]
  unfold Strand.sees
  rw [hR, List.filter_map, List.getLast?_map, Option.map_map]
  simp only [Function.comp_def, hfilter, Posted.sharedWith_addr, Posted.sharedWith_bytes]

/-- The strand once its split has kept some lanes and entry e has got the others. -/
def Ctx.divided (k : Ctx) (S : Strand) (e : Nat) (stay : Word) (pc : BitVec 16) (go : Word) (pcGo : BitVec 16) : Strand :=
  { S.share k.x [e] with
    splits := (S.splits.set e { Split.none with st := .run, pc := pcGo, mask := go, view := (S.splits.getD k.x Split.none).view.fork,
                                                readyAt := k.now + 1 + k.stall }).modify k.x fun X =>
      { X with mask := stay, view := { X.view with written := [] }, pc := pc, readyAt := k.now + 1 + k.stall, yld := k.yld } }

theorem Ctx.keep_splitOff {k : Ctx} {s : State} {e : Nat} (he : (s.strand k.g k.t).freeSplit = some e) (stay go : Word) (pc pcGo : BitVec 16) :
    k.keep stay pc (k.splitOff go pcGo s) = s.setStrand k.g k.t fun _ => k.divided (s.strand k.g k.t) e stay pc go pcGo := by
  rw [Ctx.keep, Ctx.goto, State.setSplit_setSplit, State.setSplit_eq, Ctx.splitOff, State.setStrand_const s, State.setStrand_setStrand]
  simp only [he]
  rfl

section Divided

variable {k : Ctx} {S : Strand} {e : Nat} {stay go : Word} {pc pcGo : BitVec 16}

theorem Ctx.divided_split_self (hx : (S.splits.get? k.x).isSome) (hne : k.x ≠ e) :
    (k.divided S e stay pc go pcGo).splits.getD k.x Split.none =
      { S.splits.getD k.x Split.none with
        mask := stay, view := { (S.splits.getD k.x Split.none).view with written := [] }, pc := pc, readyAt := k.now + 1 + k.stall,
        yld := k.yld } := by
  unfold Ctx.divided
  rw [Tbl.getD_modify_self _ _ _ _ (by rwa [Tbl.get?_set_ne _ _ hne]), Tbl.getD_set_ne _ _ _ hne]

theorem Ctx.divided_split_new (hne : k.x ≠ e) :
    (k.divided S e stay pc go pcGo).splits.getD e Split.none =
      { Split.none with st := .run, pc := pcGo, mask := go, view := (S.splits.getD k.x Split.none).view.fork, readyAt := k.now + 1 + k.stall } := by
  unfold Ctx.divided
  rw [Tbl.getD_modify_ne _ _ _ hne.symm, Tbl.getD_set_self]

theorem Ctx.divided_split_other {y : Nat} (hx : y ≠ k.x) (he : y ≠ e) :
    (k.divided S e stay pc go pcGo).splits.getD y Split.none = S.splits.getD y Split.none := by
  unfold Ctx.divided
  rw [Tbl.getD_modify_ne _ _ _ hx, Tbl.getD_set_ne _ _ _ he]

theorem Ctx.divided_sees_self (a : Nat) : (k.divided S e stay pc go pcGo).sees k.x a = S.sees k.x a :=
  Strand.sees_of_shared (S.share_posted k.x [e]) (fun m _ => by rw [Posted.mem_sharedWith_seen]; tauto) a

theorem Ctx.divided_sees_new (hnew : ∀ m ∈ S.posted, e ∉ m.seen) (a : Nat) :
    (k.divided S e stay pc go pcGo).sees e a = S.sees k.x a :=
  Strand.sees_of_shared (S.share_posted k.x [e]) (fun m hm => by simp [Posted.mem_sharedWith_seen, hnew m hm]) a

end Divided

/-- Giving some lanes to the lowest free entry and keeping others divides the strand in two. -/
theorem Issues.divided_in_two {i : Instr} {s : State} {k : Ctx} (h : Issues i s k) {e : Nat} (he : e < 4)
    (hdead : (s.split k.g k.t e).st.live = false) (hlive : ∀ m, m < e → (s.split k.g k.t m).st.live = true) (stay go : Word)
    (pc pcGo : BitVec 16) : DividedInTwo s (k.keep stay pc (k.splitOff go pcGo s)) k e stay pc go pcGo := by
  have hne : k.x ≠ e := by
    rintro rfl
    rw [h.split_runs] at hdead
    cases hdead
  have hstrand := State.setStrand_strand s k.g k.t (fun _ => k.divided (s.strand k.g k.t) e stay pc go pcGo) h.gang_listed h.strand_listed
  have hself := Ctx.divided_split_self (stay := stay) (go := go) (pc := pc) (pcGo := pcGo) h.split_listed hne
  have hnew := Ctx.divided_split_new (S := s.strand k.g k.t) (stay := stay) (go := go) (pc := pc) (pcGo := pcGo) hne
  unfold DividedInTwo SplitAt
  rw [Ctx.keep_splitOff (Strand.freeSplit_eq_some he hdead hlive), State.split, State.split, hstrand, hself, hnew]
  exact ⟨rfl, rfl, Ctx.divided_sees_self, Ctx.divided_sees_new, ⟨h.split_runs, rfl, rfl⟩, ⟨rfl, rfl, rfl⟩, rfl, rfl, rfl, rfl,
    fun _ => Ctx.divided_split_other, fun _ => rfl⟩

theorem exec_vbr (c : Com) (a : Src) (off : BitVec 16) (s : State) : exec (.vbr c a off) s = execVbr c a off s := rfl

/-- Settles O11: the cases of R303 are the branches of VBR's body, by whether none, all or some of the active lanes are taken. -/
theorem vbrByItsLanes : Obligations.VbrByItsLanes := by
  unfold Obligations.VbrByItsLanes
  intro c a off s k h S taken target
  have hexec : exec (.vbr c a off) s = .next (
      if taken = 0 then k.done s
      else if taken = k.act then k.goto (branchTarget k.pc off) s
      else if k.S.liveSplits.length > 1 then k.trap { cause := cILLEGAL, detail := 0x0A } s
      else k.keep (k.X.mask &&& ~~~taken) k.next (k.splitOff taken (branchTarget k.pc off) s)) := by
    rw [exec_vbr, execVbr, issue_go _ h]
  rw [h.liveSplits_eq, h.mask_eq, branchTarget_eq] at hexec
  refine ⟨_, hexec, fun hnone => ?_, fun hsome hall => ?_, fun hsome hdiff hmany => ?_, fun hsome hdiff hone e he hdead hlive => ?_⟩
  · rw [if_pos hnone]
    exact h.goto_goes k.next
  · rw [if_neg hsome, if_pos hall]
    exact h.goto_goes target
  · rw [if_neg hsome, if_neg hdiff, if_pos hmany]
    exact h.trap_raises _
  · rw [if_neg hsome, if_neg hdiff, if_neg (Nat.not_lt.mpr hone)]
    exact h.divided_in_two he hdead hlive _ _ _ _

/-! ## Lane sets -/

theorem foldl_lanes_lt (p : Nat → Bool) (n : Nat) : (List.range n).foldl (fun a i => if p i then a + 2 ^ i else a) 0 < 2 ^ n := by
  induction n with
  | zero => simp
  | succ n ih =>
    rw [List.range_succ, List.foldl_append, List.foldl_cons, List.foldl_nil, Nat.pow_succ]
    split <;> omega

theorem testBit_foldl_lanes (p : Nat → Bool) (n i : Nat) :
    ((List.range n).foldl (fun a i => if p i then a + 2 ^ i else a) 0).testBit i = (decide (i < n) && p i) := by
  induction n with
  | zero => simp
  | succ n ih =>
    have hlt := foldl_lanes_lt p n
    rw [List.range_succ, List.foldl_append, List.foldl_cons, List.foldl_nil]
    generalize (List.range n).foldl (fun a i => if p i then a + 2 ^ i else a) 0 = a at ih hlt
    have hadd : (a + 2 ^ n).testBit i = (a.testBit i || decide (n = i)) := by
      have hor := Nat.two_pow_add_eq_or_of_lt hlt 1
      rw [Nat.mul_one] at hor
      rw [Nat.add_comm, hor, Nat.testBit_or, Nat.testBit_two_pow, Bool.or_comm]
    rcases Nat.lt_trichotomy i n with hi | rfl | hi
    · split <;> simp [hadd, ih, hi, Nat.lt_succ_of_lt hi, hi.ne']
    · by_cases hp : p i = true <;> simp [hadd, ih, hp]
    · have hne : ¬i < n + 1 := by omega
      split <;> simp [hadd, ih, hne, hi.ne, Nat.not_lt.mpr hi.le]

/-- A lane is in the set of the lanes that satisfy `p` where it does. -/
theorem bit_laneSet (p : Nat → Bool) {i : Nat} (hi : i < 32) : bit (laneSet p) i = p i := by
  rw [bit, laneSet, BitVec.getLsbD_ofNat, testBit_foldl_lanes]
  simp [hi]

/-! ## Nesting counters (R305, R306) -/

theorem counterOf_lt (s : State) (g t n : Nat) : counterOf s g t n < 256 := BitVec.isLt _

theorem Issues.count_eq {i : Instr} {s : State} {k : Ctx} (h : Issues i s k) (n : Nat) : k.count n = counterOf s k.g k.t n := by
  rw [Ctx.count, h.counters_eq, counterOf]

theorem Issues.held_eq {i : Instr} {s : State} {k : Ctx} (h : Issues i s k) : k.held = (List.range 32).filter (k.holds s) := by
  rw [Ctx.held, lanesOf, List.filter_filter, h.mask_eq, h.vacant_eq]
  exact List.filter_congr fun n _ => Bool.and_comm _ _

theorem Issues.mem_held {i : Instr} {s : State} {k : Ctx} (h : Issues i s k) {n : Nat} : n ∈ k.held ↔ n < 32 ∧ k.holds s n = true := by
  rw [h.held_eq, List.mem_filter, List.mem_range]

theorem Issues.held_filter_eq {i : Instr} {s : State} {k : Ctx} (h : Issues i s k) (p : Nat → Bool) :
    k.held.filter p = (List.range 32).filter fun n => k.holds s n && p n := by
  rw [h.held_eq, List.filter_filter]
  exact List.filter_congr fun n _ => Bool.and_comm _ _

/-- The active lanes are the lanes of the mask, not vacant, with counter 0 (R156). -/
theorem Issues.on_eq {i : Instr} {s : State} {k : Ctx} (h : Issues i s k) {n : Nat} (hn : n < 32) :
    k.on n = (k.holds s n && counterOf s k.g k.t n == 0) := by
  rw [Ctx.on, h.act_eq, Strand.active, bit_laneSet _ hn, Ctx.holds, counterOf, Bool.eq_iff_iff]
  simp [← BitVec.toNat_inj]

/-- Setting entries one after another: each listed number reads as it was set, every other as before. -/
theorem getD_foldl_set {α : Type} (f : Nat → α) (l : List Nat) (t : Tbl α) (n : Nat) (d : α) :
    (l.foldl (fun a i => a.set i (f i)) t : Tbl α).getD n d = if n ∈ l then f n else t.getD n d := by
  induction l generalizing t with
  | nil => simp
  | cons i r ih =>
    rw [List.foldl_cons, ih]
    by_cases hr : n ∈ r
    · simp [hr]
    · by_cases hi : n = i
      · subst hi
        simp [hr]
      · simp [hr, hi, Tbl.getD_set_ne _ _ _ hi]

/-- New counters `f` for the lanes of the mask that are not vacant, and the step to a PC, leave everything else as it was. -/
theorem Issues.recount_counted {i : Instr} {s : State} {k : Ctx} (h : Issues i s k) (pc : BitVec 16) {f g : Nat → Nat}
    (hf : ∀ n, n < 32 → k.holds s n = true → f n = g n ∧ g n < 256) : Counted s (k.goto pc (k.recount f s)) k pc g := by
  have hstep : k.goto pc (k.recount f s) = s.setStrand k.g k.t fun S =>
      { S with counters := k.held.foldl (fun a i => a.set i (BitVec.ofNat 8 (f i))) S.counters,
               splits := S.splits.modify k.x fun X => { X with pc := pc, readyAt := s.cycle + 1 + k.stall, yld := k.yld } } := by
    rw [Ctx.goto, Ctx.recount, State.setSplit_eq, State.setStrand_setStrand, h.now_eq]
  rw [hstep]
  unfold Counted counterOf
  rw [State.setStrand_strand s _ _ _ h.gang_listed h.strand_listed]
  refine ⟨State.setStrand_const .., rfl, fun n hn => ?_, fun _ => rfl⟩
  rw [getD_foldl_set]
  by_cases hh : k.holds s n = true
  · obtain ⟨hfg, hlt⟩ := hf n hn hh
    rw [if_pos (h.mem_held.mpr ⟨hn, hh⟩), if_pos hh, hfg, BitVec.toNat_ofNat, Nat.mod_eq_of_lt hlt]
  · rw [if_neg fun hmem => hh (h.mem_held.mp hmem).2, if_neg hh]

/-- VIF's and VLOOP's shape: where some lane that may change would pass 255 (`p`), NESTING names those lanes and no counter changes. -/
theorem Issues.recount_or_nesting {i : Instr} {s : State} {k : Ctx} (h : Issues i s k) (p : Nat → Bool) {f g : Nat → Nat}
    (hf : ∀ n, k.holds s n = true → p n = false → f n = g n ∧ g n < 256) :
    let bad := k.held.filter p
    let full := (List.range 32).filter fun n => k.holds s n && p n
    let t := if bad ≠ [] then k.trap { cause := cNESTING, lanes := setOfLanes bad } s else k.done (k.recount f s)
    if full = [] then Counted s t k k.next g else Raises s t i { cause := cNESTING, lanes := setOfLanes full } := by
  intro bad full t
  have hbad : bad = full := h.held_filter_eq p
  by_cases hfull : full = []
  · have ht : t = k.done (k.recount f s) := if_neg (not_not.mpr (hbad.trans hfull))
    rw [if_pos hfull, ht]
    refine h.recount_counted k.next fun n hn hh => hf n hh ?_
    have hnot := List.filter_eq_nil_iff.mp hfull n (List.mem_range.mpr hn)
    simpa [hh] using hnot
  · have ht : t = k.trap { cause := cNESTING, lanes := setOfLanes full } s := by
      rw [← hbad]
      exact if_pos (hbad ▸ hfull)
    rw [if_neg hfull, ht]
    exact h.trap_raises _

/-- VENDL's counters before it leaves, in terms of the state's. -/
theorem Issues.endlCount_eq {i : Instr} {s : State} {k : Ctx} (h : Issues i s k) (inv : Bool) (a : Src) (n : Nat) :
    k.endlCount inv a n =
      if counterOf s k.g k.t n ≤ 1 then (if (k.v a n != 0) != inv then 0 else 2) else counterOf s k.g k.t n := by
  rw [Ctx.endlCount, h.count_eq]
  rfl

/-- These counters are bytes, and none is the 1 of a continued lane. -/
theorem Issues.endlCount_range {i : Instr} {s : State} {k : Ctx} (h : Issues i s k) (inv : Bool) (a : Src) (n : Nat) :
    k.endlCount inv a n ≠ 1 ∧ k.endlCount inv a n < 256 := by
  have hlt := counterOf_lt s k.g k.t n
  rw [h.endlCount_eq]
  split_ifs <;> omega

/-- VBREAK and VCONT give the active lanes that meet their condition a counter, `m`. -/
theorem Issues.mark_counted {i : Instr} {s : State} {k : Ctx} (h : Issues i s k) (inv : Bool) (a : Src) {m : Nat} (hm : m < 256) :
    Counted s (k.done (k.recount (fun n => if k.on n && k.cond inv a n then m else k.count n) s)) k k.next fun n =>
      if counterOf s k.g k.t n = 0 ∧ ((k.v a n != 0) != inv) = true then m else counterOf s k.g k.t n := by
  refine h.recount_counted k.next fun n hn hh => ⟨?_, ?_⟩
  · simp only [h.on_eq hn, hh, h.count_eq, Ctx.cond, Bool.true_and, Bool.and_eq_true, beq_iff_eq]
  · have hlt := counterOf_lt s k.g k.t n
    split <;> omega

/-- VENDL goes back to the body where some lane now has counter 0, and else takes 2 from the counters and goes on. -/
theorem Issues.endl_counted {i : Instr} {s : State} {k : Ctx} (h : Issues i s k) (inv : Bool) (a : Src) (back : BitVec 16) :
    let t := if k.held.any fun n => k.endlCount inv a n == 0 then k.goto back (k.recount (k.endlCount inv a) s)
      else k.done (k.recount (fun n => k.endlCount inv a n - 2) s)
    if (List.range 32).filter (fun n => k.holds s n && k.endlCount inv a n == 0) ≠ [] then Counted s t k back (k.endlCount inv a)
    else Counted s t k k.next fun n => if k.endlCount inv a n ≥ 2 then k.endlCount inv a n - 2 else k.endlCount inv a n := by
  intro t
  have hany : (k.held.any fun n => k.endlCount inv a n == 0) = true ↔
      (List.range 32).filter (fun n => k.holds s n && k.endlCount inv a n == 0) ≠ [] := by
    rw [← h.held_filter_eq, ne_eq, List.filter_eq_nil_iff, List.any_eq_true]
    push Not
    rfl
  by_cases hback : (List.range 32).filter (fun n => k.holds s n && k.endlCount inv a n == 0) ≠ []
  · have ht : t = k.goto back (k.recount (k.endlCount inv a) s) := if_pos (hany.mpr hback)
    rw [if_pos hback, ht]
    exact h.recount_counted back fun n _ _ => ⟨rfl, (h.endlCount_range inv a n).2⟩
  · have ht : t = k.done (k.recount (fun n => k.endlCount inv a n - 2) s) := if_neg (mt hany.mp hback)
    rw [if_neg hback, ht]
    refine h.recount_counted k.next fun n _ _ => ?_
    obtain ⟨hone, hlt⟩ := h.endlCount_range inv a n
    split <;> omega

section Arms

variable (c : Com) (inv : Bool) (a : Src) (off : BitVec 16) (s : State)

theorem exec_vif : exec (.vif c inv a) s = execVif c inv a s := rfl
theorem exec_velse : exec (.velse c) s = execVelse c s := rfl
theorem exec_vendif : exec (.vendif c) s = execVendif c s := rfl
theorem exec_vloop : exec (.vloop c) s = execVloop c s := rfl
theorem exec_vbreak : exec (.vbreak c inv a) s = execVbreak c inv a s := rfl
theorem exec_vcont : exec (.vcont c inv a) s = execVcont c inv a s := rfl
theorem exec_vendl : exec (.vendl c inv a off) s = execVendl c inv a off s := rfl

end Arms

/-- Settles O10: each instruction recounts the lanes it may change, with what R305 and R306 give in a byte; VIF and VLOOP check first. -/
theorem nestingCounters : Obligations.NestingCounters := by
  unfold Obligations.NestingCounters
  intro c inv a off s k n c_ any vendl
  have hlt : ∀ m, n m < 256 := counterOf_lt s k.g k.t
  refine ⟨fun h => ?vif, fun h => ?velse, fun h => ?vendif, fun h => ?vloop, fun h => ?vbreak, fun h => ?vcont, fun h => ?vendl⟩
  case vif =>
    rw [exec_vif, execVif, issue_go _ h]
    have hcount : ∀ m, k.count m = n m := h.count_eq
    simp only [hcount]
    refine ⟨_, rfl, h.recount_or_nesting (fun m => n m == 255) fun m _ hm => ⟨rfl, ?_⟩⟩
    have hne : n m ≠ 255 := by simpa using hm
    have := hlt m
    split_ifs <;> omega
  case velse =>
    rw [exec_velse, execVelse, issue_go _ h]
    have hcount : ∀ m, k.count m = n m := h.count_eq
    simp only [hcount]
    refine ⟨_, rfl, h.recount_counted k.next fun m _ _ => ⟨rfl, ?_⟩⟩
    have := hlt m
    split_ifs <;> omega
  case vendif =>
    rw [exec_vendif, execVendif, issue_go _ h]
    have hcount : ∀ m, k.count m = n m := h.count_eq
    simp only [hcount]
    refine ⟨_, rfl, h.recount_counted k.next fun m _ _ => ?_⟩
    have := hlt m
    split_ifs <;> omega
  case vloop =>
    rw [exec_vloop, execVloop, issue_go _ h]
    have hcount : ∀ m, k.count m = n m := h.count_eq
    simp only [hcount]
    refine ⟨_, rfl, h.recount_or_nesting (fun m => decide (254 ≤ n m)) fun m _ hm => ?_⟩
    have hlow : n m < 254 := by simpa using hm
    split_ifs <;> omega
  case vbreak =>
    rw [exec_vbreak, execVbreak, issue_go _ h]
    exact ⟨_, rfl, h.mark_counted inv a (by decide)⟩
  case vcont =>
    rw [exec_vcont, execVcont, issue_go _ h]
    exact ⟨_, rfl, h.mark_counted inv a (by decide)⟩
  case vendl =>
    have hv : k.endlCount inv a = vendl := funext (h.endlCount_eq inv a)
    rw [exec_vendl, execVendl, issue_go _ h, branchTarget_eq, ← hv]
    exact ⟨_, rfl, h.endl_counted inv a _⟩

end Sys2Proof.Machine
end
